-- ==== Sys2Proof/Word.lean ====
section
/-! DEFINITION. The words of the machine: bytes, 32-bit words, 64-bit dwords, and a keyed table. -/

namespace Sys2Proof

/-- One byte (R5). -/
abbrev Byte := BitVec 8

/-- One word: a lane's part of a vector register, an instruction word (R5, R17). -/
abbrev Word := BitVec 32

/-- One dword: a scalar or uniform register (R5, R100). -/
abbrev Dword := BitVec 64

/-- A code or data address of the generic address space: 57 bits (R223). -/
abbrev Addr := BitVec 57

/-- A table of values by number. A number that no entry names has the value that the reader of the
table gives (a reset value), so a table holds only what differs from reset. -/
abbrev Tab (α : Type) := List (Nat × α)

end Sys2Proof
end

