-- ==== Sys2Proof/Fields.lean ====
section
/-! DEFINITION. The enumerated fields and operand forms of the instruction words (R30, R31, R63, R64),
and the data that events of the machine's engines and of the outside world carry. -/

namespace Sys2Proof

/-- The two program-counter slots of a group (R3). -/
inductive SlotId | A | B
  deriving DecidableEq, Repr

/-- Scope codes 0 to 4 of R30: group, team, cluster, package (device), system. -/
inductive Scope | g | t | c | d | s
  deriving DecidableEq, Repr

/-- Size codes 0 to 4 of R30. -/
inductive Size | byte | half | word | dword | quad
  deriving DecidableEq, Repr

/-- The element types of R36, in the order of their codes. -/
inductive Ty
  | s8 | s16 | s32 | s64 | n8 | n16 | n32 | n64
  | f32 | f16 | bf16 | e4m3 | e5m2 | e3m2 | e2m3 | e2m1
  | e8m0 | bp2 | bp3 | bp4 | bp5 | bp6 | bp7 | bp8
  deriving DecidableEq, Repr

/-- The approximated functions of R96. -/
inductive Fn | rcp | rsq | sqrt | exp2 | log2 | sin | cos | tanh
  deriving DecidableEq, Repr

/-- Conditions of `ICMP` (R64). -/
inductive ICond | eq | ne | lt | le | gt | ge
  deriving DecidableEq, Repr

/-- Conditions of `FCMP` (R64). -/
inductive FCond | eq | ne | lt | le | gt | ge | un | ord
  deriving DecidableEq, Repr

/-- Scalar condition codes 0x0 to 0xE (R31). -/
inductive CC | eq | ne | lt | ge | ltu | geu | gt | le | gtu | leu | mi | pl | vs | vc | al
  deriving DecidableEq, Repr

/-- Atomic operations (R64). -/
inductive AtomOp | add | and | or | xor | min | max | swap | cas
  deriving DecidableEq, Repr

/-- Lane-shuffle modes (R108). -/
inductive ShflMode | idx | xor | up | dn
  deriving DecidableEq, Repr

/-- Reductions (R110). -/
inductive RedOp | add | min | max
  deriving DecidableEq, Repr

/-- Prefixes (R111). -/
inductive ScanOp | add | xadd | min | max
  deriving DecidableEq, Repr

/-- Fields of `gm` by their `MODEF` numbers 0 to 6 (R35). -/
inductive GmField | guard | dtype | stype | rnd | sat | fin | fout
  deriving DecidableEq, Repr

/-- Bytes a lane of `CPY` or `CPL` moves (R63, R182). -/
inductive CopySize | b4 | b8 | b16
  deriving DecidableEq, Repr

/-- The offset operand of the memory format (R30): the word of a vector register (k = 0) or an
element step (k = 1). -/
inductive MOff
  | vec (o : BitVec 8)
  | step (e : BitVec 8)
  deriving DecidableEq, Repr

/-- The residency predicate `p1` to `p7` of `LDP` (R64). -/
inductive LdpPred | p1 | p2 | p3 | p4 | p5 | p6 | p7
  deriving DecidableEq, Repr

/-- Why a byte string is not the bytes of an instruction: fewer than four bytes, or a word that R66
refuses with `FLT.ILLOP`. -/
inductive Reject | short | illop (w : BitVec 32)
  deriving DecidableEq, Repr

/-- A packet of a fabric message (R397): the op code of an atomic, the address, the keys and the payload. `marks` are the poison flags of the
payload's bytes, which no field of its header shows (R284, R425; log entry 64). -/
structure Packet where
  op : Nat := 0
  addr : Nat := 0
  key : Word := 0
  gkey : BitVec 24 := 0
  payload : List Byte := []
  marks : List Bool := []
  deriving DecidableEq, Repr

/-- A fabric message (R397) without its tag, which its other flits give (R398). -/
structure Message where
  kind : Nat
  dst : BitVec 19
  src : BitVec 19
  ddie : Nat
  sdie : Nat
  seq : Nat
  hseq : Nat := 0
  birth : Nat
  packets : List Packet
  deriving DecidableEq, Repr

/-- What a message that arrives shows besides what it asks or answers (R397, R398): the Kolgon port that it comes by, the dies of
its gateways, its sequence numbers, its birth, and the first dword of its tail flit. -/
structure Envelope where
  port : Nat
  ddie : Nat
  sdie : Nat
  seq : Nat
  hseq : Nat
  birth : Nat
  tag : Dword
  deriving DecidableEq, Repr

/-- A request of a peer to reserve a landing slot (R189, R397 kind 9). -/
structure LzPeerReq where
  node : BitVec 19
  gkey : BitVec 24
  die : Nat
  core : Nat
  zone : Nat
  gen : BitVec 8
  tag : BitVec 24
  deriving DecidableEq, Repr

/-- A reservation that reaches its target: one sent by a group of this package, by its outstanding
operation, or one sent by a peer. -/
inductive LzArrival
  | own (place id : Nat)
  | peer (e : Envelope) (r : LzPeerReq)
  deriving DecidableEq, Repr

/-- What a peer's remote request asks for (R392, R397 kinds 0, 2 and 4), or a message of a reserved kind, which asks
nothing. -/
inductive PeerOp
  | read (len : Nat)
  | write (data : List Byte)
  | atomic (op : AtomOp) (dtype : BitVec 5) (operand compare : Dword)
  | reserved (kind : Nat)
  deriving DecidableEq, Repr

/-- A remote request of a peer (R392): one packet of a message; `marks` are the poison flags of the bytes that it writes (R425; log entry 64). -/
structure PeerReq where
  node : BitVec 19
  gkey : BitVec 24
  key : Word
  addr : Nat
  op : PeerOp
  marks : List Bool := []
  deriving DecidableEq, Repr

/-- A message of requests that reaches the package (R260, R397). -/
structure PeerMsg where
  env : Envelope
  reqs : List PeerReq
  deriving DecidableEq, Repr

/-- The answer to one remote unit (R147, R399). Each byte of the data comes with the poison of its word (R425). -/
inductive RemAns
  | data (bytes : List (Byte × Bool))
  | ack
  | rkey
  | link
  deriving DecidableEq, Repr

/-- What a remote answer answers: a unit of a held instruction, by its place and its number among the
units, or a write-back (R147). -/
inductive AnsTo
  | unit (p u : Nat)
  | wb (id : Nat)
  deriving DecidableEq, Repr

/-- The completion status of a PCI Express AtomicOp (R160, R419). -/
inductive PcieStatus | success | unsupported | abort
  deriving DecidableEq, Repr

/-- A landing packet of a peer (R270, R397 kind 1), with its message's sender. `copies` are the further slots of a multicast on the same
die, as core, zone, generation and slot, which no field of its header names (R272; log entry 20), and `marks` the poison flags of its
bytes (R425; log entry 64). -/
structure LandPacket where
  node : BitVec 19
  gkey : BitVec 24
  die : Nat
  core : Nat
  zone : Nat
  gen : BitVec 8
  slot : Nat
  off : Nat
  data : List Byte
  copies : List (Nat × Nat × BitVec 8 × Nat) := []
  marks : List Bool := []
  deriving DecidableEq, Repr

/-- A landing packet that reaches the core: of an own `CPL` operation to its n-th target, or of a peer
in message `msg`. -/
inductive LandArrival
  | own (op target : Nat)
  | peer (msg : Nat) (e : Envelope) (p : LandPacket)
  deriving DecidableEq, Repr

/-- A hoist request record (R283). Argument words carry no poison (R283). -/
structure HoistReq where
  desc : Dword
  lockpa : Nat
  lockva : Addr
  mast : Bool
  wait : Bool
  tok : BitVec 3
  lane : Nat
  node : BitVec 19
  gkey : BitVec 24
  key : Word
  wdog : Word
  seq : Nat
  args : List Word
  deriving DecidableEq, Repr

/-- A hoist that reaches its home: an own one by its number, or a peer's in its message (R397, R402). -/
inductive HoistIn
  | own (id : Nat)
  | peer (e : Envelope) (r : HoistReq)
  deriving DecidableEq, Repr

/-- A hoist response as it arrives (R284): the answer recorded for an own home, or a peer home's. -/
inductive HoistAns
  | own
  | peer (e : Envelope) (cls : BitVec 8) (results : List (Word × Bool))
  deriving DecidableEq, Repr

/-- What an acknowledgment timeout concerns (R394). -/
inductive AckOf
  | xfer (id : Nat)
  | unit (place u : Nat)
  | hoist (id : Nat)
  | reserve (place id : Nat)
  | wb (id : Nat)
  deriving DecidableEq, Repr

/-- A fabric message that expires (R394): one of this package by what it carries or by its number, or a peer's response to an
own hoist. -/
inductive MsgOf
  | xfer (id : Nat)
  | unit (place u : Nat)
  | hoist (id : Nat)
  | response (id : Nat)
  | reserve (place id : Nat)
  | wb (id : Nat)
  | out (num : Nat)
  deriving DecidableEq, Repr

/-- A response that arrives for a saved group (R345). -/
inductive SavedAns
  | hoist (id : Nat) (a : HoistAns)
  | service (seq : Nat)
  deriving DecidableEq, Repr

/-- Where an uncorrectable error is found (R424). -/
inductive ErrPlace
  | vreg (place r lane : Nat)
  | sreg (place r : Nat)
  | kreg (team r : Nat)
  | preg (place r : Nat)
  | xreg (place r : Nat)
  | gm (place : Nat) (slot : SlotId)
  | tile (team t row word : Nat)
  | acc (team a i j : Nat)
  | shadow (team m i j : Nat)
  | sram (core off : Nat)
  | l1 (core word : Nat)
  | l2 (word : Nat)
  | dram (addr : Nat)
  | tlb
  | metadata (addr : Nat)
  | control (die : Nat) (firmware : Bool)
  deriving DecidableEq, Repr

/-- A reading of the sensors of a die (R450): junction in 1/16 degree, watts, whether the package has
drawn more than its limit for 1 ms. -/
structure SensorReading where
  die : Nat
  temp : BitVec 16
  power : BitVec 16
  above : Bool
  packagePower : BitVec 24
  deriving DecidableEq, Repr

/-- What a decision of F2 about a page (R388, R389) takes from outside the machine's state: the queue depth q, the local
frame and metadata area for a copy, and where a victim's data and metadata go. -/
structure MigPlan where
  q : Nat
  frame : Nat
  mbase : Nat
  home : Nat
  homeMeta : Nat
  deriving DecidableEq, Repr

/-- What the clock of a PC sample shows of the timing that the state does not hold (R434): the code of a clause fetch or of the matrix
engine's acceptance. -/
structure SampleMoment where
  code : BitVec 5
  deriving DecidableEq, Repr

/-- What firmware sets during bring-up (R453, R390, R299): every MASTRING, by die and mast core, and the free frames. -/
structure BringUp where
  rings : List Dword
  free : BitVec 24
  deriving DecidableEq, Repr

/-- The measured wear indicators of a die, in the order of R451, but for the rate of corrected errors, which the die counts. -/
structure WearReading where
  die : Nat
  drift : Nat
  rowsUsed : Nat
  rowsSpare : Nat
  margin : Int
  deriving DecidableEq, Repr

end Sys2Proof
end

