-- ==== Sys2Proof/Config.lean ====
section
/-! DEFINITION. What an implementation fixes and the spec leaves open: free values. None has a body that
Lean can evaluate, so a statement holds for every value of each. -/

namespace Sys2Proof.Config

/-- The answer of the core's algorithm for an approximated function (R96): the bits of the result for a
function, an element type and the operand's bits. The model uses it where it lies within the row's error
bound (log entry 8). -/
opaque approx : Fn → Ty → Nat → Nat

/-- The address field of the `FLT.POISON` of a poisoned `gm`, which the spec does not give (log entry 7). -/
opaque gmPoison : Word → Dword

/-- A free bit vector for the n-th draw (log entry 5). -/
opaque freeWord : Nat → BitVec 64

/-- The type of a hardware unit's or a firmware function's message by its matter, which the spec does not number (log
entry 58). -/
opaque messageType : Nat → BitVec 8

/-- The fused digest of the key that signs firmware, as 48 bytes (R358; log entry 11). -/
opaque keyDigest : List Byte

/-- The fused security counter (R358; log entry 11). -/
opaque fusedSvn : Nat

/-- The identity key's modulus and private exponent (R452; log entry 11). -/
opaque identity : Nat × Nat

end Sys2Proof.Config
end

