-- ==== Sys2Proof/Machine/Bits.lean ====
section
/-! DEFINITION. Bit fields, sign extension, byte order and lane masks (R4, R7, R38). -/

namespace Sys2Proof.Machine

open Sys2Proof

/-- The signed value of the low `n` bits of `x`. -/
def signedOf (n x : Nat) : Int :=
  let y := x % 2 ^ n
  if n = 0 then 0 else if y < 2 ^ (n - 1) then (y : Int) else (y : Int) - (2 ^ n : Nat)

/-- `z` modulo `2 ^ n`, as a natural number (two's complement for a negative `z`). -/
def wrapTo (n : Nat) (z : Int) : Nat := (z % (2 ^ n : Nat)).toNat

/-- Bits `[hi:lo]` of a number. -/
def field (x hi lo : Nat) : Nat := x / 2 ^ lo % 2 ^ (hi + 1 - lo)

/-- Bit `i` of a number. -/
def bitOf (x i : Nat) : Bool := x / 2 ^ i % 2 = 1

/-- 1 or 0. -/
def oneIf (b : Bool) : Nat := if b then 1 else 0

/-- The lanes of a mask, in ascending order (R7, R10). -/
def lanesOf (m : Word) : List Nat := (List.range 32).filter (fun l => m.getLsbD l)

/-- The mask of a list of lanes. -/
def maskOf (ls : List Nat) : Word := ls.foldl (fun m l => m ||| BitVec.twoPow 32 l) 0

/-- The number of set bits of a word. -/
def popcount (w : Word) : Nat := (lanesOf w).length

/-- The bytes of a number in ascending address order, `n` of them (R4). -/
def bytesOf : Nat → Nat → List Byte
  | 0, _ => []
  | n + 1, x => BitVec.ofNat 8 x :: bytesOf n (x / 256)

/-- The number that bytes hold in ascending address order (R4). -/
def ofBytes : List Byte → Nat
  | [] => 0
  | b :: r => b.toNat + 256 * ofBytes r

/-- `x` rounded up to a multiple of `n`. -/
def roundUp (x n : Nat) : Nat := (x + n - 1) / n * n

/-- A branch offset in bytes: four times the sign-extended word offset (R31). -/
def offBytes (o : BitVec 20) : Addr := (o.signExtend 57) <<< 2

/-- The entries of a list before the first that satisfies `f`. -/
def takeUntil {α : Type} (f : α → Bool) : List α → List α
  | [] => []
  | x :: r => if f x then [] else x :: takeUntil f r

/-- The list with an element put in by a key, after those of the same key. -/
def insertBy {α : Type} (k : α → Nat) (x : α) : List α → List α
  | [] => [x]
  | y :: r => if k x < k y then x :: y :: r else y :: insertBy k x r
/-- A list in ascending order of a key, elements of one key in their order. -/
def sortBy {α : Type} (k : α → Nat) (l : List α) : List α := l.foldl (fun r x => insertBy k x r) []

end Sys2Proof.Machine
end

