-- ==== Sys2Proof/Machine/Num.lean ====
section
/-! DEFINITION. Number formats and exact arithmetic (R41 to R60, R79): elements of a word, exact values,
rounding, range, conversion. -/

namespace Sys2Proof.Machine

open Sys2Proof

/-- The type of a code of R36; none for a reserved code. -/
def tyOf : Nat → Option Ty
  | 0x00 => some .s8 | 0x01 => some .s16 | 0x02 => some .s32 | 0x03 => some .s64
  | 0x04 => some .n8 | 0x05 => some .n16 | 0x06 => some .n32 | 0x07 => some .n64
  | 0x08 => some .f32 | 0x09 => some .f16 | 0x0A => some .bf16 | 0x0B => some .e4m3
  | 0x0C => some .e5m2 | 0x0D => some .e3m2 | 0x0E => some .e2m3 | 0x0F => some .e2m1
  | 0x10 => some .e8m0 | 0x11 => some .bp2 | 0x12 => some .bp3 | 0x13 => some .bp4
  | 0x14 => some .bp5 | 0x15 => some .bp6 | 0x16 => some .bp7 | 0x17 => some .bp8
  | _ => none

/-- The bits of an element's value (R41 to R43, R49). -/
def tyWidth : Ty → Nat
  | .s8 | .n8 | .e4m3 | .e5m2 | .e8m0 | .bp8 => 8
  | .s16 | .n16 | .f16 | .bf16 => 16
  | .s32 | .n32 | .f32 => 32
  | .s64 | .n64 => 64
  | .e3m2 | .e2m3 | .bp6 => 6
  | .e2m1 | .bp4 => 4
  | .bp2 => 2 | .bp3 => 3 | .bp5 => 5 | .bp7 => 7

/-- The bits of an element's place in a register word (R50, R79). -/
def tyPlace : Ty → Nat
  | .s8 | .n8 | .e4m3 | .e5m2 | .e8m0 | .e3m2 | .e2m3 | .bp5 | .bp6 | .bp7 | .bp8 => 8
  | .s16 | .n16 | .f16 | .bf16 => 16
  | .s32 | .n32 | .f32 => 32
  | .s64 | .n64 => 64
  | .e2m1 | .bp3 | .bp4 => 4
  | .bp2 => 2

/-- E(T): the elements of a register word (R79). -/
def tyCount (t : Ty) : Nat := 32 / tyPlace t

/-- An s type: `s8` to `s64` and the bit-plane types (R36). -/
def tyS : Ty → Bool
  | .s8 | .s16 | .s32 | .s64 | .bp2 | .bp3 | .bp4 | .bp5 | .bp6 | .bp7 | .bp8 => true
  | _ => false
/-- An n type (R36). -/
def tyN : Ty → Bool
  | .n8 | .n16 | .n32 | .n64 => true
  | _ => false
/-- A bit-plane type (R36). -/
def tyBp : Ty → Bool
  | .bp2 | .bp3 | .bp4 | .bp5 | .bp6 | .bp7 | .bp8 => true
  | _ => false
/-- A floating-point type (R43). -/
def tyF : Ty → Bool
  | .f32 | .f16 | .bf16 | .e4m3 | .e5m2 | .e3m2 | .e2m3 | .e2m1 => true
  | _ => false
/-- A 64-bit integer, which has no place in a vector register (R79). -/
def ty64 : Ty → Bool
  | .s64 | .n64 => true
  | _ => false

/-- The element type of the integer vector instructions for a dtype code (R81): floating-point, scale
and bit-plane codes are read as `s32`. -/
def intTy (t : Ty) : Ty :=
  match t with
  | .s8 | .s16 | .s32 | .s64 | .n8 | .n16 | .n32 | .n64 => t
  | _ => .s32

/-- Element `i` of a word: the bits of its value (R50, R79). -/
def elem (w : Word) (t : Ty) (i : Nat) : Nat := w.toNat / 2 ^ (tyPlace t * i) % 2 ^ tyWidth t

/-- What fills a place for a value's bits: zeros above, but sign copies for a bit-plane type (R50, R79). -/
def fillPlace (t : Ty) (x : Nat) : Nat :=
  if tyBp t then wrapTo (tyPlace t) (signedOf (tyWidth t) x) else x % 2 ^ tyWidth t

/-- The word with element `i` replaced (R59). -/
def setElem (w : Word) (t : Ty) (i : Nat) (x : Nat) : Word :=
  let p := tyPlace t
  let m := BitVec.ofNat 32 ((2 ^ p - 1) * 2 ^ (p * i))
  (w &&& ~~~m) ||| (BitVec.ofNat 32 (fillPlace t x * 2 ^ (p * i)) &&& m)

/-- The word of a function of the element number (R79). -/
def wordOf (t : Ty) (f : Nat → Nat) : Word :=
  (List.range (tyCount t)).foldl (fun w i => setElem w t i (f i)) 0

/-- The integer an element denotes (R41, R49). -/
def intOf (t : Ty) (x : Nat) : Int := if tyS t then signedOf (tyWidth t) x else ((x % 2 ^ tyWidth t : Nat) : Int)

/-- The smallest value of an integer type. -/
def intMin (t : Ty) : Int := if tyS t then -(2 ^ (tyWidth t - 1) : Nat) else 0
/-- The largest value of an integer type. -/
def intMax (t : Ty) : Int := if tyS t then (2 ^ (tyWidth t - 1) : Nat) - 1 else (2 ^ tyWidth t : Nat) - 1
/-- An integer clamped to a type's range. -/
def clampInt (t : Ty) (z : Int) : Int := if z < intMin t then intMin t else if intMax t < z then intMax t else z
/-- An integer fitted to its type: clamped when sat = 1, wrapped when sat = 0 (R41). -/
def fitInt (t : Ty) (sat : Bool) (z : Int) : Nat := wrapTo (tyWidth t) (if sat then clampInt t z else z)

/-! Exact values. -/

/-- A value: a NaN, an infinity, or a signed number `m * 2^e` (with signed zeros). -/
inductive Num
  | nan
  | inf (neg : Bool)
  | fin (neg : Bool) (m : Nat) (e : Int)
  deriving DecidableEq, Repr

/-- Mantissa bits of a floating-point type (R42). -/
def mbits : Ty → Nat
  | .f32 => 23 | .f16 => 10 | .bf16 => 7 | .e4m3 => 3 | .e5m2 => 2 | .e3m2 => 2 | .e2m3 => 3 | _ => 1
/-- Exponent bits of a floating-point type (R42). -/
def ebits : Ty → Nat
  | .f32 | .bf16 => 8 | .f16 | .e5m2 => 5 | .e4m3 => 4 | .e3m2 => 3 | .e2m3 | .e2m1 => 2 | _ => 8
/-- The exponent bias (R42). -/
def bias : Ty → Nat
  | .f32 | .bf16 => 127 | .f16 | .e5m2 => 15 | .e4m3 => 7 | .e3m2 => 3 | .e2m3 | .e2m1 => 1 | _ => 127
/-- emin(T) = 1 − bias (R51). -/
def emin (t : Ty) : Int := 1 - (bias t : Int)
/-- The top exponent field holds infinities and NaNs (R42). -/
def hasInf : Ty → Bool
  | .f32 | .f16 | .bf16 | .e5m2 => true
  | _ => false
/-- The bits of the largest finite value, without the sign (R42). -/
def maxBits : Ty → Nat
  | .f32 => 0x7F7FFFFF | .f16 => 0x7BFF | .bf16 => 0x7F7F | .e4m3 => 0x7E | .e5m2 => 0x7B
  | .e3m2 => 0x1F | .e2m3 => 0x1F | _ => 0x7
/-- The bits of +∞ where the type has one. -/
def infBits (t : Ty) : Nat := (2 ^ ebits t - 1) * 2 ^ mbits t
/-- The canonical NaN (R44); the three types without a NaN write +0 (R53). -/
def nanBits : Ty → Nat
  | .f32 => 0x7FC00000 | .f16 => 0x7E00 | .bf16 => 0x7FC0 | .e4m3 => 0x7F | .e5m2 => 0x7E
  | .e8m0 => 0xFF | _ => 0
/-- Flushing applies to `f32`, `f16` and `bf16` only (R45). -/
def flushes : Ty → Bool
  | .f32 | .f16 | .bf16 => true
  | _ => false

/-- decode(bits, T) of a floating-point or scale type (R42, R43, R59), with `gm`.fin. -/
def decodeNum (t : Ty) (fin : Bool) (x : Nat) : Num :=
  if t = .e8m0 then
    if x % 256 = 0xFF then .nan else .fin false 1 ((x % 256 : Nat) - 127)
  else
    let mb := mbits t
    let m := x % 2 ^ mb
    let e := x / 2 ^ mb % 2 ^ ebits t
    let neg := bitOf x (mb + ebits t)
    if hasInf t && e = 2 ^ ebits t - 1 then (if m = 0 then .inf neg else .nan)
    else if t = .e4m3 && e = 15 && m = 7 then .nan
    else if e = 0 then
      if fin && flushes t then .fin neg 0 0 else .fin neg m (emin t - mb)
    else .fin neg (2 ^ mb + m) ((e : Int) - bias t - mb)

/-- The exact value of an integer. -/
def numOfInt (z : Int) : Num := .fin (z < 0) z.natAbs 0

/-- floor(log2 |x|) of `m * 2^e` for m ≠ 0. -/
def expOf (m : Nat) (e : Int) : Int := (Nat.log2 m : Int) + e

/-- |x| / 2^q as floor and fraction: (lo, rem, d) with fraction rem / 2^d. Beyond 18 bits below the last
place of `lo = 0` the fraction only stays nonzero and small, which decides the same way (R51). -/
def splitAt (m : Nat) (e q : Int) : Nat × Nat × Nat :=
  if q ≤ e then (m * 2 ^ (e - q).toNat, 0, 0)
  else
    let d := min (q - e).toNat (Nat.log2 m + 18)
    (m / 2 ^ d, m % 2 ^ d, d)

/-- Whether rounding adds one unit: R51 for the modes 0 to 4, with the 16 top bits of the drawn number. -/
def roundsUp (mode : Nat) (neg : Bool) (lo rem d rand : Nat) : Bool :=
  match mode with
  | 0 => rem * 2 > 2 ^ d || (rem * 2 = 2 ^ d && lo % 2 = 1)
  | 2 => rem > 0 && !neg
  | 3 => rem > 0 && neg
  | 4 => rem * 2 ^ 16 / 2 ^ d + rand ≥ 2 ^ 16
  | _ => false

/-- round(x, T, mode, l) of a finite value at spacing 2^q, and whether it is inexact (R51). -/
def roundAt (mode : Nat) (rand : Nat) (neg : Bool) (m : Nat) (e q : Int) : Num × Bool :=
  if m = 0 then (.fin neg 0 0, false)
  else
    let (lo, rem, d) := splitAt m e q
    (.fin neg (lo + oneIf (rem != 0 && roundsUp mode neg lo rem d rand)) q, rem != 0)

/-- The spacing exponent of a floating-point type at a value (R51). -/
def spacing (t : Ty) (m : Nat) (e : Int) : Int := max (expOf m e) (emin t) - mbits t

/-- round of a value to a floating-point type, and whether it is inexact. -/
def roundF (t : Ty) (mode rand : Nat) : Num → Num × Bool
  | .fin neg m e => roundAt mode rand neg m e (spacing t m e)
  | x => (x, false)

/-- The sign bit in front of a type's magnitude bits. -/
def withSign (t : Ty) (neg : Bool) (x : Nat) : Nat := x + oneIf neg * 2 ^ (mbits t + ebits t)

/-- An infinite or overflowing value under R53; `mode` is the rounding mode of an overflow, 0 for an
infinite input. -/
def overflowBits (t : Ty) (sat : Bool) (mode : Nat) (neg : Bool) : Nat :=
  if sat || mode = 1 || (mode = 2 && neg) || (mode = 3 && !neg) then withSign t neg (maxBits t)
  else
    match t with
    | .e4m3 => 0x7F
    | .e3m2 | .e2m3 | .e2m1 => withSign t neg (maxBits t)
    | _ => withSign t neg (infBits t)

/-- The magnitude bits of a rounded value, which may lie beyond the type's range. -/
def magBits (t : Ty) (m : Nat) (e : Int) : Nat :=
  let mb := mbits t
  let ex := expOf m e
  let q := spacing t m e
  let k := if q ≤ e then m * 2 ^ (e - q).toNat else m / 2 ^ (q - e).toNat
  if ex < emin t then k else ((ex + bias t).toNat) * 2 ^ mb + (k - 2 ^ mb)

/-- encode(sat(v, T, s), T) of a rounded value (R53, R59), with `gm`.fout. -/
def encodeNum (t : Ty) (sat fout : Bool) (mode : Nat) : Num → Nat
  | .nan => nanBits t
  | .inf neg => overflowBits t sat 0 neg
  | .fin neg m e =>
    if m = 0 then withSign t neg 0
    else
      let x := magBits t m e
      if x > maxBits t then overflowBits t sat mode neg
      else if fout && flushes t && x < 2 ^ mbits t then withSign t neg 0
      else withSign t neg x

/-- Conversion to `e8m0` (R54). -/
def encodeScale (mode : Nat) (sat : Bool) : Num → Nat
  | .nan => 0xFF
  | .inf _ => if sat then 0xFE else 0xFF
  | .fin _ m e =>
    if m = 0 then 0
    else
      let k := Nat.log2 m
      let ex := expOf m e
      let exact := m = 2 ^ k
      let up : Bool :=
        match mode with
        | 1 | 3 => false
        | 2 => !exact
        | _ =>
          if 2 * m > 3 * 2 ^ k then true
          else if 2 * m < 3 * 2 ^ k then false
          else (ex + 127) % 2 ≠ 0
      let r := ex + (oneIf up : Int)
      if r < -127 then 0 else if r > 127 then (if sat then 0xFE else 0xFF) else (r + 127).toNat

/-! Arithmetic on values. -/

/-- The sum; an exact zero sum of opposite signs is −0 only in mode 3 (R93). -/
def addNum (mode : Nat) : Num → Num → Num
  | .nan, _ => .nan
  | _, .nan => .nan
  | .inf a, .inf b => if a = b then .inf a else .nan
  | .inf a, _ => .inf a
  | _, .inf b => .inf b
  | .fin a m e, .fin b k f =>
    if m = 0 && k = 0 then .fin (if a = b then a else decide (mode = 3)) 0 0
    else if m = 0 then .fin b k f
    else if k = 0 then .fin a m e
    else
      let q := min e f
      let x : Int := ((m * 2 ^ (e - q).toNat : Nat) : Int) * (if a then -1 else 1)
      let y : Int := ((k * 2 ^ (f - q).toNat : Nat) : Int) * (if b then -1 else 1)
      let z := x + y
      if z = 0 then .fin (decide (mode = 3)) 0 0 else .fin (z < 0) z.natAbs q

/-- The product (R93). -/
def mulNum : Num → Num → Num
  | .nan, _ => .nan
  | _, .nan => .nan
  | .inf a, .inf b => .inf (a != b)
  | .inf a, .fin b k _ => if k = 0 then .nan else .inf (a != b)
  | .fin a m _, .inf b => if m = 0 then .nan else .inf (a != b)
  | .fin a m e, .fin b k f => .fin (a != b) (m * k) (e + f)

/-- The value with its sign inverted. -/
def negNum : Num → Num
  | .nan => .nan
  | .inf a => .inf (!a)
  | .fin a m e => .fin (!a) m e

/-- The value with its sign cleared. -/
def absNum : Num → Num
  | .nan => .nan
  | .inf _ => .inf false
  | .fin _ m e => .fin false m e

/-- `x < y` of two values that are not NaN; −0 and +0 are equal. -/
def ltNum : Num → Num → Bool
  | .inf a, .inf b => a && !b
  | .inf a, .fin _ _ _ => a
  | .fin _ _ _, .inf b => !b
  | .fin a m e, .fin b k f =>
    let q := min e f
    let x : Int := ((m * 2 ^ (e - q).toNat : Nat) : Int) * (if a then -1 else 1)
    let y : Int := ((k * 2 ^ (f - q).toNat : Nat) : Int) * (if b then -1 else 1)
    x < y
  | _, _ => false

/-- A NaN. -/
def isNan : Num → Bool
  | .nan => true
  | _ => false

/-- The sign. -/
def isNeg : Num → Bool
  | .nan => false
  | .inf a => a
  | .fin a _ _ => a

/-- Zero. -/
def isZero : Num → Bool
  | .fin _ 0 _ => true
  | _ => false

/-- FMIN of R94: −0 is less than +0; one NaN operand gives the other. -/
def minNum (x y : Num) : Num :=
  if isNan x then y else if isNan y then x
  else if ltNum x y then x else if ltNum y x then y else if isNeg x then x else y

/-- FMAX of R94. -/
def maxNum (x y : Num) : Num :=
  if isNan x then y else if isNan y then x
  else if ltNum x y then y else if ltNum y x then x else if isNeg x then y else x

/-- A value rounded, fitted and encoded; rnd = 4 is nearest-even here (R37, R92). -/
def finish (t : Ty) (mode : Nat) (sat fout : Bool) (z : Num) : Nat :=
  let md := if mode = 4 then 0 else mode
  encodeNum t sat fout md (roundF t md 0 z).1

/-! Stochastic rounding (R52) and conversion (R59, R97). -/

/-- next_rand(l): the next generator state, which is also the number drawn (R52). -/
def nextRand (g : Word) : Word :=
  let a := g ^^^ (g <<< 13)
  let b := a ^^^ (a >>> 17)
  b ^^^ (b <<< 5)

/-- The generator state of lane `l` for seed `S` (R52). -/
def seedRand (S : Word) (l : Nat) : Word :=
  let x := S ^^^ (BitVec.ofNat 32 (0x9E3779B9 * (l + 1)))
  if x = 0 then 1 else x

/-- A floating-point or scale value to an integer type: rounded at q = 1 and clamped (R55). -/
def numToInt (t : Ty) (mode : Nat) : Num → Nat
  | .nan => 0
  | .inf neg => wrapTo (tyWidth t) (if neg then intMin t else intMax t)
  | .fin neg m e =>
    match (roundAt mode 0 neg m e 0).1 with
    | .fin _ k _ => wrapTo (tyWidth t) (clampInt t (if neg then -(k : Int) else k))
    | _ => 0

/-- cvt(bits, S, T, g, l): the converted bits and the generator state after the draws (R53 to R55, R59,
R97). `stoch` says that the instruction offers stochastic rounding. -/
def cvtBits (src dst : Ty) (gm : Word) (stoch : Bool) (x : Nat) (g : Word) : Nat × Word :=
  let mode := gmRndOf gm
  let md := if mode = 4 then 0 else mode
  let sat := gm.getLsbD 14
  let fin := gm.getLsbD 13
  let fout := gm.getLsbD 12
  let srcNum := if tyF src || src = .e8m0 then decodeNum src fin x else numOfInt (intOf src x)
  if dst = .e8m0 then (encodeScale md sat srcNum, g)
  else if tyF dst then
    if mode = 4 && stoch && tyF src then
      let r := roundF dst 4 ((nextRand g).toNat / 2 ^ 16) srcNum
      (encodeNum dst sat fout 4 r.1, if r.2 then nextRand g else g)
    else (encodeNum dst sat fout md (roundF dst md 0 srcNum).1, g)
  else if tyF src || src = .e8m0 then (numToInt dst md srcNum, g)
  else (fitInt dst sat (intOf src x), g)
where
  /-- The rnd field (R35). -/
  gmRndOf (m : Word) : Nat := field m.toNat 17 15

end Sys2Proof.Machine
end

