-- ==== Sys2Proof/Syntax.lean ====
section
/-! DEFINITION. The instructions and events of the opcode table, one constructor a row, in the table's
order but for `illegalInstructionWord`. An instruction word's register operands are the register fields' bits (R33): 8 bits a vector
register, 7 bits a scalar-side register (0 to 63 `s`, 64 to 127 `k`), 6 bits a scalar or uniform
destination, 4 a predicate or tile, 3 a translation register, 5 an accumulator. The constructors from
`illegalInstructionWord` on are the machine's events, which have no encoding: each carries what the spec leaves to
the moment (which operation, which agent, what the outside world answers). -/

namespace Sys2Proof

/-- One instruction, or one event of the machine. -/
inductive Instr
  /-- `IADD` (R82). -/
  | iadd (d a b : BitVec 8)
  /-- `ISUB` (R82). -/
  | isub (d a b : BitVec 8)
  /-- `IMUL` (R82). -/
  | imul (d a b : BitVec 8)
  /-- `IMULH` (R82). -/
  | imulh (d a b : BitVec 8)
  /-- `IADD_IMM` (R82). -/
  | iaddImm (d a : BitVec 8) (i : BitVec 8)
  /-- `ISUB_IMM` (R82). -/
  | isubImm (d a : BitVec 8) (i : BitVec 8)
  /-- `IMUL_IMM` (R82). -/
  | imulImm (d a : BitVec 8) (i : BitVec 8)
  /-- `IMULH_IMM` (R82). -/
  | imulhImm (d a : BitVec 8) (i : BitVec 8)
  /-- `IMAD` (R82). -/
  | imad (d a b : BitVec 8)
  /-- `IMIN` (R82). -/
  | imin (d a b : BitVec 8)
  /-- `IMAX` (R82). -/
  | imax (d a b : BitVec 8)
  /-- `IABS` (R82). -/
  | iabs (d a : BitVec 8)
  /-- `AND` (R83). -/
  | and (d a b : BitVec 8)
  /-- `OR` (R83). -/
  | or (d a b : BitVec 8)
  /-- `XOR` (R83). -/
  | xor (d a b : BitVec 8)
  /-- `NOT` (R83). -/
  | not (d a : BitVec 8)
  /-- `AND_IMM` (R83). -/
  | andImm (d a : BitVec 8) (i : BitVec 8)
  /-- `OR_IMM` (R83). -/
  | orImm (d a : BitVec 8) (i : BitVec 8)
  /-- `XOR_IMM` (R83). -/
  | xorImm (d a : BitVec 8) (i : BitVec 8)
  /-- `SHL` (R84). -/
  | shl (d a b : BitVec 8)
  /-- `SHR` (R84). -/
  | shr (d a b : BitVec 8)
  /-- `SAR` (R84). -/
  | sar (d a b : BitVec 8)
  /-- `SHL_IMM` (R84). -/
  | shlImm (d a : BitVec 8) (i : BitVec 8)
  /-- `SHR_IMM` (R84). -/
  | shrImm (d a : BitVec 8) (i : BitVec 8)
  /-- `SAR_IMM` (R84). -/
  | sarImm (d a : BitVec 8) (i : BitVec 8)
  /-- `CLZ` (R85). -/
  | clz (d a : BitVec 8)
  /-- `POPC` (R85). -/
  | popc (d a : BitVec 8)
  /-- `BREV` (R85). -/
  | brev (d a : BitVec 8)
  /-- `MOV` (R85). -/
  | mov (d a : BitVec 8)
  /-- `BFE` (R86). -/
  | bfe (d a b : BitVec 8)
  /-- `BFI` (R86). -/
  | bfi (d a b : BitVec 8)
  /-- `SEL` (R87). -/
  | sel (d a : BitVec 8) (p : BitVec 4)
  /-- `LEA` (R88). -/
  | lea (sh : BitVec 2) (d a b : BitVec 8)
  /-- `MOVI` (R89). -/
  | movi (d : BitVec 8) (i : BitVec 16)
  /-- `MOVHI` (R89). -/
  | movhi (d : BitVec 8) (i : BitVec 16)
  /-- `ICMP` (R90). -/
  | icmp (c : ICond) (p : BitVec 4) (a b : BitVec 8)
  /-- `ICMP_IMM` (R90). -/
  | icmpImm (c : ICond) (p : BitVec 4) (a : BitVec 8) (i : BitVec 8)
  /-- `FCMP` (R91). -/
  | fcmp (c : FCond) (p : BitVec 4) (a b : BitVec 8)
  /-- `SADD` (R100). -/
  | sadd (d : BitVec 6) (a b : BitVec 7)
  /-- `SSUB` (R100). -/
  | ssub (d : BitVec 6) (a b : BitVec 7)
  /-- `SMUL` (R100). -/
  | smul (d : BitVec 6) (a b : BitVec 7)
  /-- `SCMP` (R100). -/
  | scmp (a b : BitVec 7)
  /-- `SAND` (R100). -/
  | sand (d : BitVec 6) (a b : BitVec 7)
  /-- `SOR` (R100). -/
  | sor (d : BitVec 6) (a b : BitVec 7)
  /-- `SXOR` (R100). -/
  | sxor (d : BitVec 6) (a b : BitVec 7)
  /-- `SMOV` (R100). -/
  | smov (d : BitVec 6) (a : BitVec 7)
  /-- `SSHL` (R100). -/
  | sshl (d : BitVec 6) (a b : BitVec 7)
  /-- `SSHR` (R100). -/
  | sshr (d : BitVec 6) (a b : BitVec 7)
  /-- `SSAR` (R100). -/
  | ssar (d : BitVec 6) (a b : BitVec 7)
  /-- `SMOV_IMM` (R100). -/
  | smovImm (d : BitVec 6) (i : BitVec 16)
  /-- `SADD_IMM` (R100). -/
  | saddImm (d : BitVec 6) (i : BitVec 16)
  /-- `SCMP_IMM` (R100). -/
  | scmpImm (a : BitVec 7) (i : BitVec 16)
  /-- `FADD` (R93). -/
  | fadd (d a b : BitVec 8)
  /-- `FSUB` (R93). -/
  | fsub (d a b : BitVec 8)
  /-- `FMUL` (R93). -/
  | fmul (d a b : BitVec 8)
  /-- `FMA` (R93). -/
  | fma (d a b : BitVec 8)
  /-- `FMIN` (R94). -/
  | fmin (d a b : BitVec 8)
  /-- `FMAX` (R94). -/
  | fmax (d a b : BitVec 8)
  /-- `FABS` (R94). -/
  | fabs (d a : BitVec 8)
  /-- `FNEG` (R94). -/
  | fneg (d a : BitVec 8)
  /-- `FRCP` (R96). -/
  | frcp (d a : BitVec 8)
  /-- `FRSQ` (R96). -/
  | frsq (d a : BitVec 8)
  /-- `FSQRT` (R96). -/
  | fsqrt (d a : BitVec 8)
  /-- `FSCALE` (R95). -/
  | fscale (d a b : BitVec 8)
  /-- `FEXP2` (R96). -/
  | fexp2 (d a : BitVec 8)
  /-- `FLOG2` (R96). -/
  | flog2 (d a : BitVec 8)
  /-- `FSIN` (R96). -/
  | fsin (d a : BitVec 8)
  /-- `FCOS` (R96). -/
  | fcos (d a : BitVec 8)
  /-- `FTANH` (R96). -/
  | ftanh (d a : BitVec 8)
  /-- `CVT` (R97). -/
  | cvt (d a : BitVec 8)
  /-- `PACK` (R98). -/
  | pack (d a : BitVec 8) (i : BitVec 8)
  /-- `UNPACK` (R98). -/
  | unpack (d a : BitVec 8) (i : BitVec 8)
  /-- `SHFL` (R108). -/
  | shfl (m : ShflMode) (d a b : BitVec 8)
  /-- `SHFL_IMM` (R108). -/
  | shflImm (m : ShflMode) (d a : BitVec 8) (i : BitVec 8)
  /-- `BCAST` (R109). -/
  | bcast (d a : BitVec 8) (i : BitVec 8)
  /-- `MBCNT` (R109). -/
  | mbcnt (d : BitVec 8) (p : BitVec 4)
  /-- `VOTE` (R109). -/
  | vote (d : BitVec 6) (p : BitVec 4) (i : BitVec 8)
  /-- `REDX` (R110). -/
  | redx (o : RedOp) (d a : BitVec 8)
  /-- `SCAN` (R111). -/
  | scan (o : ScanOp) (d a : BitVec 8)
  /-- `PAND` (R105). -/
  | pand (d a b : BitVec 4)
  /-- `POR` (R105). -/
  | por (d a b : BitVec 4)
  /-- `PXOR` (R105). -/
  | pxor (d a b : BitVec 4)
  /-- `PNOT` (R105). -/
  | pnot (d a : BitVec 4)
  /-- `PMOV` (R105). -/
  | pmov (d a : BitVec 4)
  /-- `PCNT` (R106). -/
  | pcnt (d : BitVec 6) (a : BitVec 4)
  /-- `PFIRST` (R105). -/
  | pfirst (d a : BitVec 4)
  /-- `KMOV` (R102). -/
  | kmov (d : BitVec 6) (a : BitVec 7)
  /-- `KLD` (R103). -/
  | kld (d : BitVec 6) (a : BitVec 7) (i : BitVec 8)
  /-- `SREAD` (R137). -/
  | sread (d : BitVec 6) (n : BitVec 16)
  /-- `SWRITE` (R137). -/
  | swrite (a : BitVec 7) (n : BitVec 16)
  /-- `BR` (R114). -/
  | br (o : BitVec 20)
  /-- `BRC` (R114). -/
  | brc (c : CC) (o : BitVec 20)
  /-- `BRZ` (R114). -/
  | brz (p : BitVec 4) (o : BitVec 20)
  /-- `BRNZ` (R114). -/
  | brnz (p : BitVec 4) (o : BitVec 20)
  /-- `CALL` (R115). -/
  | call (o : BitVec 20)
  /-- `FORK` (R118). -/
  | fork (p : BitVec 4) (o : BitVec 20)
  /-- `YIELDC` (R125). -/
  | yieldc (b : BitVec 4) (o : BitVec 20)
  /-- `NOP` (R132). -/
  | nop
  /-- `EXIT` (R123). -/
  | exit
  /-- `YIELD` (R124). -/
  | yield
  /-- `JOIN` (R119). -/
  | join
  /-- `RET` (R115). -/
  | ret (a : BitVec 7)
  /-- `SETMODE` (R126). -/
  | setmode (a : BitVec 7)
  /-- `TRAP` (R130). -/
  | trap (n : BitVec 16)
  /-- `BRK` (R131). -/
  | brk (n : BitVec 16)
  /-- `MODEF` (R126). -/
  | modef (f : GmField) (i : BitVec 16)
  /-- `BAR` (R127). -/
  | bar (b : BitVec 8)
  /-- `CBAR` (R127). -/
  | cbar (b : BitVec 8)
  /-- `REGGROW` (R133). -/
  | reggrow (n : BitVec 8)
  /-- `REGSHRINK` (R134). -/
  | regshrink (n : BitVec 8)
  /-- `LD` (R148). -/
  | ld (sc : Scope) (z : Size) (d : BitVec 8) (x : BitVec 3) (o : MOff)
  /-- `ST` (R148). -/
  | st (sc : Scope) (z : Size) (d : BitVec 8) (x : BitVec 3) (o : MOff)
  /-- `LDN` (R152). -/
  | ldn (sc : Scope) (n : BitVec 3) (d : BitVec 8) (x : BitVec 3) (o : MOff)
  /-- `STN` (R152). -/
  | stn (sc : Scope) (n : BitVec 3) (d : BitVec 8) (x : BitVec 3) (o : MOff)
  /-- `LDP` (R154). -/
  | ldp (p : LdpPred) (z : Size) (d : BitVec 8) (x : BitVec 3) (o : MOff)
  /-- `ATOM` (R158). -/
  | atom (sc : Scope) (op : AtomOp) (x : BitVec 3) (d o : BitVec 8)
  /-- `ATOMR` (R158). -/
  | atomr (sc : Scope) (op : AtomOp) (x : BitVec 3) (d o : BitVec 8)
  /-- `PREQ` (R155). -/
  | preq (x : BitVec 3) (o : MOff)
  /-- `PREF` (R156). -/
  | pref (x : BitVec 3) (o : MOff)
  /-- `RCMARK` (R165). -/
  | rcmark (x : BitVec 3) (o : MOff)
  /-- `FENCE_ACQ` (R162). -/
  | fenceAcq (sc : Scope)
  /-- `FENCE_REL` (R162). -/
  | fenceRel (sc : Scope)
  /-- `FENCE_AR` (R162). -/
  | fenceAr (sc : Scope)
  /-- `XLAT` (R142). -/
  | xlat (d : BitVec 3) (a b : BitVec 7)
  /-- `PUBLISH` (R163). -/
  | publish (a : BitVec 7)
  /-- `XREL` (R143). -/
  | xrel (d : BitVec 3)
  /-- `MMA` (R171). -/
  | mma (sh : BitVec 2) (d : BitVec 5) (a b : BitVec 4)
  /-- `MMAQ` (R172). -/
  | mmaq (d : BitVec 5) (a : BitVec 7)
  /-- `MMAQS` (R174). -/
  | mmaqs (d : BitVec 5) (a : BitVec 7) (m : BitVec 8)
  /-- `ACOMMIT` (R174). -/
  | acommit (m : BitVec 8)
  /-- `ADISCARD` (R174). -/
  | adiscard (m : BitVec 8)
  /-- `AZERO` (R175). -/
  | azero (d : BitVec 5)
  /-- `AMOV` (R175). -/
  | amov (d : BitVec 8) (a : BitVec 5) (i : BitVec 8)
  /-- `ACVT` (R175). -/
  | acvt (d : BitVec 8) (a : BitVec 5) (i : BitVec 8)
  /-- `CPY` (R182). -/
  | cpy (z : CopySize) (dx sx : BitVec 3) (dv sv : BitVec 8)
  /-- `CPG` (R183). -/
  | cpg (dx sx : BitVec 3) (dv sv : BitVec 8)
  /-- `CPT` (R184). -/
  | cpt (d : BitVec 4) (x : BitVec 3) (b : BitVec 7)
  /-- `CPQ` (R185). -/
  | cpq (d a : BitVec 4) (b : BitVec 7)
  /-- `CPWAIT_SRC` (R180). -/
  | cpwaitSrc (n : BitVec 8)
  /-- `CPWAIT_VIS` (R180). -/
  | cpwaitVis (n : BitVec 8)
  /-- `CPTEST` (R181). -/
  | cptest (d : BitVec 6) (n : BitVec 8)
  /-- `SEAL` (R179). -/
  | seal (d : BitVec 6) (sc : BitVec 8)
  /-- `LZOPEN` (R186). -/
  | lzopen (d : BitVec 6) (a : BitVec 7)
  /-- `LZCLOSE` (R187). -/
  | lzclose (a : BitVec 7)
  /-- `LZRES` (R189). -/
  | lzres (d : BitVec 6) (a b : BitVec 7)
  /-- `LZSTAT` (R192). -/
  | lzstat (d : BitVec 6) (a b : BitVec 7)
  /-- `LZWAIT` (R192). -/
  | lzwait (a b : BitVec 7)
  /-- `LZFREE` (R192). -/
  | lzfree (a b : BitVec 7)
  /-- `CPL` (R190). -/
  | cpl (z : CopySize) (h : BitVec 7) (x : BitVec 3) (m : BitVec 4) (a : BitVec 8)
  /-- `SHIP_W` (R193). -/
  | shipW (a : BitVec 8) (e : BitVec 7) (x : BitVec 3)
  /-- `SHIP_T` (R193). -/
  | shipT (a : BitVec 8) (e : BitVec 7) (x t : BitVec 3)
  /-- `WAITK` (R195). -/
  | waitk (k : BitVec 8)
  /-- `TESTK` (R195). -/
  | testk (d : BitVec 4) (k : BitVec 8)
  /-- `SRET` (R196). -/
  | sret
  /-- `ILLEGAL_INSTRUCTION_WORD` (R66). -/
  | illegalInstructionWord (w : BitVec 32)
  /-- `CLAUSE_START` (R22). -/
  | clauseStart (p : Nat) (sl : SlotId)
  /-- `BREAKPOINT_MATCH` (R440). -/
  | breakpointMatch (p : Nat) (sl : SlotId)
  /-- `LOAD_RETURN` (R148). -/
  | loadReturn (p id : Nat)
  /-- `EMPTY_OPERATION_COMPLETE` (R23). -/
  | emptyOperationComplete (p id : Nat)
  /-- `ATOMR_RETURN` (R158). -/
  | atomrReturn (p id : Nat)
  /-- `XLAT_COMPLETE` (R142). -/
  | xlatComplete (p id : Nat)
  /-- `SREAD_COMPLETE` (R137). -/
  | sreadComplete (p id : Nat)
  /-- `FUNCTION_RESULT` (R96). -/
  | functionResult (p id : Nat)
  /-- `LZOPEN_COMPLETE` (R186). -/
  | lzopenComplete (p id : Nat) (tag : BitVec 24)
  /-- `LZSTAT_COMPLETE` (R192). -/
  | lzstatComplete (p id : Nat)
  /-- `LZRES_REQUEST_ARRIVAL` (R189). -/
  | lzresRequestArrival (a : LzArrival)
  /-- `LZRES_ANSWER` (R189). -/
  | lzresAnswer (p id : Nat) (a : Option (Envelope × Dword))
  /-- `MMA_PERFORMED` (R171). -/
  | mmaPerformed (team : Nat)
  /-- `MMAQ_PERFORMED` (R172). -/
  | mmaqPerformed (team : Nat)
  /-- `MMAQS_PERFORMED` (R174). -/
  | mmaqsPerformed (team : Nat)
  /-- `AZERO_PERFORMED` (R175). -/
  | azeroPerformed (team : Nat)
  /-- `ACOMMIT_PERFORMED` (R174). -/
  | acommitPerformed (team : Nat)
  /-- `ADISCARD_PERFORMED` (R174). -/
  | adiscardPerformed (team : Nat)
  /-- `JOIN_REDECIDE` (R120). -/
  | joinRedecide (p : Nat) (sl : SlotId)
  /-- `EXIT_REDECIDE` (R120). -/
  | exitRedecide (p : Nat) (sl : SlotId)
  /-- `TEAM_BARRIER_COMPLETE` (R127). -/
  | teamBarrierComplete (team : Nat) (b : BitVec 2)
  /-- `CLUSTER_BARRIER_COMPLETE` (R127). -/
  | clusterBarrierComplete (ctx cluster : Nat) (b : BitVec 2)
  /-- `GROUP_SLOT_RELEASE` (R215). -/
  | groupSlotRelease (p : Nat)
  /-- `SCRATCHPAD_RELEASE` (R275). -/
  | scratchpadRelease (team : Nat)
  /-- `TEAM_PLACEMENT` (R202). -/
  | teamPlacement (ctx die core : Nat)
  /-- `TIME_SLICE_EXPIRY` (R347). -/
  | timeSliceExpiry (ctx : Nat)
  /-- `CHECKPOINT_IMAGE_WRITE` (R344). -/
  | checkpointImageWrite (ctx : Nat)
  /-- `SAVED_RESPONSE_RECORD` (R345). -/
  | savedResponseRecord (a : SavedAns)
  /-- `FILE_MOVE_START` (R210). -/
  | fileMoveStart (p : Nat)
  /-- `GROUP_MOVE_OUT_COMPLETE` (R211). -/
  | groupMoveOutComplete (p : Nat)
  /-- `GROUP_MOVE_IN_COMPLETE` (R211). -/
  | groupMoveInComplete (p : Nat)
  /-- `REGGROW_GRANT` (R212). -/
  | reggrowGrant (core : Nat)
  /-- `REGPOOL_REFUSAL` (R135). -/
  | regpoolRefusal (core : Nat)
  /-- `REMOTE_REQUEST_ARRIVAL` (R392). -/
  | remoteRequestArrival (r : PeerMsg)
  /-- `REMOTE_ANSWER` (R147). -/
  | remoteAnswer (t : AnsTo) (a : Envelope × RemAns)
  /-- `FENCE_MARKER_ARRIVAL` (R401). -/
  | fenceMarkerArrival (node : BitVec 19) (gkey : BitVec 24) (e : Envelope)
  /-- `MESSAGE_EXPIRY` (R394). -/
  | messageExpiry (m : MsgOf)
  /-- `ACK_TIMEOUT` (R394). -/
  | ackTimeout (a : AckOf)
  /-- `HSEQ_GAP_TIMEOUT` (R402). -/
  | hseqGapTimeout (port : Nat) (node : BitVec 19)
  /-- `HOST_ATOMICOP_COMPLETION` (R160). -/
  | hostAtomicopCompletion (p : Nat) (st : PcieStatus)
  /-- `RELEASE_READ_COMPLETION` (R404). -/
  | releaseReadCompletion (p port : Nat)
  /-- `L1_EVICTION` (R231). -/
  | l1Eviction (core : Nat) (words : Nat × Word)
  /-- `L2_WRITE_BACK` (R231). -/
  | l2WriteBack (line : Nat)
  /-- `TRANSFER_OP_DRAINED` (R263). -/
  | transferOpDrained (id : Nat) (ext : List (Envelope × List (Byte × Bool)))
  /-- `TRANSFER_OP_LANDED` (R263). -/
  | transferOpLanded (id : Nat × List Envelope)
  /-- `TRANSFER_OP_FAILED` (R178). -/
  | transferOpFailed (id : Nat) (cls : BitVec 8 × Option (Nat × Envelope))
  /-- `EMPTY_BATCH_COMPLETE` (R179). -/
  | emptyBatchComplete (p b : Nat)
  /-- `CPQ_COMPLETE` (R266). -/
  | cpqComplete (id : Nat)
  /-- `TWIN_WRITE_PERFORMED` (R164). -/
  | twinWritePerformed (id : Nat)
  /-- `PUBLISH_PERFORMED` (R254). -/
  | publishPerformed (id : Nat)
  /-- `LANDING_PACKET_ARRIVAL` (R270). -/
  | landingPacketArrival (a : LandArrival)
  /-- `LANDING_TAG_CHECK` (R271). -/
  | landingTagCheck (msg : Nat) (tag : Dword)
  /-- `ZONE_NUMBER_COOLDOWN_END` (R267). -/
  | zoneNumberCooldownEnd (core zone : Nat)
  /-- `HOIST_ARRIVAL` (R287). -/
  | hoistArrival (h : HoistIn)
  /-- `SECTION_START` (R290). -/
  | sectionStart (mast ctx : Nat)
  /-- `WATCHDOG_EXPIRY` (R292). -/
  | watchdogExpiry (p : Nat)
  /-- `HOIST_RESPONSE_ARRIVAL` (R194). -/
  | hoistResponseArrival (id : Nat) (a : HoistAns)
  /-- `LINK_DOWN` (R400). -/
  | linkDown (port : Nat)
  /-- `UCIE_LINK_FAILURE` (R395). -/
  | ucieLinkFailure (dieA dieB : Nat)
  /-- `PCIE_PORT_DOWN` (R404). -/
  | pciePortDown (port : Nat)
  /-- `PAGE_FAULT_SERVICE` (R354). -/
  | pageFaultService (p : Nat)
  /-- `MIGRATION_DECISION` (R388). -/
  | migrationDecision (va : Addr) (m : MigPlan)
  /-- `PAGE_FAULT_RESOLVED` (R354). -/
  | pageFaultResolved (va : Addr) (ext : List (Byte × Bool))
  /-- `UNCORRECTABLE_ERROR` (R424). -/
  | uncorrectableError (e : ErrPlace) (latent : Bool)
  /-- `SCRUB` (R424). -/
  | scrub (e : ErrPlace)
  /-- `SENSOR_SAMPLE` (R450). -/
  | sensorSample (r : SensorReading)
  /-- `WEAR_UPDATE` (R451). -/
  | wearUpdate (w : WearReading)
  /-- `PC_SAMPLE` (R433). -/
  | pcSample (core sampler : Nat) (m : SampleMoment)
  /-- `TRACE_SYNC` (R438). -/
  | traceSync (die : Nat)
  /-- `TRACE_LOSS_RECOVERY` (R439). -/
  | traceLossRecovery (die : Nat)
  /-- `LAUNCH` (R339). -/
  | launch (q : Nat)
  /-- `LAUNCH_WAIT_RESUME` (R335). -/
  | launchWaitResume (q : Nat)
  /-- `SIGNAL_WRITE` (R334). -/
  | signalWrite (q : Nat)
  /-- `SIGNAL_ADD` (R334). -/
  | signalAdd (q : Nat)
  /-- `WAIT_GE` (R334). -/
  | waitGe (q : Nat)
  /-- `WAIT_EQ` (R334). -/
  | waitEq (q : Nat)
  /-- `WAIT_SATISFIED` (R334). -/
  | waitSatisfied (q : Nat)
  /-- `QUEUE_CALL` (R334). -/
  | queueCall (q : Nat)
  /-- `QUEUE_RETURN` (R334). -/
  | queueReturn (q : Nat)
  /-- `QUEUE_JOIN` (R337). -/
  | queueJoin (q : Nat)
  /-- `QUEUE_FENCE` (R334). -/
  | queueFence (q : Nat)
  /-- `QUEUE_FENCE_DONE` (R334). -/
  | queueFenceDone (q : Nat)
  /-- `PRIO` (R347). -/
  | prio (q : Nat)
  /-- `REGION` (R391). -/
  | region (q : Nat) (tag : BitVec 24) (gen : BitVec 8)
  /-- `REVOKE` (R393). -/
  | revoke (q : Nat)
  /-- `DESTROY` (R348). -/
  | destroy (q : Nat)
  /-- `DESTROY_SAVE` (R348). -/
  | destroySave (q : Nat)
  /-- `LOOKAHEAD_READ` (R336). -/
  | lookaheadRead (q : Nat)
  /-- `SERVICE_ANSWER` (R408). -/
  | serviceAnswer
  /-- `DISPOSITION_RESUME` (R422). -/
  | dispositionResume
  /-- `DISPOSITION_END` (R422). -/
  | dispositionEnd
  /-- `CORE_DUMP_REQUEST` (R429). -/
  | coreDumpRequest
  /-- `HALT_GROUP` (R443). -/
  | haltGroup
  /-- `HALT_KERNEL` (R443). -/
  | haltKernel
  /-- `RESUME` (R443). -/
  | resume
  /-- `STEP` (R443). -/
  | step
  /-- `STATE_WRITE` (R443). -/
  | stateWrite
  /-- `STATE_READ_BACK` (R443). -/
  | stateReadBack
  /-- `MAST_CLAIM` (R443). -/
  | mastClaim
  /-- `MAST_RELEASE` (R443). -/
  | mastRelease
  /-- `ATTESTATION_REQUEST` (R452). -/
  | attestationRequest
  /-- `GENERIC_REGISTER_WRITE` (R8). -/
  | genericRegisterWrite (off : Nat) (v : Dword)
  /-- `BAR0_BAD_ACCESS` (R378). -/
  | bar0BadAccess (off width : Nat) (write : Bool)
  /-- `QCTL_WRITE` (R331). -/
  | qctlWrite (q : BitVec 6) (v : Dword)
  /-- `QTAIL_WRITE` (R331). -/
  | qtailWrite (q : BitVec 6) (v : Dword)
  /-- `QSTAT_WRITE` (R333). -/
  | qstatWrite (q : BitVec 6) (v : Dword)
  /-- `QSPBUF_WRITE` (R364). -/
  | qspbufWrite (q : BitVec 6) (hi : Bool) (v : Dword)
  /-- `MBIN3_WRITE` (R353). -/
  | mbin3Write (f : BitVec 3) (v : Dword)
  /-- `FWIN_ENABLE` (R234). -/
  | fwinEnable (w : BitVec 4) (v : Dword)
  /-- `FWIN_DISABLE` (R234). -/
  | fwinDisable (w : BitVec 4) (v : Dword)
  /-- `FWIN_DISABLE_COMPLETE` (R234). -/
  | fwinDisableComplete (w : BitVec 4)
  /-- `MASTRING_WRITE` (R299). -/
  | mastringWrite (die : BitVec 3) (m : BitVec 5) (v : Dword)
  /-- `MASTCLR_CLEAR_LOCK` (R293). -/
  | mastclrClearLock (die : BitVec 3) (m : BitVec 5) (v : Dword)
  /-- `MASTCLR_CLEAR_ALL` (R293). -/
  | mastclrClearAll (die : BitVec 3) (m : BitVec 5) (v : Dword)
  /-- `RLOGCTL_WRITE` (R312). -/
  | rlogctlWrite (v : Dword)
  /-- `PTROOT_WRITE` (R383). -/
  | ptrootWrite (v : Dword)
  /-- `SKCTL_CLR` (R435). -/
  | skctlClr (u : BitVec 2) (v : Dword)
  /-- `TRCTL_WRITE` (R438). -/
  | trctlWrite (die : BitVec 3) (v : Dword)
  /-- `PWRCTL_WRITE` (R449). -/
  | pwrctlWrite (die : BitVec 3) (v : Dword)
  /-- `BOOTGO_WRITE` (R358). -/
  | bootgoWrite (v : Dword)
  /-- `FIRMWARE_READY` (R453). -/
  | firmwareReady (b : BringUp)
  /-- `HOST_BAR2_READ` (R403). -/
  | hostBar2Read (addr len : Nat)
  /-- `HOST_BAR2_WRITE` (R403). -/
  | hostBar2Write (addr : Nat) (data : List Byte)
  /-- `PACKAGE_RESET` (R8). -/
  | packageReset
  /-- `HBM_TRAINING_COMPLETE` (R453). -/
  | hbmTrainingComplete
  /-- `CORRECTED_ERROR` (R424). -/
  | correctedError (die : BitVec 3) (e : ErrPlace)
  /-- `REGGROW_SPILL_LOAD_COMPLETE` (R133). -/
  | reggrowSpillLoadComplete (p : Nat)
  /-- `RESIDENCY_REQUEST_SERVICE` (R155). -/
  | residencyRequestService
  /-- `FENCE_MARKER_ACK_ARRIVAL` (R401). -/
  | fenceMarkerAckArrival (n : Envelope × BitVec 19) (p : Nat)
  /-- `HOIST_ACKNOWLEDGMENT_ARRIVAL` (R399). -/
  | hoistAcknowledgmentArrival (a : Envelope × Nat)
  /-- `LINK_UP` (R396). -/
  | linkUp (port : Nat)
  /-- `PCIE_PORT_UP` (R404). -/
  | pciePortUp (port : Nat)
  /-- `L2_EVICTION` (R147). -/
  | l2Eviction (line : Nat)
  deriving DecidableEq, Repr

end Sys2Proof
end

