-- ==== Sys2Proof/Decode.lean ====
section
/-! DEFINITION. Decoding and encoding of instruction words: the formats of R29 to R31 and R63, the
enumerations of R64, the major map of R65 and the refusals of R66 whose class is `FLT.ILLOP`. A word
that R66 refuses with `FLT.OPND` from its bits decodes, and `WellFormed` refuses it. -/

namespace Sys2Proof

/-- Bits `[lo + n - 1 : lo]` of a word. -/
def bitsAt (w : BitVec 32) (lo n : Nat) : BitVec n := w.extractLsb' lo n

/-- Bits [31:26], the major opcode. -/
def opOf (w : BitVec 32) : BitVec 6 := bitsAt w 26 6
/-- Bits [25:24], the minor code of VVV, VVI, CMP, CPX and SHP (R29, R63). -/
def subOf (w : BitVec 32) : BitVec 2 := bitsAt w 24 2
/-- Bits [23:16] (R29). -/
def dOf (w : BitVec 32) : BitVec 8 := bitsAt w 16 8
/-- Bits [15:8] (R29). -/
def aOf (w : BitVec 32) : BitVec 8 := bitsAt w 8 8
/-- Bits [7:0] (R29). -/
def bOf (w : BitVec 32) : BitVec 8 := bitsAt w 0 8
/-- The immediate of VI16: bits [25:24] followed by [15:2] (R29). -/
def imm16Of (w : BitVec 32) : BitVec 16 := bitsAt w 24 2 ++ bitsAt w 2 14
/-- The minor code of VI16: bits [1:0] (R29). -/
def minorOf (w : BitVec 32) : BitVec 2 := bitsAt w 0 2
/-- Bits [25:20] of the branch format (R31). -/
def condOf (w : BitVec 32) : BitVec 6 := bitsAt w 20 6
/-- Bits [19:0] of the branch format (R31). -/
def offOf (w : BitVec 32) : BitVec 20 := bitsAt w 0 20
/-- Scope bits [25:23] of the memory and ATM formats (R30, R63). -/
def scopeOf (w : BitVec 32) : BitVec 3 := bitsAt w 23 3
/-- Size bits [22:20] of the memory format (R30). -/
def sizeOf' (w : BitVec 32) : BitVec 3 := bitsAt w 20 3
/-- Data register bits [19:12] of the memory format (R30). -/
def mdOf (w : BitVec 32) : BitVec 8 := bitsAt w 12 8
/-- Base bits [11:9] of the memory format (R30). -/
def mbaseOf (w : BitVec 32) : BitVec 3 := bitsAt w 9 3
/-- Offset kind, bit [8] of the memory format (R30). -/
def mkOf (w : BitVec 32) : BitVec 1 := bitsAt w 8 1

/-- The scalar-side class: 0x80 and above name nothing (R33). -/
def sideOf (f : BitVec 8) : Option (BitVec 7) := if f.toNat < 128 then some (f.setWidth 7) else none
/-- A scalar destination: `s0` to `s63` only (R33). -/
def sdstOf (f : BitVec 8) : Option (BitVec 6) := if f.toNat < 64 then some (f.setWidth 6) else none
/-- A uniform destination: 0x40 to 0x7F (R33, R102). -/
def kdstOf (f : BitVec 8) : Option (BitVec 6) :=
  if f.toNat / 64 = 1 then some (f.setWidth 6) else none
/-- A predicate or tile in an 8-bit field: the upper bits are zero (R33). -/
def nibOf (f : BitVec 8) : Option (BitVec 4) := if f.toNat < 16 then some (f.setWidth 4) else none
/-- A translation register in an 8-bit field (R62). -/
def xregOf (f : BitVec 8) : Option (BitVec 3) := if f.toNat < 8 then some (f.setWidth 3) else none
/-- An accumulator in an 8-bit field (R33). -/
def accOf (f : BitVec 8) : Option (BitVec 5) := if f.toNat < 32 then some (f.setWidth 5) else none
/-- A field of role 0 must be zero (R66): the instruction, if it is. -/
def zeroThen {n : Nat} (f : BitVec n) (i : Option Instr) : Option Instr := if f = 0 then i else none

/-- Scope codes 0 to 4 (R30). -/
def Scope.ofCode : BitVec 3 → Option Scope
  | 0 => some .g | 1 => some .t | 2 => some .c | 3 => some .d | 4 => some .s | _ => none
/-- The code of a scope (R30). -/
def Scope.code : Scope → BitVec 3
  | .g => 0 | .t => 1 | .c => 2 | .d => 3 | .s => 4
/-- Size codes 0 to 4 (R30). -/
def Size.ofCode : BitVec 3 → Option Size
  | 0 => some .byte | 1 => some .half | 2 => some .word | 3 => some .dword | 4 => some .quad | _ => none
/-- The code of a size (R30). -/
def Size.code : Size → BitVec 3
  | .byte => 0 | .half => 1 | .word => 2 | .dword => 3 | .quad => 4
/-- Conditions of `ICMP` (R64). -/
def ICond.ofCode : BitVec 4 → Option ICond
  | 0 => some .eq | 1 => some .ne | 2 => some .lt | 3 => some .le | 4 => some .gt | 5 => some .ge | _ => none
/-- The code of a condition of `ICMP` (R64). -/
def ICond.code : ICond → BitVec 4
  | .eq => 0 | .ne => 1 | .lt => 2 | .le => 3 | .gt => 4 | .ge => 5
/-- Conditions of `FCMP` (R64). -/
def FCond.ofCode : BitVec 4 → Option FCond
  | 0 => some .eq | 1 => some .ne | 2 => some .lt | 3 => some .le | 4 => some .gt | 5 => some .ge
  | 6 => some .un | 7 => some .ord | _ => none
/-- The code of a condition of `FCMP` (R64). -/
def FCond.code : FCond → BitVec 4
  | .eq => 0 | .ne => 1 | .lt => 2 | .le => 3 | .gt => 4 | .ge => 5 | .un => 6 | .ord => 7
/-- Scalar condition codes; 0xF is not assigned (R31). -/
def CC.ofCode : BitVec 4 → Option CC
  | 0 => some .eq | 1 => some .ne | 2 => some .lt | 3 => some .ge | 4 => some .ltu | 5 => some .geu
  | 6 => some .gt | 7 => some .le | 8 => some .gtu | 9 => some .leu | 10 => some .mi | 11 => some .pl
  | 12 => some .vs | 13 => some .vc | 14 => some .al | _ => none
/-- The code of a scalar condition (R31). -/
def CC.code : CC → BitVec 4
  | .eq => 0 | .ne => 1 | .lt => 2 | .ge => 3 | .ltu => 4 | .geu => 5 | .gt => 6 | .le => 7
  | .gtu => 8 | .leu => 9 | .mi => 10 | .pl => 11 | .vs => 12 | .vc => 13 | .al => 14
/-- Atomic operations (R64). -/
def AtomOp.ofCode : BitVec 4 → Option AtomOp
  | 0 => some .add | 1 => some .and | 2 => some .or | 3 => some .xor | 4 => some .min | 5 => some .max
  | 6 => some .swap | 7 => some .cas | _ => none
/-- The code of an atomic operation (R64). -/
def AtomOp.code : AtomOp → BitVec 4
  | .add => 0 | .and => 1 | .or => 2 | .xor => 3 | .min => 4 | .max => 5 | .swap => 6 | .cas => 7
/-- Shuffle modes: the minor codes of 0x17 and 0x18 (R65). -/
def ShflMode.ofCode : BitVec 2 → ShflMode
  | 0 => .idx | 1 => .xor | 2 => .up | _ => .dn
/-- The minor code of a shuffle mode (R65). -/
def ShflMode.code : ShflMode → BitVec 2
  | .idx => 0 | .xor => 1 | .up => 2 | .dn => 3
/-- Reductions: the minor codes of 0x1A (R65). -/
def RedOp.ofCode : BitVec 2 → Option RedOp
  | 0 => some .add | 1 => some .min | 2 => some .max | _ => none
/-- The minor code of a reduction (R65). -/
def RedOp.code : RedOp → BitVec 2
  | .add => 0 | .min => 1 | .max => 2
/-- Prefixes: the minor codes of 0x1B (R65). -/
def ScanOp.ofCode : BitVec 2 → ScanOp
  | 0 => .add | 1 => .xadd | 2 => .min | _ => .max
/-- The minor code of a prefix (R65). -/
def ScanOp.code : ScanOp → BitVec 2
  | .add => 0 | .xadd => 1 | .min => 2 | .max => 3
/-- Field numbers of `MODEF` (R35, R64). -/
def GmField.ofCode : BitVec 8 → Option GmField
  | 0 => some .guard | 1 => some .dtype | 2 => some .stype | 3 => some .rnd | 4 => some .sat
  | 5 => some .fin | 6 => some .fout | _ => none
/-- The number of a field of `gm` (R35). -/
def GmField.code : GmField → BitVec 8
  | .guard => 0 | .dtype => 1 | .stype => 2 | .rnd => 3 | .sat => 4 | .fin => 5 | .fout => 6
/-- `CPY` minor codes and `CPL` sizes: 4, 8 or 16 bytes (R63, R65). -/
def CopySize.ofCode : BitVec 2 → Option CopySize
  | 0 => some .b4 | 1 => some .b8 | 2 => some .b16 | _ => none
/-- The code of a copy size (R63). -/
def CopySize.code : CopySize → BitVec 2
  | .b4 => 0 | .b8 => 1 | .b16 => 2
/-- The residency predicate of `LDP`: 0 is not assigned (R64, R66). -/
def LdpPred.ofCode : BitVec 3 → Option LdpPred
  | 1 => some .p1 | 2 => some .p2 | 3 => some .p3 | 4 => some .p4 | 5 => some .p5 | 6 => some .p6
  | 7 => some .p7 | _ => none
/-- The number of the residency predicate of `LDP` (R64). -/
def LdpPred.code : LdpPred → BitVec 3
  | .p1 => 1 | .p2 => 2 | .p3 => 3 | .p4 => 4 | .p5 => 5 | .p6 => 6 | .p7 => 7
/-- The offset operand of the memory format (R30). -/
def MOff.ofCode (k : BitVec 1) (o : BitVec 8) : MOff := if k = 1 then .step o else .vec o
/-- The k bit of an offset operand (R30). -/
def MOff.kind : MOff → BitVec 1
  | .vec _ => 0 | .step _ => 1
/-- The o field of an offset operand (R30). -/
def MOff.field : MOff → BitVec 8
  | .vec o => o | .step e => e

/-- Opcodes 0x01 to 0x0B: the integer vector rows of R65. -/
def decodeInteger (w : BitVec 32) : Option Instr :=
  let d := dOf w; let a := aOf w; let b := bOf w
  match (opOf w).toNat, (subOf w).toNat with
  | 0x01, 0 => some (.iadd d a b) | 0x01, 1 => some (.isub d a b)
  | 0x01, 2 => some (.imul d a b) | 0x01, 3 => some (.imulh d a b)
  | 0x02, 0 => some (.iaddImm d a b) | 0x02, 1 => some (.isubImm d a b)
  | 0x02, 2 => some (.imulImm d a b) | 0x02, 3 => some (.imulhImm d a b)
  | 0x03, 0 => some (.imad d a b) | 0x03, 1 => some (.imin d a b)
  | 0x03, 2 => some (.imax d a b) | 0x03, 3 => zeroThen b (some (.iabs d a))
  | 0x04, 0 => some (.and d a b) | 0x04, 1 => some (.or d a b)
  | 0x04, 2 => some (.xor d a b) | 0x04, 3 => zeroThen b (some (.not d a))
  | 0x05, 0 => some (.andImm d a b) | 0x05, 1 => some (.orImm d a b) | 0x05, 2 => some (.xorImm d a b)
  | 0x06, 0 => some (.shl d a b) | 0x06, 1 => some (.shr d a b) | 0x06, 2 => some (.sar d a b)
  | 0x07, 0 => some (.shlImm d a b) | 0x07, 1 => some (.shrImm d a b) | 0x07, 2 => some (.sarImm d a b)
  | 0x08, 0 => zeroThen b (some (.clz d a)) | 0x08, 1 => zeroThen b (some (.popc d a))
  | 0x08, 2 => zeroThen b (some (.brev d a)) | 0x08, 3 => zeroThen b (some (.mov d a))
  | 0x09, 0 => some (.bfe d a b) | 0x09, 1 => some (.bfi d a b)
  | 0x09, 2 => (nibOf b).map (.sel d a)
  | 0x0A, _ => some (.lea (subOf w) d a b)
  | 0x0B, _ =>
    match (minorOf w).toNat with
    | 0 => some (.movi d (imm16Of w))
    | 1 => some (.movhi d (imm16Of w))
    | _ => none
  | _, _ => none

/-- Opcode 0x0C: the compares (R63, R65). -/
def decodeCompare (w : BitVec 32) : Option Instr :=
  let c := bitsAt w 20 4; let p := bitsAt w 16 4; let a := aOf w; let b := bOf w
  match (subOf w).toNat with
  | 0 => (ICond.ofCode c).map (fun c => .icmp c p a b)
  | 1 => (ICond.ofCode c).map (fun c => .icmpImm c p a b)
  | 2 => (FCond.ofCode c).map (fun c => .fcmp c p a b)
  | _ => none

/-- A scalar row with two sources and a destination (R65). -/
def scalar3 (f : BitVec 6 → BitVec 7 → BitVec 7 → Instr) (w : BitVec 32) : Option Instr :=
  match sdstOf (dOf w), sideOf (aOf w), sideOf (bOf w) with
  | some d, some a, some b => some (f d a b)
  | _, _, _ => none

/-- Opcodes 0x0D to 0x10: the scalar rows of R65. -/
def decodeScalar (w : BitVec 32) : Option Instr :=
  match (opOf w).toNat, (subOf w).toNat with
  | 0x0D, 0 => scalar3 .sadd w | 0x0D, 1 => scalar3 .ssub w | 0x0D, 2 => scalar3 .smul w
  | 0x0D, 3 =>
    match sideOf (aOf w), sideOf (bOf w) with
    | some a, some b => zeroThen (dOf w) (some (.scmp a b))
    | _, _ => none
  | 0x0E, 0 => scalar3 .sand w | 0x0E, 1 => scalar3 .sor w | 0x0E, 2 => scalar3 .sxor w
  | 0x0E, 3 =>
    match sdstOf (dOf w), sideOf (aOf w) with
    | some d, some a => zeroThen (bOf w) (some (.smov d a))
    | _, _ => none
  | 0x0F, 0 => scalar3 .sshl w | 0x0F, 1 => scalar3 .sshr w | 0x0F, 2 => scalar3 .ssar w
  | 0x10, _ =>
    match (minorOf w).toNat with
    | 0 => (sdstOf (dOf w)).map (fun d => .smovImm d (imm16Of w))
    | 1 => (sdstOf (dOf w)).map (fun d => .saddImm d (imm16Of w))
    | 2 => (sideOf (dOf w)).map (fun a => .scmpImm a (imm16Of w))
    | _ => none
  | _, _ => none

/-- Opcodes 0x11 to 0x16: the floating-point and conversion rows of R65. -/
def decodeFloat (w : BitVec 32) : Option Instr :=
  let d := dOf w; let a := aOf w; let b := bOf w
  match (opOf w).toNat, (subOf w).toNat with
  | 0x11, 0 => some (.fadd d a b) | 0x11, 1 => some (.fsub d a b)
  | 0x11, 2 => some (.fmul d a b) | 0x11, 3 => some (.fma d a b)
  | 0x12, 0 => some (.fmin d a b) | 0x12, 1 => some (.fmax d a b)
  | 0x12, 2 => zeroThen b (some (.fabs d a)) | 0x12, 3 => zeroThen b (some (.fneg d a))
  | 0x13, 0 => zeroThen b (some (.frcp d a)) | 0x13, 1 => zeroThen b (some (.frsq d a))
  | 0x13, 2 => zeroThen b (some (.fsqrt d a)) | 0x13, 3 => some (.fscale d a b)
  | 0x14, 0 => zeroThen b (some (.fexp2 d a)) | 0x14, 1 => zeroThen b (some (.flog2 d a))
  | 0x14, 2 => zeroThen b (some (.fsin d a)) | 0x14, 3 => zeroThen b (some (.fcos d a))
  | 0x15, 0 => zeroThen b (some (.ftanh d a)) | 0x15, 1 => zeroThen b (some (.cvt d a))
  | 0x16, 0 => some (.pack d a b) | 0x16, 1 => some (.unpack d a b)
  | _, _ => none

/-- Opcodes 0x17 to 0x1B: the cross-lane rows of R65. -/
def decodeLane (w : BitVec 32) : Option Instr :=
  let d := dOf w; let a := aOf w; let b := bOf w
  match (opOf w).toNat, (subOf w).toNat with
  | 0x17, _ => some (.shfl (ShflMode.ofCode (subOf w)) d a b)
  | 0x18, _ => some (.shflImm (ShflMode.ofCode (subOf w)) d a b)
  | 0x19, 0 => some (.bcast d a b)
  | 0x19, 1 => (nibOf a).bind (fun p => zeroThen b (some (.mbcnt d p)))
  | 0x19, 2 =>
    match sdstOf d, nibOf a with
    | some s, some p => some (.vote s p b)
    | _, _ => none
  | 0x1A, _ => (RedOp.ofCode (subOf w)).bind (fun o => zeroThen b (some (.redx o d a)))
  | 0x1B, _ => zeroThen b (some (.scan (ScanOp.ofCode (subOf w)) d a))
  | _, _ => none

/-- A predicate row with two sources (R65). -/
def pred3 (f : BitVec 4 → BitVec 4 → BitVec 4 → Instr) (w : BitVec 32) : Option Instr :=
  match nibOf (dOf w), nibOf (aOf w), nibOf (bOf w) with
  | some d, some a, some b => some (f d a b)
  | _, _, _ => none

/-- A predicate row with one source (R65). -/
def pred2 (f : BitVec 4 → BitVec 4 → Instr) (w : BitVec 32) : Option Instr :=
  match nibOf (dOf w), nibOf (aOf w) with
  | some d, some a => zeroThen (bOf w) (some (f d a))
  | _, _ => none

/-- Opcodes 0x1C to 0x1F: predicate, uniform and system-register rows of R65. -/
def decodePredicate (w : BitVec 32) : Option Instr :=
  match (opOf w).toNat, (subOf w).toNat with
  | 0x1C, 0 => pred3 .pand w | 0x1C, 1 => pred3 .por w | 0x1C, 2 => pred3 .pxor w
  | 0x1C, 3 => pred2 .pnot w
  | 0x1D, 0 => pred2 .pmov w
  | 0x1D, 1 =>
    match sdstOf (dOf w), nibOf (aOf w) with
    | some d, some a => zeroThen (bOf w) (some (.pcnt d a))
    | _, _ => none
  | 0x1D, 2 => pred2 .pfirst w
  | 0x1E, 0 =>
    match kdstOf (dOf w), sideOf (aOf w) with
    | some d, some a => zeroThen (bOf w) (some (.kmov d a))
    | _, _ => none
  | 0x1E, 1 =>
    match kdstOf (dOf w), sideOf (aOf w) with
    | some d, some a => some (.kld d a (bOf w))
    | _, _ => none
  | 0x1F, _ =>
    match (minorOf w).toNat with
    | 0 => (sdstOf (dOf w)).map (fun d => .sread d (imm16Of w))
    | 1 => (sideOf (dOf w)).map (fun a => .swrite a (imm16Of w))
    | _ => none
  | _, _ => none

/-- Opcodes 0x20 to 0x2A: control, mode and barrier rows of R65; the branch fields of R31. -/
def decodeControl (w : BitVec 32) : Option Instr :=
  let c2 := bitsAt w 24 2; let c4 := bitsAt w 20 4; let o := offOf w
  let d := dOf w; let a := aOf w; let b := bOf w
  match (opOf w).toNat, (subOf w).toNat with
  | 0x20, _ => zeroThen (condOf w) (some (.br o))
  | 0x21, _ => zeroThen c2 ((CC.ofCode c4).map (fun c => .brc c o))
  | 0x22, _ => zeroThen c2 (some (.brz c4 o))
  | 0x23, _ => zeroThen c2 (some (.brnz c4 o))
  | 0x24, _ => zeroThen (condOf w) (some (.call o))
  | 0x25, _ => zeroThen c2 (some (.fork c4 o))
  | 0x26, _ => zeroThen c2 (some (.yieldc c4 o))
  | 0x27, 0 => zeroThen (bitsAt w 0 24) (some .nop)
  | 0x27, 1 => zeroThen (bitsAt w 0 24) (some .exit)
  | 0x27, 2 => zeroThen (bitsAt w 0 24) (some .yield)
  | 0x27, 3 => zeroThen (bitsAt w 0 24) (some .join)
  | 0x28, 0 => zeroThen d (zeroThen b ((sideOf a).map .ret))
  | 0x28, 1 => zeroThen d (zeroThen b ((sideOf a).map .setmode))
  | 0x29, _ =>
    match (minorOf w).toNat with
    | 0 => zeroThen d (some (.trap (imm16Of w)))
    | 1 => zeroThen d (some (.brk (imm16Of w)))
    | 2 => (GmField.ofCode d).map (fun f => .modef f (imm16Of w))
    | _ => none
  | 0x2A, 0 => zeroThen (bitsAt w 8 16) (some (.bar b))
  | 0x2A, 1 => zeroThen (bitsAt w 8 16) (some (.cbar b))
  | 0x2A, 2 => zeroThen (bitsAt w 8 16) (some (.reggrow b))
  | 0x2A, 3 => zeroThen (bitsAt w 8 16) (some (.regshrink b))
  | _, _ => none

/-- Opcode 0x32: `PREQ`, `PREF`, `RCMARK` and the fences by size (R64). A field that the operation
does not use is of role 0 (R66; the map of R65 and the table's masks). -/
def decodeMemOther (w : BitVec 32) : Option Instr :=
  let o := MOff.ofCode (mkOf w) (bOf w); let x := mbaseOf w
  match (sizeOf' w).toNat with
  | 0 => zeroThen (scopeOf w) (zeroThen (mdOf w) (some (.preq x o)))
  | 1 => zeroThen (scopeOf w) (zeroThen (mdOf w) (some (.pref x o)))
  | 2 => zeroThen (scopeOf w) (zeroThen (mdOf w) (some (.rcmark x o)))
  | 3 => zeroThen (bitsAt w 0 20) ((Scope.ofCode (scopeOf w)).map .fenceAcq)
  | 4 => zeroThen (bitsAt w 0 20) ((Scope.ofCode (scopeOf w)).map .fenceRel)
  | 5 => zeroThen (bitsAt w 0 20) ((Scope.ofCode (scopeOf w)).map .fenceAr)
  | _ => none

/-- Opcodes 0x2B to 0x33: memory, atomic and translation rows of R65. -/
def decodeMemory (w : BitVec 32) : Option Instr :=
  let o := MOff.ofCode (mkOf w) (bOf w); let x := mbaseOf w; let d := mdOf w
  match (opOf w).toNat with
  | 0x2B =>
    match Scope.ofCode (scopeOf w), Size.ofCode (sizeOf' w) with
    | some sc, some z => some (.ld sc z d x o)
    | _, _ => none
  | 0x2C =>
    match Scope.ofCode (scopeOf w), Size.ofCode (sizeOf' w) with
    | some sc, some z => some (.st sc z d x o)
    | _, _ => none
  | 0x2D => (Scope.ofCode (scopeOf w)).map (fun sc => .ldn sc (sizeOf' w) d x o)
  | 0x2E => (Scope.ofCode (scopeOf w)).map (fun sc => .stn sc (sizeOf' w) d x o)
  | 0x2F =>
    match LdpPred.ofCode (scopeOf w), Size.ofCode (sizeOf' w) with
    | some p, some z => some (.ldp p z d x o)
    | _, _ => none
  | 0x30 =>
    match Scope.ofCode (scopeOf w), AtomOp.ofCode (bitsAt w 19 4) with
    | some sc, some op => some (.atom sc op (bitsAt w 16 3) (aOf w) (bOf w))
    | _, _ => none
  | 0x31 =>
    match Scope.ofCode (scopeOf w), AtomOp.ofCode (bitsAt w 19 4) with
    | some sc, some op => some (.atomr sc op (bitsAt w 16 3) (aOf w) (bOf w))
    | _, _ => none
  | 0x32 => decodeMemOther w
  | 0x33 =>
    match (subOf w).toNat with
    | 0 =>
      match xregOf (dOf w), sideOf (aOf w), sideOf (bOf w) with
      | some d, some a, some b => some (.xlat d a b)
      | _, _, _ => none
    | 1 => zeroThen (dOf w) (zeroThen (bOf w) ((sideOf (aOf w)).map .publish))
    | 2 => zeroThen (bitsAt w 0 16) ((xregOf (dOf w)).map .xrel)
    | _ => none
  | _ => none

/-- Opcodes 0x34 to 0x36: the matrix rows of R65. -/
def decodeMatrix (w : BitVec 32) : Option Instr :=
  match (opOf w).toNat, (subOf w).toNat with
  | 0x34, _ =>
    match accOf (dOf w), nibOf (aOf w), nibOf (bOf w) with
    | some d, some a, some b => some (.mma (subOf w) d a b)
    | _, _, _ => none
  | 0x35, 0 =>
    match accOf (dOf w), sideOf (aOf w) with
    | some d, some a => zeroThen (bOf w) (some (.mmaq d a))
    | _, _ => none
  | 0x35, 1 =>
    match accOf (dOf w), sideOf (aOf w) with
    | some d, some a => some (.mmaqs d a (bOf w))
    | _, _ => none
  | 0x35, 2 => zeroThen (bitsAt w 8 16) (some (.acommit (bOf w)))
  | 0x35, 3 => zeroThen (bitsAt w 8 16) (some (.adiscard (bOf w)))
  | 0x36, 0 => zeroThen (bitsAt w 0 16) ((accOf (dOf w)).map .azero)
  | 0x36, 1 => (accOf (aOf w)).map (fun a => .amov (dOf w) a (bOf w))
  | 0x36, 2 => (accOf (aOf w)).map (fun a => .acvt (dOf w) a (bOf w))
  | _, _ => none

/-- Opcodes 0x37 to 0x3F: copy, landing-zone and shipped-section rows of R65; the formats of R63. -/
def decodeEngine (w : BitVec 32) : Option Instr :=
  let d := dOf w; let a := aOf w; let b := bOf w
  match (opOf w).toNat, (subOf w).toNat with
  | 0x37, _ =>
    zeroThen (bitsAt w 16 2) ((CopySize.ofCode (subOf w)).map
      (fun z => .cpy z (bitsAt w 21 3) (bitsAt w 18 3) a b))
  | 0x38, 0 => zeroThen (bitsAt w 16 2) (some (.cpg (bitsAt w 21 3) (bitsAt w 18 3) a b))
  | 0x39, 0 =>
    match nibOf d, xregOf a, sideOf b with
    | some t, some x, some s => some (.cpt t x s)
    | _, _, _ => none
  | 0x39, 1 =>
    match nibOf d, nibOf a, sideOf b with
    | some t, some u, some s => some (.cpq t u s)
    | _, _, _ => none
  | 0x3A, 0 => zeroThen (bitsAt w 8 16) (some (.cpwaitSrc b))
  | 0x3A, 1 => zeroThen (bitsAt w 8 16) (some (.cpwaitVis b))
  | 0x3A, 2 => zeroThen a ((sdstOf d).map (fun s => .cptest s b))
  | 0x3A, 3 => zeroThen a ((sdstOf d).map (fun s => .seal s b))
  | 0x3B, 0 =>
    match sdstOf d, sideOf a with
    | some d, some a => zeroThen b (some (.lzopen d a))
    | _, _ => none
  | 0x3B, 1 => zeroThen d (zeroThen b ((sideOf a).map .lzclose))
  | 0x3B, 2 => scalar3 .lzres w
  | 0x3B, 3 => scalar3 .lzstat w
  | 0x3C, 0 =>
    match sideOf a, sideOf b with
    | some a, some b => zeroThen d (some (.lzwait a b))
    | _, _ => none
  | 0x3C, 1 =>
    match sideOf a, sideOf b with
    | some a, some b => zeroThen d (some (.lzfree a b))
    | _, _ => none
  | 0x3D, _ =>
    match CopySize.ofCode (subOf w), sideOf d with
    | some z, some h =>
      zeroThen (bitsAt w 8 1) (some (.cpl z h (bitsAt w 13 3) (bitsAt w 9 4) b))
    | _, _ => none
  | 0x3E, 0 => zeroThen (bitsAt w 0 5) ((sideOf a).map (fun e => .shipW d e (bitsAt w 5 3)))
  | 0x3E, 1 =>
    zeroThen (bitsAt w 0 2) ((sideOf a).map (fun e => .shipT d e (bitsAt w 5 3) (bitsAt w 2 3)))
  | 0x3F, 0 => zeroThen (bitsAt w 8 16) (some (.waitk b))
  | 0x3F, 1 => zeroThen a ((nibOf d).map (fun p => .testk p b))
  | 0x3F, 2 => zeroThen (bitsAt w 0 24) (some .sret)
  | _, _ => none

/-- The instruction that a word names, or none where R66 gives it `FLT.ILLOP`. -/
def decode (w : BitVec 32) : Option Instr :=
  let op := (opOf w).toNat
  if op < 0x0C then decodeInteger w
  else if op < 0x0D then decodeCompare w
  else if op < 0x11 then decodeScalar w
  else if op < 0x17 then decodeFloat w
  else if op < 0x1C then decodeLane w
  else if op < 0x20 then decodePredicate w
  else if op < 0x2B then decodeControl w
  else if op < 0x34 then decodeMemory w
  else if op < 0x37 then decodeMatrix w
  else decodeEngine w

/-- The word of four bytes in ascending address order (R4, R17). -/
def wordOfBytes (b0 b1 b2 b3 : BitVec 8) : BitVec 32 := b3 ++ b2 ++ b1 ++ b0

/-- Decodes the first instruction of a byte string and gives the bytes after it. -/
def decodeBytes : List (BitVec 8) → Except Reject (Instr × List (BitVec 8))
  | b0 :: b1 :: b2 :: b3 :: rest =>
    let w := wordOfBytes b0 b1 b2 b3
    match decode w with
    | some i => .ok (i, rest)
    | none => .error (.illop w)
  | _ => .error .short

/-- The four bytes of a word in ascending address order (R4). -/
def bytesOfWord (w : BitVec 32) : List (BitVec 8) :=
  [w.extractLsb' 0 8, w.extractLsb' 8 8, w.extractLsb' 16 8, w.extractLsb' 24 8]

/-- What the decoder reads from an instruction whose bits are `w`, numbered as the opcode table does. -/
def decodeTableWord (nbits w : Nat) : Option Instr :=
  if nbits = 32 then
    match decodeBytes (bytesOfWord (BitVec.ofNat 32 w)) with
    | .ok (i, []) => some i
    | _ => none
  else none

/-! Words that R66 refuses with `FLT.OPND` from their bits alone. -/

/-- The registers of a size: one up to a word, two of a dword, four of a quad (R148). -/
def Size.regs : Size → Nat
  | .byte | .half | .word => 1 | .dword => 2 | .quad => 4
/-- The bits of a field of `gm` (R35, R126). -/
def GmField.width : GmField → Nat
  | .guard => 4 | .dtype => 5 | .stype => 5 | .rnd => 3 | .sat => 1 | .fin => 1 | .fout => 1
/-- An `LDN` with k = 0 must not load over its own offsets (R153). -/
def ldnOffsetOk (d : BitVec 8) (n : BitVec 3) : MOff → Bool
  | .vec o => o.toNat < d.toNat || d.toNat + n.toNat < o.toNat
  | .step _ => true

/-- The operands are in range as far as the word's bits show (R66, and R87, R108, R109, R127, R153 for the
checks that the instruction chapters add). -/
def operandBitsOk : Instr → Bool
  | .sel _ a _ => a.toNat < 255
  | .bcast _ _ i => i.toNat < 32
  | .shflImm _ _ _ i => i.toNat < 32
  | .vote _ _ i => i.toNat < 3
  | .sread _ n => n.toNat < 0x0E
  | .swrite _ n => 0x0A ≤ n.toNat && n.toNat < 0x0E
  | .trap n => !n.msb
  | .brk n => !n.msb
  | .modef f i => i.toNat < 2 ^ f.width
  | .bar b => b.toNat < 4
  | .cbar b => b.toNat < 4
  | .reggrow n => 1 ≤ n.toNat && n.toNat ≤ 32
  | .regshrink n => 1 ≤ n.toNat && n.toNat ≤ 32
  | .ld _ z d _ _ => d.toNat + z.regs ≤ 256
  | .st _ z d _ _ => d.toNat + z.regs ≤ 256
  | .ldp _ z d _ _ => d.toNat + z.regs ≤ 256
  | .ldn _ n d _ o => d.toNat + n.toNat + 1 ≤ 256 && ldnOffsetOk d n o
  | .stn _ n d _ _ => d.toNat + n.toNat + 1 ≤ 256
  | .atom _ op _ d _ => op != .cas || d.toNat < 255
  | .atomr _ op _ d _ => op != .cas || d.toNat < 255
  | .mmaqs _ _ m => m.toNat < 8
  | .acommit m => m.toNat < 8
  | .adiscard m => m.toNat < 8
  | .amov _ _ i => i.toNat < 32
  | .acvt _ _ i => i.toNat < 32
  | .cpg _ _ _ sv => sv.toNat < 255
  | .cpwaitSrc n => n.toNat < 16
  | .cpwaitVis n => n.toNat < 16
  | .cptest _ n => n.toNat < 16
  | .seal _ sc => sc.toNat < 5
  | .cpl _ h _ m a => m.toNat < 12 && a.toNat < 255 && h.toNat % 64 + m.toNat < 64
  | .waitk k => k.toNat < 8
  | .testk _ k => k.toNat < 8
  | _ => true

/-- The long-latency operations of R25. -/
def isLongLatency : Instr → Bool
  | .ld .. | .ldn .. | .ldp .. | .kld .. | .atomr .. | .xlat .. | .sread .. | .frcp .. | .frsq ..
  | .fsqrt .. | .fexp2 .. | .flog2 .. | .fsin .. | .fcos .. | .ftanh .. | .mmaq .. | .mmaqs ..
  | .lzopen .. | .lzres .. | .lzstat .. => true
  | _ => false

/-- The instructions that transfer control (R20). -/
def transfersControl : Instr → Bool
  | .br .. | .brc .. | .brz .. | .brnz .. | .call .. | .ret .. | .fork .. | .join | .yield | .yieldc ..
  | .exit | .trap .. => true
  | _ => false

/-- R66 refuses the word from its bits alone. Of the checks that `operandBitsOk` takes from the instruction chapters,
R153's is the one that concerns an instruction which fetch counts, and it is no row of R66. -/
def refusedByBits : Instr → Bool
  | .ldn _ n d _ _ => 256 < d.toNat + n.toNat + 1
  | i => !operandBitsOk i

/-- The word counts as a long-latency operation at fetch: it decodes, and R66 does not refuse it (R20). -/
def wordIsLong (w : BitVec 32) : Bool :=
  match decode w with
  | some i => !refusedByBits i && isLongLatency i
  | none => false
/-- The word counts as a control transfer at fetch (R20). -/
def wordTransfers (w : BitVec 32) : Bool :=
  match decode w with
  | some i => !refusedByBits i && transfersControl i
  | none => false

/-! The encoder, from the same tables. -/

/-- VVV and VVI (R29). -/
def mkVVV (op : BitVec 6) (sub : BitVec 2) (d a b : BitVec 8) : BitVec 32 := op ++ sub ++ d ++ a ++ b
/-- VI16 (R29). -/
def mkVI16 (op : BitVec 6) (sub : BitVec 2) (d : BitVec 8) (i : BitVec 16) : BitVec 32 :=
  op ++ i.extractLsb' 14 2 ++ d ++ i.extractLsb' 0 14 ++ sub
/-- CMP (R63). -/
def mkCMP (sub : BitVec 2) (c p : BitVec 4) (a b : BitVec 8) : BitVec 32 :=
  (0x0C#6) ++ sub ++ c ++ p ++ a ++ b
/-- B (R31). -/
def mkB (op : BitVec 6) (c : BitVec 6) (o : BitVec 20) : BitVec 32 := op ++ c ++ o
/-- M (R30). -/
def mkM (op : BitVec 6) (sc sz : BitVec 3) (d : BitVec 8) (x : BitVec 3) (o : MOff) : BitVec 32 :=
  op ++ sc ++ sz ++ d ++ x ++ o.kind ++ o.field
/-- ATM (R63). -/
def mkATM (op : BitVec 6) (sc : BitVec 3) (aop : BitVec 4) (x : BitVec 3) (d o : BitVec 8) : BitVec 32 :=
  op ++ sc ++ aop ++ x ++ d ++ o
/-- CPX (R63). -/
def mkCPX (op : BitVec 6) (sub : BitVec 2) (dx sx : BitVec 3) (dv sv : BitVec 8) : BitVec 32 :=
  op ++ sub ++ dx ++ sx ++ (0#2) ++ dv ++ sv
/-- CPL (R63). -/
def mkCPL (z : BitVec 2) (h : BitVec 7) (x : BitVec 3) (m : BitVec 4) (a : BitVec 8) : BitVec 32 :=
  (0x3D#6) ++ z ++ (0#1) ++ h ++ x ++ m ++ (0#1) ++ a
/-- SHP (R63). -/
def mkSHP (sub : BitVec 2) (a : BitVec 8) (e : BitVec 7) (x t : BitVec 3) : BitVec 32 :=
  (0x3E#6) ++ sub ++ a ++ (0#1) ++ e ++ x ++ t ++ (0#2)
/-- A scalar-side register in an 8-bit field (R33). -/
def sideField (r : BitVec 7) : BitVec 8 := (0#1) ++ r
/-- A scalar destination in an 8-bit field (R33). -/
def sdstField (r : BitVec 6) : BitVec 8 := (0#2) ++ r
/-- A uniform destination in an 8-bit field (R33). -/
def kdstField (r : BitVec 6) : BitVec 8 := (1#2) ++ r
/-- A predicate or tile in an 8-bit field (R33). -/
def nibField (r : BitVec 4) : BitVec 8 := (0#4) ++ r
/-- A translation register in an 8-bit field (R62). -/
def xregField (r : BitVec 3) : BitVec 8 := (0#5) ++ r
/-- An accumulator in an 8-bit field (R33). -/
def accField (r : BitVec 5) : BitVec 8 := (0#3) ++ r

/-- The word of an instruction; none of an event, which has no encoding. -/
def encode : Instr → Option (BitVec 32)
  | .iadd d a b => some (mkVVV 0x01 0 d a b)
  | .isub d a b => some (mkVVV 0x01 1 d a b)
  | .imul d a b => some (mkVVV 0x01 2 d a b)
  | .imulh d a b => some (mkVVV 0x01 3 d a b)
  | .iaddImm d a b => some (mkVVV 0x02 0 d a b)
  | .isubImm d a b => some (mkVVV 0x02 1 d a b)
  | .imulImm d a b => some (mkVVV 0x02 2 d a b)
  | .imulhImm d a b => some (mkVVV 0x02 3 d a b)
  | .imad d a b => some (mkVVV 0x03 0 d a b)
  | .imin d a b => some (mkVVV 0x03 1 d a b)
  | .imax d a b => some (mkVVV 0x03 2 d a b)
  | .iabs d a => some (mkVVV 0x03 3 d a 0)
  | .and d a b => some (mkVVV 0x04 0 d a b)
  | .or d a b => some (mkVVV 0x04 1 d a b)
  | .xor d a b => some (mkVVV 0x04 2 d a b)
  | .not d a => some (mkVVV 0x04 3 d a 0)
  | .andImm d a b => some (mkVVV 0x05 0 d a b)
  | .orImm d a b => some (mkVVV 0x05 1 d a b)
  | .xorImm d a b => some (mkVVV 0x05 2 d a b)
  | .shl d a b => some (mkVVV 0x06 0 d a b)
  | .shr d a b => some (mkVVV 0x06 1 d a b)
  | .sar d a b => some (mkVVV 0x06 2 d a b)
  | .shlImm d a b => some (mkVVV 0x07 0 d a b)
  | .shrImm d a b => some (mkVVV 0x07 1 d a b)
  | .sarImm d a b => some (mkVVV 0x07 2 d a b)
  | .clz d a => some (mkVVV 0x08 0 d a 0)
  | .popc d a => some (mkVVV 0x08 1 d a 0)
  | .brev d a => some (mkVVV 0x08 2 d a 0)
  | .mov d a => some (mkVVV 0x08 3 d a 0)
  | .bfe d a b => some (mkVVV 0x09 0 d a b)
  | .bfi d a b => some (mkVVV 0x09 1 d a b)
  | .sel d a p => some (mkVVV 0x09 2 d a (nibField p))
  | .lea sh d a b => some (mkVVV 0x0A sh d a b)
  | .movi d i => some (mkVI16 0x0B 0 d i)
  | .movhi d i => some (mkVI16 0x0B 1 d i)
  | .icmp c p a b => some (mkCMP 0 c.code p a b)
  | .icmpImm c p a i => some (mkCMP 1 c.code p a i)
  | .fcmp c p a b => some (mkCMP 2 c.code p a b)
  | .sadd d a b => some (mkVVV 0x0D 0 (sdstField d) (sideField a) (sideField b))
  | .ssub d a b => some (mkVVV 0x0D 1 (sdstField d) (sideField a) (sideField b))
  | .smul d a b => some (mkVVV 0x0D 2 (sdstField d) (sideField a) (sideField b))
  | .scmp a b => some (mkVVV 0x0D 3 0 (sideField a) (sideField b))
  | .sand d a b => some (mkVVV 0x0E 0 (sdstField d) (sideField a) (sideField b))
  | .sor d a b => some (mkVVV 0x0E 1 (sdstField d) (sideField a) (sideField b))
  | .sxor d a b => some (mkVVV 0x0E 2 (sdstField d) (sideField a) (sideField b))
  | .smov d a => some (mkVVV 0x0E 3 (sdstField d) (sideField a) 0)
  | .sshl d a b => some (mkVVV 0x0F 0 (sdstField d) (sideField a) (sideField b))
  | .sshr d a b => some (mkVVV 0x0F 1 (sdstField d) (sideField a) (sideField b))
  | .ssar d a b => some (mkVVV 0x0F 2 (sdstField d) (sideField a) (sideField b))
  | .smovImm d i => some (mkVI16 0x10 0 (sdstField d) i)
  | .saddImm d i => some (mkVI16 0x10 1 (sdstField d) i)
  | .scmpImm a i => some (mkVI16 0x10 2 (sideField a) i)
  | .fadd d a b => some (mkVVV 0x11 0 d a b)
  | .fsub d a b => some (mkVVV 0x11 1 d a b)
  | .fmul d a b => some (mkVVV 0x11 2 d a b)
  | .fma d a b => some (mkVVV 0x11 3 d a b)
  | .fmin d a b => some (mkVVV 0x12 0 d a b)
  | .fmax d a b => some (mkVVV 0x12 1 d a b)
  | .fabs d a => some (mkVVV 0x12 2 d a 0)
  | .fneg d a => some (mkVVV 0x12 3 d a 0)
  | .frcp d a => some (mkVVV 0x13 0 d a 0)
  | .frsq d a => some (mkVVV 0x13 1 d a 0)
  | .fsqrt d a => some (mkVVV 0x13 2 d a 0)
  | .fscale d a b => some (mkVVV 0x13 3 d a b)
  | .fexp2 d a => some (mkVVV 0x14 0 d a 0)
  | .flog2 d a => some (mkVVV 0x14 1 d a 0)
  | .fsin d a => some (mkVVV 0x14 2 d a 0)
  | .fcos d a => some (mkVVV 0x14 3 d a 0)
  | .ftanh d a => some (mkVVV 0x15 0 d a 0)
  | .cvt d a => some (mkVVV 0x15 1 d a 0)
  | .pack d a b => some (mkVVV 0x16 0 d a b)
  | .unpack d a b => some (mkVVV 0x16 1 d a b)
  | .shfl m d a b => some (mkVVV 0x17 m.code d a b)
  | .shflImm m d a i => some (mkVVV 0x18 m.code d a i)
  | .bcast d a i => some (mkVVV 0x19 0 d a i)
  | .mbcnt d p => some (mkVVV 0x19 1 d (nibField p) 0)
  | .vote d p i => some (mkVVV 0x19 2 (sdstField d) (nibField p) i)
  | .redx o d a => some (mkVVV 0x1A o.code d a 0)
  | .scan o d a => some (mkVVV 0x1B o.code d a 0)
  | .pand d a b => some (mkVVV 0x1C 0 (nibField d) (nibField a) (nibField b))
  | .por d a b => some (mkVVV 0x1C 1 (nibField d) (nibField a) (nibField b))
  | .pxor d a b => some (mkVVV 0x1C 2 (nibField d) (nibField a) (nibField b))
  | .pnot d a => some (mkVVV 0x1C 3 (nibField d) (nibField a) 0)
  | .pmov d a => some (mkVVV 0x1D 0 (nibField d) (nibField a) 0)
  | .pcnt d a => some (mkVVV 0x1D 1 (sdstField d) (nibField a) 0)
  | .pfirst d a => some (mkVVV 0x1D 2 (nibField d) (nibField a) 0)
  | .kmov d a => some (mkVVV 0x1E 0 (kdstField d) (sideField a) 0)
  | .kld d a i => some (mkVVV 0x1E 1 (kdstField d) (sideField a) i)
  | .sread d n => some (mkVI16 0x1F 0 (sdstField d) n)
  | .swrite a n => some (mkVI16 0x1F 1 (sideField a) n)
  | .br o => some (mkB 0x20 0 o)
  | .brc c o => some (mkB 0x21 ((0#2) ++ c.code) o)
  | .brz p o => some (mkB 0x22 ((0#2) ++ p) o)
  | .brnz p o => some (mkB 0x23 ((0#2) ++ p) o)
  | .call o => some (mkB 0x24 0 o)
  | .fork p o => some (mkB 0x25 ((0#2) ++ p) o)
  | .yieldc b o => some (mkB 0x26 ((0#2) ++ b) o)
  | .nop => some (mkVVV 0x27 0 0 0 0)
  | .exit => some (mkVVV 0x27 1 0 0 0)
  | .yield => some (mkVVV 0x27 2 0 0 0)
  | .join => some (mkVVV 0x27 3 0 0 0)
  | .ret a => some (mkVVV 0x28 0 0 (sideField a) 0)
  | .setmode a => some (mkVVV 0x28 1 0 (sideField a) 0)
  | .trap n => some (mkVI16 0x29 0 0 n)
  | .brk n => some (mkVI16 0x29 1 0 n)
  | .modef f i => some (mkVI16 0x29 2 f.code i)
  | .bar b => some (mkVVV 0x2A 0 0 0 b)
  | .cbar b => some (mkVVV 0x2A 1 0 0 b)
  | .reggrow b => some (mkVVV 0x2A 2 0 0 b)
  | .regshrink b => some (mkVVV 0x2A 3 0 0 b)
  | .ld sc z d x o => some (mkM 0x2B sc.code z.code d x o)
  | .st sc z d x o => some (mkM 0x2C sc.code z.code d x o)
  | .ldn sc n d x o => some (mkM 0x2D sc.code n d x o)
  | .stn sc n d x o => some (mkM 0x2E sc.code n d x o)
  | .ldp p z d x o => some (mkM 0x2F p.code z.code d x o)
  | .atom sc op x d o => some (mkATM 0x30 sc.code op.code x d o)
  | .atomr sc op x d o => some (mkATM 0x31 sc.code op.code x d o)
  | .preq x o => some (mkM 0x32 0 0 0 x o)
  | .pref x o => some (mkM 0x32 0 1 0 x o)
  | .rcmark x o => some (mkM 0x32 0 2 0 x o)
  | .fenceAcq sc => some (mkM 0x32 sc.code 3 0 0 (.vec 0))
  | .fenceRel sc => some (mkM 0x32 sc.code 4 0 0 (.vec 0))
  | .fenceAr sc => some (mkM 0x32 sc.code 5 0 0 (.vec 0))
  | .xlat d a b => some (mkVVV 0x33 0 (xregField d) (sideField a) (sideField b))
  | .publish a => some (mkVVV 0x33 1 0 (sideField a) 0)
  | .xrel d => some (mkVVV 0x33 2 (xregField d) 0 0)
  | .mma sh d a b => some (mkVVV 0x34 sh (accField d) (nibField a) (nibField b))
  | .mmaq d a => some (mkVVV 0x35 0 (accField d) (sideField a) 0)
  | .mmaqs d a m => some (mkVVV 0x35 1 (accField d) (sideField a) m)
  | .acommit m => some (mkVVV 0x35 2 0 0 m)
  | .adiscard m => some (mkVVV 0x35 3 0 0 m)
  | .azero d => some (mkVVV 0x36 0 (accField d) 0 0)
  | .amov d a i => some (mkVVV 0x36 1 d (accField a) i)
  | .acvt d a i => some (mkVVV 0x36 2 d (accField a) i)
  | .cpy z dx sx dv sv => some (mkCPX 0x37 z.code dx sx dv sv)
  | .cpg dx sx dv sv => some (mkCPX 0x38 0 dx sx dv sv)
  | .cpt d x b => some (mkVVV 0x39 0 (nibField d) (xregField x) (sideField b))
  | .cpq d a b => some (mkVVV 0x39 1 (nibField d) (nibField a) (sideField b))
  | .cpwaitSrc b => some (mkVVV 0x3A 0 0 0 b)
  | .cpwaitVis b => some (mkVVV 0x3A 1 0 0 b)
  | .cptest d b => some (mkVVV 0x3A 2 (sdstField d) 0 b)
  | .seal d b => some (mkVVV 0x3A 3 (sdstField d) 0 b)
  | .lzopen d a => some (mkVVV 0x3B 0 (sdstField d) (sideField a) 0)
  | .lzclose a => some (mkVVV 0x3B 1 0 (sideField a) 0)
  | .lzres d a b => some (mkVVV 0x3B 2 (sdstField d) (sideField a) (sideField b))
  | .lzstat d a b => some (mkVVV 0x3B 3 (sdstField d) (sideField a) (sideField b))
  | .lzwait a b => some (mkVVV 0x3C 0 0 (sideField a) (sideField b))
  | .lzfree a b => some (mkVVV 0x3C 1 0 (sideField a) (sideField b))
  | .cpl z h x m a => some (mkCPL z.code h x m a)
  | .shipW a e x => some (mkSHP 0 a e x 0)
  | .shipT a e x t => some (mkSHP 1 a e x t)
  | .waitk b => some (mkVVV 0x3F 0 0 0 b)
  | .testk d b => some (mkVVV 0x3F 1 (nibField d) 0 b)
  | .sret => some (mkVVV 0x3F 2 0 0 0)
  | .illegalInstructionWord _ => none
  | .clauseStart _ _ => none
  | .breakpointMatch _ _ => none
  | .loadReturn _ _ => none
  | .emptyOperationComplete _ _ => none
  | .atomrReturn _ _ => none
  | .xlatComplete _ _ => none
  | .sreadComplete _ _ => none
  | .functionResult _ _ => none
  | .lzopenComplete _ _ _ => none
  | .lzstatComplete _ _ => none
  | .lzresRequestArrival _ => none
  | .lzresAnswer _ _ _ => none
  | .mmaPerformed _ => none
  | .mmaqPerformed _ => none
  | .mmaqsPerformed _ => none
  | .azeroPerformed _ => none
  | .acommitPerformed _ => none
  | .adiscardPerformed _ => none
  | .joinRedecide _ _ => none
  | .exitRedecide _ _ => none
  | .teamBarrierComplete _ _ => none
  | .clusterBarrierComplete _ _ _ => none
  | .groupSlotRelease _ => none
  | .scratchpadRelease _ => none
  | .teamPlacement _ _ _ => none
  | .timeSliceExpiry _ => none
  | .checkpointImageWrite _ => none
  | .savedResponseRecord _ => none
  | .fileMoveStart _ => none
  | .groupMoveOutComplete _ => none
  | .groupMoveInComplete _ => none
  | .reggrowGrant _ => none
  | .regpoolRefusal _ => none
  | .remoteRequestArrival _ => none
  | .remoteAnswer _ _ => none
  | .fenceMarkerArrival _ _ _ => none
  | .messageExpiry _ => none
  | .ackTimeout _ => none
  | .hseqGapTimeout _ _ => none
  | .hostAtomicopCompletion _ _ => none
  | .releaseReadCompletion _ _ => none
  | .l1Eviction _ _ => none
  | .l2WriteBack _ => none
  | .transferOpDrained _ _ => none
  | .transferOpLanded _ => none
  | .transferOpFailed _ _ => none
  | .emptyBatchComplete _ _ => none
  | .cpqComplete _ => none
  | .twinWritePerformed _ => none
  | .publishPerformed _ => none
  | .landingPacketArrival _ => none
  | .landingTagCheck _ _ => none
  | .zoneNumberCooldownEnd _ _ => none
  | .hoistArrival _ => none
  | .sectionStart _ _ => none
  | .watchdogExpiry _ => none
  | .hoistResponseArrival _ _ => none
  | .linkDown _ => none
  | .ucieLinkFailure _ _ => none
  | .pciePortDown _ => none
  | .pageFaultService _ => none
  | .migrationDecision _ _ => none
  | .pageFaultResolved _ _ => none
  | .uncorrectableError _ _ => none
  | .scrub _ => none
  | .sensorSample _ => none
  | .wearUpdate _ => none
  | .pcSample _ _ _ => none
  | .traceSync _ => none
  | .traceLossRecovery _ => none
  | .launch _ => none
  | .launchWaitResume _ => none
  | .signalWrite _ => none
  | .signalAdd _ => none
  | .waitGe _ => none
  | .waitEq _ => none
  | .waitSatisfied _ => none
  | .queueCall _ => none
  | .queueReturn _ => none
  | .queueJoin _ => none
  | .queueFence _ => none
  | .queueFenceDone _ => none
  | .prio _ => none
  | .region _ _ _ => none
  | .revoke _ => none
  | .destroy _ => none
  | .destroySave _ => none
  | .lookaheadRead _ => none
  | .serviceAnswer => none
  | .dispositionResume => none
  | .dispositionEnd => none
  | .coreDumpRequest => none
  | .haltGroup => none
  | .haltKernel => none
  | .resume => none
  | .step => none
  | .stateWrite => none
  | .stateReadBack => none
  | .mastClaim => none
  | .mastRelease => none
  | .attestationRequest => none
  | .genericRegisterWrite _ _ => none
  | .bar0BadAccess _ _ _ => none
  | .qctlWrite _ _ => none
  | .qtailWrite _ _ => none
  | .qstatWrite _ _ => none
  | .qspbufWrite _ _ _ => none
  | .mbin3Write _ _ => none
  | .fwinEnable _ _ => none
  | .fwinDisable _ _ => none
  | .fwinDisableComplete _ => none
  | .mastringWrite _ _ _ => none
  | .mastclrClearLock _ _ _ => none
  | .mastclrClearAll _ _ _ => none
  | .rlogctlWrite _ => none
  | .ptrootWrite _ => none
  | .skctlClr _ _ => none
  | .trctlWrite _ _ => none
  | .pwrctlWrite _ _ => none
  | .bootgoWrite _ => none
  | .firmwareReady _ => none
  | .hostBar2Read _ _ => none
  | .hostBar2Write _ _ => none
  | .packageReset => none
  | .hbmTrainingComplete => none
  | .correctedError _ _ => none
  | .reggrowSpillLoadComplete _ => none
  | .residencyRequestService => none
  | .fenceMarkerAckArrival _ _ => none
  | .hoistAcknowledgmentArrival _ => none
  | .linkUp _ => none
  | .pciePortUp _ => none
  | .l2Eviction _ => none

end Sys2Proof
end

