-- ==== Sys2Proof/Machine/State.lean ====
section
/-! DEFINITION. The state of the machine: one package with the memory it reaches (R1, R3, R13). Every
field is plain data. A `Tab` holds a numbered family of like things; an entry that is not listed has
the value that the family's reader gives, which is its reset value. -/

namespace Sys2Proof.Machine

open Sys2Proof

/-- A 32-bit register word with its poison mark (R424). -/
structure PWord where
  val : Word := 0
  poison : Bool := false
  deriving DecidableEq, Repr

/-- A 64-bit register with its poison mark (R424). -/
structure PDword where
  val : Dword := 0
  poison : Bool := false
  deriving DecidableEq, Repr

/-- The condition bits Z, N, C, V of a slot (R99). -/
structure Cond where
  z : Bool := false
  n : Bool := false
  c : Bool := false
  v : Bool := false
  deriving DecidableEq, Repr

/-- What a WAITING slot waits for: the waits of R343, with what each waits on. -/
inductive Wait
  | shipW
  | waitk (tok : Nat) (lanes : Word)
  | cpwaitSrc (n : Nat)
  | cpwaitVis (n : Nat)
  | lzwait (desc : Dword) (slot : Nat)
  | bar (b : Nat)
  | cbar (b : Nat)
  | reggrow (n : Nat) (granted : Option Nat)
  | yieldc (batch : Nat) (target : Addr)
  | trap
  deriving DecidableEq, Repr

/-- The state of a PC slot (R112). -/
inductive SlotState
  | free
  | live
  | parked (w : Addr)
  | exitwait
  | waiting (w : Wait)
  deriving DecidableEq, Repr

/-- A clause that a slot has fetched whole and started (R20, R22), and the place of its next word. -/
structure Clause where
  hdr : Addr
  header : Word
  words : List Word
  idx : Nat
  deriving DecidableEq, Repr

/-- One PC slot (R112, R35, R99). `clause` is the clause it runs, none before the next clause starts;
`left` is the header of the clause it fell out of (R21), and `seen` the `s63` and the state of the other slot that its
repeated decision has met last (R120). -/
structure Slot where
  state : SlotState := .free
  pc : Addr := 0
  mask : Word := 0
  gm : Word := 0x04200000
  gmPoison : Bool := false
  cc : Cond := {}
  own : Nat := 0
  clause : Option Clause := none
  left : Option Addr := none
  seen : Option (PDword × SlotState) := none
  deriving DecidableEq, Repr

/-- A translation register (R141). `held` is the model's: the view still counts as a hold (R143, R144). -/
structure XReg where
  valid : Bool := false
  wr : Bool := false
  rd : Bool := false
  remote : Bool := false
  rc : Bool := false
  base : BitVec 57 := 0
  psize : BitVec 2 := 0
  pa : BitVec 52 := 0
  node : BitVec 19 := 0
  limit : BitVec 33 := 0
  key : Word := 0
  poison : Bool := false
  held : Bool := false
  deriving DecidableEq, Repr

/-- One register word that an outstanding operation will write (R25, R27): a uniform register only while
`seq` still numbers its latest write (R104), and the bits of a predicate under a mask (R154). -/
inductive RegWrite
  | v (r lane : Nat) (w : PWord)
  | s (r : Nat) (w : PDword)
  | k (r seq : Nat) (w : PDword)
  | p (r : Nat) (mask bits : Word)
  | x (r : Nat) (w : XReg)
  deriving DecidableEq, Repr

/-- The kinds of outstanding long-latency operations (R25), by the event that completes each. -/
inductive PendKind
  | load
  | empty
  | atomr
  | xlat (d va len : Nat)
  | sread
  | func
  | matrix
  | lzopen (d zone : Nat)
  | lzstat
  | lzres (d : Nat) (desc target : Dword) (key : BitVec 24) (ans : Option Dword)
  deriving DecidableEq, Repr

/-- An outstanding long-latency operation of a group: its completion flag (none for 0xF), the words
that it writes when it completes, and the fabric message that carries its request (R397). -/
structure Pend where
  id : Nat
  kind : PendKind
  flag : Option Nat
  writes : List RegWrite
  msg : Option Nat := none
  deriving DecidableEq, Repr

/-- Where an address unit lies (R145, R223 to R228): local memory by physical address, the scratchpad of
a core, another package's memory, or the descriptor window of a context. -/
inductive Loc
  | phys (a : Nat)
  | desc (ctx off : Nat)
  | spad (core off : Nat)
  | peer (node : BitVec 19) (key : Word) (a : Nat)
  deriving DecidableEq, Repr

/-- A batch record (R179, R181, R263): its scope, whether it is outstanding, its progress and errors, and CLOCK and
the operation of the failure that gave the class (R264). -/
structure Batch where
  scope : Nat := 0
  used : Bool := false
  out : Bool := false
  landed : Bool := true
  drained : Bool := true
  nfail : Nat := 0
  err : BitVec 8 := 0
  errClock : Dword := 0
  errOp : Nat := 0
  undrained : Nat := 0
  unlanded : Nat := 0
  deriving DecidableEq, Repr

/-- The state of a token's lane (R194, R342). `far` says that the lock's home is in another package (R247). -/
inductive TokLane
  | idle
  | pending
  | done (far : Bool)
  | error (cls : BitVec 8)
  deriving DecidableEq, Repr

/-- A fault's particulars (R419): what the record holds besides the place, and the invalid page-table entries that
its accesses met (R382). -/
structure FaultInfo where
  cls : BitVec 8
  lanes : Word := 0
  addr : Dword := 0
  k : Nat := 0
  num : BitVec 16 := 0
  hcode : BitVec 16 := 0
  defer : BitVec 3 := 0
  rseq : Word := 0
  next : Bool := false
  badEntries : List Nat := []
  deriving DecidableEq, Repr

/-- A verdict of a race check (R307, R311): its type, lane, address, the metadata found and the writer's wpc. -/
structure Verdict where
  type : Nat
  lane : Nat
  va : Nat
  mdata : Dword
  wpc : Addr
  deriving DecidableEq, Repr

/-- What a `KLD` has taken at its issue as a writer of its uniform register (R104, R314): the race with an earlier writer, with
the address of its fault; the number of its write, none where that race keeps it from writing; and the writer and
the number before it. -/
structure UniClaim where
  race : Option (Verdict × Dword) := none
  seq : Option Nat := none
  prev : Option (BitVec 24 × BitVec 20) := none
  prevSeq : Nat := 0
  deriving DecidableEq, Repr

/-- One lane's access unit of an instruction that a remote access holds (R147): `reg` is its register in
a span, `rc` says that its page is race-checked, `waits` that its target must answer before it is performed, and `msg` the
fabric message that asks it. -/
structure HoldUnit where
  lane : Nat
  reg : Nat
  va : Nat
  loc : Loc
  bytes : Nat
  data : List Byte
  compare : List Byte
  rc : Bool := false
  waits : Bool
  answer : Option RemAns
  msg : Option Nat := none
  deriving DecidableEq, Repr

/-- The instruction that holds a group while remote units or host atomics are unanswered (R147, R160,
R405): the slot as it stood at its issue, what it is, its active lanes, its units with their answers, how many units of a one-at-a-time atomic
are done, the fallback call that carries the rest with its count, the place of its outstanding entry and
whether that entry still waits for room, the PCI Express status that refused it, the fault that a later
register of a span raises, how many reserved entries of the transaction table it took (R262), whether its race check has been
made before its first message (R309), and what a `KLD` has claimed. -/
structure Hold where
  slot : SlotId
  saved : Slot := {}
  instr : Instr
  lanes : Word
  units : List HoldUnit
  done : Nat := 0
  fall : Option Word := none
  count : Nat := 0
  entry : Nat := 0
  room : Bool := false
  status : BitVec 16 := 0
  after : Option FaultInfo := none
  res : Nat := 0
  raced : Bool := false
  uni : Option UniClaim := none
  deriving DecidableEq, Repr

/-- The record of a fault: eight dwords (R419). -/
structure FaultRec where
  d0 : Dword
  d1 : Dword
  d2 : Dword
  d3 : Dword
  d4 : Dword
  d5 : Dword
  d6 : Dword
  d7 : Dword
  deriving DecidableEq, Repr

/-- What a faulted group waits for (R354, R422): F2's service of a page fault, or a disposition. -/
inductive FaultWait | service | disposition
  deriving DecidableEq, Repr

/-- A group's fault (R419 to R423). -/
structure GroupFault where
  slot : SlotId
  info : FaultInfo
  record : FaultRec
  wait : FaultWait
  restart : Addr
  deriving DecidableEq, Repr

/-- A service call (R130, R406 to R408): its ring sequence, the lanes it serves, where it stands. -/
inductive ServiceState
  | waitingRoom
  | awaiting
  | answered (words : Tab PWord)
  | failed (code : BitVec 16)
  deriving DecidableEq, Repr

/-- A service call of a group (R130, R342), with the index of its first ring entry. -/
structure Service where
  slot : SlotId
  n : BitVec 16
  seq : Nat
  lanes : Word
  first : Word := 0
  state : ServiceState
  deriving DecidableEq, Repr

/-- Which register file holds a group's vector registers (R209 to R211). -/
inductive FileState | slow | movingIn | active | movingOut
  deriving DecidableEq, Repr

/-- A group's race directory entry, vectors and pending list (R305, R306). The entry's generation, clock
and team are the group's own. Lists stand with the most recently used entry first. -/
structure RaceDir where
  live : Bool := false
  wpc : BitVec 57 := 0
  wset : List (Nat × BitVec 64) := []
  vec : Tab (BitVec 26) := []
  foreign : List (BitVec 24 × BitVec 20) := []
  pending : List (BitVec 24 × BitVec 20) := []
  deriving DecidableEq, Repr

/-- A `FENCE.rel.s` that still waits: peers whose markers and ports whose reads are unanswered (R401, R404), the markers' messages
by node and die, and the slot as it stood at the fence. -/
structure RelWait where
  nodes : List (BitVec 19) := []
  msgs : List (BitVec 19 × Nat × Nat) := []
  ports : List Nat := []
  slot : SlotId
  saved : Slot
  deriving DecidableEq, Repr

/-- A section that a mast context runs (R279, R289): its hoist, and whether that is of this package. It is parked
while its group's fault waits for service (R291). -/
structure Section where
  hoist : Nat
  req : HoistReq
  own : Bool
  deriving DecidableEq, Repr

/-- A group: the occupant of a group slot or of a mast context. `tag` tells one occupant from the next. `relNodes`
are the nodes that received writes from it since its last release at `.s`, `relAt` the number from which messages are later than
that (R401), and `letGo` the frames of released
views that transfer operations numbered below a bound still use, as first place, bytes and bound (R143). `shipOut`, `shipFail` and
`shipDone` are the lanes of its `SHIP.W` that are outstanding, have failed and are done, `shipFar` those of the
done ones whose home is in another package; `lockVa` keeps the lock address of lane l of a `SHIP.W` at l and of
token t at 32 (t + 1) + l. `stepOver` says that its step request has had its instruction,
which a held access has still to complete (R443), and `passBp` the words that its slots issue next without matching them again (R440).
`late` are the faults that have completed while the group was stopped (R423). `since` is CLOCK when an active group became evictable, or one outside the fast file ready
(R210). -/
structure Group where
  live : Bool := false
  ended : Bool := false
  tag : Nat := 0
  gk : BitVec 26 := 1
  startGen : BitVec 6 := 0
  abit : Bool := false
  team : Nat := 0
  gindex : Nat := 0
  ctx : Nat := 0
  v : Tab PWord := []
  s : Tab PDword := []
  p : Tab PWord := []
  x : Tab XReg := []
  vgran : Nat := 0
  slotA : Slot := {}
  slotB : Slot := {}
  flags : Tab Nat := []
  ops : List Pend := []
  rng : Tab Word := []
  dsbase : Dword := 0
  dslim : Dword := 0
  spill : Dword := 0
  openBatch : Batch := {}
  lastBatch : Nat := 15
  sealed : Bool := false
  batches : Tab Batch := []
  tokens : Tab TokLane := []
  shipOut : Word := 0
  shipFail : Word := 0
  shipDone : Word := 0
  shipFar : Word := 0
  shipCls : Tab (BitVec 8) := []
  lockVa : Tab Addr := []
  hold : Option Hold := none
  late : List (SlotId × FaultInfo) := []
  rel : Option RelWait := none
  relNodes : List (BitVec 19) := []
  relAt : Nat := 0
  letGo : List (Nat × Nat × Nat) := []
  fault : Option GroupFault := none
  halted : Bool := false
  stepSlot : Option SlotId := none
  stepOver : Bool := false
  passBp : List (SlotId × Addr) := []
  service : Option Service := none
  file : FileState := .slow
  since : Option Dword := none
  race : RaceDir := {}
  sect : Option Section := none
  deriving DecidableEq, Repr

/-- Bytes of a scale range that lie in one page (R172): their first address, how many, their place, and the
bytes themselves where they came from a peer. -/
structure ScaleRun where
  va : Nat
  n : Nat
  loc : Loc
  data : List (Byte × Bool) := []
  deriving DecidableEq, Repr

/-- A matrix operation that waits in the team's queue (R40, R171 to R175): which group sent it and from which word, the number of
its outstanding operation, `gm` at its issue, its operand block, its scales, and the shadows that it uses or
settles. -/
structure MatOp where
  place : Nat
  tag : Nat
  pc : Addr := 0
  instr : Instr
  op : Option Nat := none
  gm : Word := 0
  block : List Dword := []
  scaleA : List ScaleRun := []
  scaleB : List ScaleRun := []
  shadows : List Nat := []
  deriving DecidableEq, Repr

/-- A shadow accumulator's pair (R174): held, its id and accumulator, whether it has been loaded, and whether a
commit or discard that is still to be performed has taken it. -/
structure Shadow where
  held : Bool := false
  id : Nat := 0
  acc : Nat := 0
  loaded : Bool := false
  settling : Bool := false
  deriving DecidableEq, Repr

/-- A team on its core (R198 to R203, R214). `kwr` holds the writers of R314, and `kseq` numbers the write
of each uniform register that was issued last (R104). Uniform registers, tiles (4096 words each), accumulators
and shadow contents (1024 words each) are tables of words by number. `zoneDesc` holds the last descriptor of each
zone number that the team has opened, `revoked` the zones that a save has revoked (R341, R344), and `prio` the
priority that the team was placed with (R347). -/
structure Team where
  live : Bool := false
  ended : Bool := false
  tag : Nat := 0
  ctx : Nat := 0
  index : Nat := 0
  groups : List Nat := []
  endedGroups : List Nat := []
  kgran : Nat := 0
  tiles : Nat := 0
  accs : Nat := 0
  units : Nat := 0
  sbase : Nat := 0
  col : Nat := 0
  row : Nat := 0
  anchor : Nat := 0
  k : Tab PDword := []
  kwr : Tab (Option (BitVec 24 × BitVec 20)) := []
  kseq : Tab Nat := []
  tile : Tab PWord := []
  acc : Tab PWord := []
  busy : Tab Bool := []
  shadows : Tab Shadow := []
  shadow : Tab PWord := []
  mq : List MatOp := []
  zoneDesc : Tab Dword := []
  revoked : Nat := 0
  prio : Nat := 0
  deriving DecidableEq, Repr

/-- A word of a core's L1 or of a mast core's private cache (R230, R281). `mark` is its cluster mark. `owed` is the model's: a release
at `.c` on the anchor itself, which pushes nothing, has covered the dirty word (log entry 51). `fill` says that a fill of its line
brought it (R435). -/
structure L1Word where
  val : Word := 0
  valid : Bool := false
  dirty : Bool := false
  mark : Bool := false
  owed : Bool := false
  poison : Bool := false
  fill : Bool := false
  deriving DecidableEq, Repr

/-- A line that its L2 home slice holds (R228, R230): the valid and dirty bits of its 32 words, whether a fill
has brought some of it, and, for a peer's line, the keys that it is admitted under, the latest first (R147). -/
structure L2Line where
  valid : Word := 0
  dirty : Word := 0
  filled : Bool := false
  keys : List Word := []
  deriving DecidableEq, Repr

/-- A word as its L2 home slice holds it (R230). -/
structure L2Word where
  val : Word := 0
  valid : Bool := false
  dirty : Bool := false
  poison : Bool := false
  deriving DecidableEq, Repr

/-- A write-back to a peer that awaits its answer (R147). -/
structure PeerWrite where
  id : Nat
  node : BitVec 19
  key : Word
  addr : Nat
  data : List Byte
  msg : Option Nat := none
  deriving DecidableEq, Repr

/-- A kernel object's and image's fields that a context runs by (R76, R205, R338). -/
structure Kernel where
  kid : Word := 0
  seed : Word := 0
  gridx : Nat := 1
  gridy : Nat := 1
  gridz : Nat := 1
  cw : Nat := 0
  ch : Nat := 0
  race : Nat := 0
  splice : Nat := 0
  wdog : Word := 100
  args : List Byte := []
  codeva : Addr := 0
  datava : Addr := 0
  codeBytes : Nat := 0
  mapPa : Nat := 0
  entry : Nat := 0
  groups : Nat := 1
  vgran : Nat := 1
  kgran : Nat := 0
  tiles : Nat := 0
  accs : Nat := 0
  units : Nat := 0
  object : Nat := 0
  deriving DecidableEq, Repr

/-- What a context does (R344, R347, R348): it runs, or it stops for a save that pre-empts or destroys it. -/
inductive Phase
  | run
  | stop (destroy : Bool)
  deriving DecidableEq, Repr

/-- A context: the running form of a checkpoint image (R335 to R348). `codeva` is the base of the code that it
runs, `restore` lists the saved teams still to be placed again, as linear index and address of the team record,
`status` is the code that a `DESTROY` gives its completion record, `acq` says that its groups start with an
acquire at `.s` (R258), and `cores` are those that it has had teams on. `kernel2` and `image2` belong to the
consumer of a fused pair, and `origin` is the place of the origin map (R371, R373). -/
structure Ctx where
  live : Bool := false
  kernel : Kernel := {}
  codeva : Addr := 0
  fused : Bool := false
  queue : Nat := 0
  order : Nat := 0
  image : Nat := 0
  cap : Nat := 0
  record : Nat := 0
  value : Dword := 0
  prio : Nat := 0
  next : Nat := 0
  finished : Nat := 0
  restore : List (Nat × Nat) := []
  phase : Phase := .run
  stopped : Bool := false
  status : Nat := 0
  acq : Bool := false
  cores : List Nat := []
  kernel2 : Kernel := {}
  origin : Nat := 0
  image2 : Nat := 0
  record2 : Nat := 0
  value2 : Dword := 0
  deriving DecidableEq, Repr

/-- A group saved in an image, whose hoists or service call are still unanswered (R345): its tag, the address
of its group record, and the image; for a service call its sequence number, its lanes and its first ring entry. For a
group that has ended with its service call unanswered (R355) `image` is 0
and `record` is the place that it had. -/
structure SavedGroup where
  tag : Nat
  key : BitVec 24
  record : Nat
  image : Nat
  seq : Option Word
  lanes : Word := 0
  first : Word := 0
  deriving DecidableEq, Repr

/-- Where a piece of a transfer operation goes: a place of memory, a row of a tile, or an offset in the slots
that it lands in. -/
inductive XDst
  | mem (va : Nat) (loc : Loc)
  | tile (byte : Nat)
  | slot (off : Nat)
  deriving DecidableEq, Repr

/-- A run of bytes that a transfer operation moves: the address and place of its source, its destination, and the bytes
read. `hidden` says that a higher lane of the same instruction writes the same bytes (R176). -/
structure Move where
  va : Nat := 0
  src : Loc
  dst : XDst
  n : Nat
  data : List (Byte × Bool) := []
  hidden : Bool := false
  deriving DecidableEq, Repr

/-- A slot that a `CPL` operation lands in: whether its filter has admitted the packet, and what became of it,
none while that is open, else whether it credited every byte (R263). -/
structure CplTarget where
  node : BitVec 19
  die : Nat
  core : Nat
  zone : Nat
  gen : BitVec 8
  slot : Nat
  admitted : Bool := false
  result : Option Bool := none
  deriving DecidableEq, Repr

/-- The copy instruction of a transfer operation; `CPQ` keeps its operands and `gm`. -/
inductive XKind
  | cpy
  | cpg
  | cpt
  | cpq (dst src : Nat) (ctl : Dword) (gm : Word)
  | cpl
  deriving DecidableEq, Repr

/-- A packet that carries some of an operation's bytes to its peer (R260, R265): the message of its instruction that it travels in, the
node and die of its target, the key and address that its header names, and how many bytes. -/
structure XPart where
  lot : Nat := 0
  node : BitVec 19
  die : Nat
  key : Word
  addr : Nat
  n : Nat
  deriving DecidableEq, Repr

/-- A transfer operation (R259 to R263): its group, the address of its instruction, the team whose tiles it writes, its
batch (none for the open one), its pieces, and how far it is. `shared` says that it took a shared entry of
the transaction table (R262), `twin` that it waits for its twin frame (R164); `source` is the source tile of a `CPQ` as
it was read when the operation started (R266). `inst` numbers the instruction and `parts` are the packets that carry its bytes to a
peer; `asked` and `told` are the messages that read its sources and carry its parts, once they are formed (R260), and `deaf` says that
an answer to it was dropped (R394, R398). -/
structure Xfer where
  id : Nat
  place : Nat
  tag : Nat
  key : BitVec 24
  pc : Addr := 0
  team : Nat
  kind : XKind
  batch : Option Nat := none
  moves : List Move
  targets : List CplTarget := []
  drained : Bool := false
  shared : Bool := false
  twin : Bool := false
  source : Option (Tab PWord) := none
  inst : Nat := 0
  parts : List XPart := []
  asked : Option (List Nat) := none
  told : List (Nat × Nat) := []
  deaf : Bool := false
  deriving DecidableEq, Repr

/-- A landing slot (R191, R268): state code, cause, pending bytes, generation at its reservation, sender,
and the Kolgon port by which the reservation came. `res` numbers the reservation. -/
structure LzSlot where
  state : Nat := 0
  cause : Nat := 0
  pending : Nat := 0
  gen : BitVec 8 := 0
  node : BitVec 19 := 0
  key : BitVec 24 := 0
  link : Option Nat := none
  res : Nat := 0
  deriving DecidableEq, Repr

/-- A zone number of a core (R186, R267): its generation, who holds it, its request and slots. `opening` says
that its `LZOPEN` has not completed; `held` lasts until the wait of R275 has ended, and `cooling` until its
cooldown has, which began at the fabric time `advanced`. -/
structure Zone where
  gen : BitVec 8 := 0
  held : Bool := false
  opening : Bool := false
  open_ : Bool := false
  team : Nat := 0
  tag : BitVec 24 := 0
  cnt : Nat := 0
  sz : Nat := 0
  base : Nat := 0
  slots : Tab LzSlot := []
  cooling : Bool := false
  advanced : Nat := 0
  deriving DecidableEq, Repr

/-- What an arriving landing message has written in one slot (R270): core, zone number, slot, the reservation
that it was admitted under, the runs of bytes as (address in the flat key space, bytes), how many bytes, and the packet of a
peer, as it stands for this slot. -/
structure LandWrite where
  core : Nat
  zone : Nat
  slot : Nat
  res : Nat
  runs : List (Nat × Nat)
  count : Nat
  packet : Option LandPacket := none
  deriving DecidableEq, Repr

/-- A landing message whose tag is not yet checked (R271): an own `CPL` operation n as number 2n, or a
peer's message n as 2n + 1, with its envelope and the packets that have come. -/
structure LandMsg where
  id : Nat
  env : Option Envelope := none
  packets : List LandPacket := []
  writes : List LandWrite := []
  deriving DecidableEq, Repr

/-- Where a hoist is (R289, R402): on its way, waiting at the destination gateway for an earlier one, held
in the network because its home accepts none (R288), in the on-chip queue, in the spill ring, running at
a place, or answered with a class and results. -/
inductive HoistAt
  | sent
  | gateway
  | heldBack
  | queued
  | ring
  | running (p : Nat)
  | answered (cls : BitVec 8) (results : List PWord)
  deriving DecidableEq, Repr

/-- A hoist (R283 to R289). `home` is the number die * 32 + core of a mast core of this package, none for a
lock of a peer; `port` is the Kolgon port by which a peer's hoist came or an own one left; `tag` tells one
occupant of the sending place from the next, `ctx` is its context, and `reg` the register that takes the first
result (R194). `env` is the envelope of a peer's request, `msg` the message of an own one, and `mute` says that a peer's response
has been discarded for its age (R394). -/
structure Hoist where
  id : Nat
  req : HoistReq
  own : Bool
  place : Nat
  tag : Nat
  ctx : Nat
  reg : Nat
  home : Option Nat
  peer : BitVec 19 := 0
  port : Nat := 0
  hseq : Nat := 0
  at_ : HoistAt := .sent
  acked : Bool := false
  env : Option Envelope := none
  msg : Option Nat := none
  mute : Bool := false
  deriving DecidableEq, Repr

/-- A mast core (R278, R287 to R293, R299). The queue and the ring hold hoist numbers in seq order; `stuck` says that a
write of the ring has failed, so that the home accepts no request for it (R288). -/
structure Mast where
  seq : Dword := 0
  queue : List Nat := []
  ring : List Nat := []
  ringCtl : Dword := 0
  ringTail : Nat := 0
  broken : List Nat := []
  allbroken : Bool := false
  stuck : Bool := false
  claimed : Bool := false
  deriving DecidableEq, Repr

/-- A region (R391): `key` is its generation and tag. -/
structure Region where
  base : Nat
  len : Nat
  attr : BitVec 5
  key : Word
  deriving DecidableEq, Repr

/-- A `PUBLISH` that is not yet performed (R163): its group, the slot as it stood at the word, and the address. -/
structure Pub where
  id : Nat
  place : Nat
  occ : Nat
  slot : SlotId
  saved : Slot
  va : Addr
  deriving DecidableEq, Repr

/-- The race log and its counters (R310 to R313). -/
structure RaceLog where
  ctl : Dword := 0
  head : Word := 0
  tail : Word := 0
  stale : Word := 0
  loss : Word := 0
  dropped : Word := 0
  dup : Word := 0
  dedup : List (Dword × Dword) := []
  deriving DecidableEq, Repr

/-- The registers of the host error report (R428) and the sequences of R419 and R427. -/
structure ErrRing where
  ctl : Dword := 0
  head : Word := 0
  tail : Word := 0
  lost : Word := 0
  seq : BitVec 48 := 0
  fseq : Word := 0
  deriving DecidableEq, Repr

/-- The sampler's registers and the group slot that each scheduler sampled last (R432, R433). The schedulers below number
`taken` have sampled in the clock `at_`, where scheduler k of core c of die d is number 1024 d + 4 c + k. -/
structure Sampler where
  ctl : Dword := 0
  head : Word := 0
  tail : Word := 0
  lost : Word := 0
  last : Tab Nat := []
  at_ : Dword := 0
  taken : Nat := 0
  deriving DecidableEq, Repr

/-- An issue of a word (R206, R433): its group, its slot, its address, the word, and CLOCK. -/
structure IssueNote where
  place : Nat
  slot : SlotId
  pc : Addr
  word : Word
  clock : Dword
  deriving DecidableEq, Repr

/-- A sketch unit's registers (R435). -/
structure Sketch where
  ctl : Dword := 0
  tot : Dword := 0
  deriving DecidableEq, Repr

/-- A trace packet of the current clock, which is not yet in its ring (R438): its group, by place and tag, its place in the order of a
clock's packets, and its fields. -/
structure TracePkt where
  place : Nat
  tag : Nat
  pos : Nat
  type : Nat
  slot : Nat
  sub : Nat
  key : Nat
  d1 : Nat
  deriving DecidableEq, Repr

/-- A group whose next packet is preceded by its slots' places (R439), by place and tag, with the packets that give these as they stood
at the start of the clock. -/
structure TraceDue where
  place : Nat
  tag : Nat
  pairs : List TracePkt
  deriving DecidableEq, Repr

/-- A die's trace ring (R437 to R439): its registers, the drops since the last loss packet, CLOCK of the
last packet and of the last sync, the packets of this clock, which the ring takes at its end, and the groups that are to give
their places. -/
structure TraceRing where
  ctl : Dword := 0
  head : Word := 0
  tail : Word := 0
  lost : Word := 0
  drops : Word := 0
  last : Dword := 0
  synced : Option Dword := none
  now : List TracePkt := []
  due : List TraceDue := []
  deriving DecidableEq, Repr

/-- The host request ring's registers and the next call number (R406, R407). -/
structure HostRing where
  ctl : Dword := 0
  head : Word := 0
  tail : Word := 0
  call : Word := 0
  deriving DecidableEq, Repr

/-- A Kolgon port (R396, R400): the fields of LINKSTAT that it keeps, and the tag failures in a row. -/
structure Link where
  up : Bool := false
  lost : Bool := false
  tagfail : BitVec 16 := 0
  expired : BitVec 16 := 0
  fails : Nat := 0
  deriving DecidableEq, Repr

/-- A message of this package, kept until it has left and no answer to it is awaited: its number, its port (16 while there is no
route), the fabric time of its birth, whether it has left and whether it was discarded (R394), and the fabric time of that. -/
structure OutMsg where
  num : Nat
  port : Nat
  born : Nat
  sent : Bool := false
  gone : Bool := false
  left : Nat := 0
  msg : Message
  deriving DecidableEq, Repr

/-- The messages of one source gateway that one of this package's has seen performed (R401): all below `low`, and `later` ones. -/
structure SeqIn where
  low : Nat := 0
  later : List Nat := []
  deriving DecidableEq, Repr

/-- A fence marker that a gateway has still to acknowledge (R401). -/
structure MarkIn where
  env : Envelope
  node : BitVec 19
  gkey : BitVec 24
  deriving DecidableEq, Repr

/-- A command as the look-ahead stage read it (R336): its dwords, or the code of a read error. -/
structure Cmd where
  dw : List Dword
  code : Nat := 0
  deriving DecidableEq, Repr

/-- A command queue (R331, R336, R337, R363, R364): its registers; the look-ahead stage's next ring index,
its call stack as (next address, commands left), the commands read and not yet performed, and whether a
`JOIN` or an error stops it; the issue stage's call stack in the same form; whether its command waits; how many of
its launches have not completed; and whether a wait has made an acquire for its later launches (R258). -/
structure Queue where
  base : Dword := 0
  ctl : Dword := 0
  head : Word := 0
  tail : Word := 0
  stat : Dword := 0
  splice : Dword := 0
  spbuf0 : Dword := 0
  spbuf1 : Dword := 0
  ahead : Word := 0
  aheadCalls : List (Nat × Nat) := []
  cmds : List Cmd := []
  joined : Bool := false
  stuck : Bool := false
  calls : List (Nat × Nat) := []
  waiting : Bool := false
  jobs : Nat := 0
  acq : Bool := false
  deriving DecidableEq, Repr

/-- A firmware function's mailbox (R351 to R353): the messages, the physical sources of the last of them, which were
delivered when CLOCK read `lateAt`, those of hardware and firmware senders that wait for a free slot, each with CLOCK and its source,
the host's latched dwords and MBSTAT's bits. -/
structure Mailbox where
  msgs : List (List Dword) := []
  lateAt : Dword := 0
  late : List Nat := []
  waiting : List (Dword × Nat × List Dword) := []
  in0 : Dword := 0
  in1 : Dword := 0
  in2 : Dword := 0
  hbad : Bool := false
  hovf : Bool := false
  deriving DecidableEq, Repr

/-- A die's power, sensor and wear registers, and its counts of corrected errors (R424, R449 to R451): all of them, those of
its HBM, and what the latter was at each of the last day's recomputations of WEAR, the latest first. -/
structure DiePower where
  ctl : Dword := 0xF3C
  stat : Dword := 0
  sens : Dword := 0
  wear : Dword := 0
  corrected : Nat := 0
  hbm : Nat := 0
  daily : List Nat := []
  deriving DecidableEq, Repr

/-- Which of the registers that the host enables at bring-up have been enabled since reset (R453): the error ring, the host
request ring, the race log and the page-table root. -/
structure Begun where
  err : Bool := false
  hr : Bool := false
  rlog : Bool := false
  root : Bool := false
  deriving DecidableEq, Repr

/-- What F2 has decided about a page (R354, R388): to refuse it, to map it in place, or to copy it to a local frame with
a metadata area, as a migration or as a replica. -/
inductive PageVerdict
  | refuse
  | map
  | copy (moved : Bool) (frame mbase : Nat)
  deriving DecidableEq, Repr

/-- A page that F2 works on (R354, R389): its first address, the verdict, whether the decision is deferred and for
what cause, and whether a pin has been released since. -/
structure PageWork where
  va : Addr
  verdict : Option PageVerdict := none
  cause : Nat := 0
  deferred : Bool := false
  retry : Bool := false
  deriving DecidableEq, Repr

/-- Whose turn the next step is (log entry 1): a slot issues, an event comes about, time passes by a
number of arithmetic clocks, one result word of an outstanding operation lands early (R27), the host
writes its own memory or reads a register of BAR0 (R378), a firmware function takes a message that no event of the
table acts on (R351), the first message queued at a Kolgon port leaves (R396), or fabric time passes by a number of
microseconds (R394). -/
inductive Turn
  | issue (p : Nat) (sl : SlotId)
  | event (i : Instr)
  | time (n : Nat)
  | land (p id n : Nat)
  | host (addr : Nat) (data : List Byte)
  | hostRead (off : Nat)
  | mail (f : Nat)
  | send (port : Nat)
  | fabric (us : Nat)
  deriving DecidableEq, Repr

/-- The machine. `l2line` holds the lines of the L2 by line number, and `l2` the words of host, peer and aperture
lines by word number; a word of local memory stands once, in `mem` (R228, R246; log entry 4), with its
poison as its home gives it in `mpoison`; `dramPoison` keeps the mark that its DRAM holds where a valid copy in the slice has another (R424). `spent` holds the finished
operations of batches that have not drained or landed, whose pages stay pinned (R240). `fwinOff` marks the format windows that are being disabled (R234), and `bootLoaded` says that a firmware
image has passed its checks (R358), whose digest `fwDigest` keeps (R452)
and whose segments `fwsram` holds in the SRAM of the eight firmware cores, which no rule reads (R350, R357). `mailSeq`
numbers the messages of each physical source (R352), `rot` holds the slots of each scheduler that have issued, in that
order, `outbox` the messages to peers in the order of their forming, `seqOut` and `hseqOut` the next sequence numbers of a gateway pair, `seqIn` and `marks`
what has come from one, `gateLast` the last message that writes from a die to a node (R397, R401), `tagGen` and `tagTime` the
generation of a tag and the fabric time of its last advance (R393, R394), `ftime` is the fabric time in microseconds,
`lastIssue` each slot's last issue of its last four clocks, the latest first (R113, R206, R208, R433), and `hostData` keeps what the host's last read through BAR0 or BAR2
returned, each byte with its poison (R378, R403, R425), and `hostMail` the messages that the firmware has sent the host (R352, R452). -/
structure State where
  node : BitVec 19
  tier2 : Bool
  clock : Dword
  stopped : Bool
  emerg : Bool
  cur : Nat
  curSlot : SlotId
  agenda : List Turn
  draws : Nat
  nextId : Nat
  groups : Tab Group
  teams : Tab Team
  ctxs : Tab Ctx
  mem : List Host.Cell
  mpoison : Tab Bool
  dramPoison : Tab Bool
  l1 : Tab (Tab L1Word)
  l2 : Tab PWord
  l2line : Tab L2Line
  peerWrites : List PeerWrite
  holds : Tab Nat
  fwin : Tab (List Dword)
  fwinOff : Tab Bool
  ptroot : Dword
  hints : List Addr
  rlog : RaceLog
  masts : Tab Mast
  hoists : List Hoist
  err : ErrRing
  msi : Tab Nat
  migcfg : Dword
  samp : Sampler
  sk : Tab Sketch
  skc : Tab Word
  trace : Tab TraceRing
  trkid : Word
  bpaddr : Tab Dword
  bpkid : Tab Word
  dbgctl : Bool
  pcieDown : Tab Bool
  regions : List Region
  pubs : List Pub
  resReqs : List Addr
  hr : HostRing
  saved : List SavedGroup
  xfers : List Xfer
  spent : List Xfer
  txq : Tab (List (Nat × SlotId))
  zones : Tab Zone
  landing : List LandMsg
  pools : Tab (List (Nat × SlotId))
  links : Tab Link
  routes : Tab Nat
  delivered : Tab Nat
  queues : Tab Queue
  launches : Nat
  mbox : Tab Mailbox
  mailSeq : Tab Nat
  migfree : BitVec 24
  work : List PageWork
  fwstat : Dword
  power : Tab DiePower
  bootHbm : Bool
  bootLoaded : Bool
  bootReady : Bool
  bootCheck : BitVec 8
  begun : Begun
  svn : Word
  fwDigest : List Byte
  fwsram : List (List Byte)
  hostData : List (Byte × Bool)
  hostMail : List (List Dword)
  rot : Tab (List (Nat × SlotId))
  lastIssue : Tab (List IssueNote)
  ftime : Nat
  outbox : List OutMsg
  seqOut : Tab Nat
  hseqOut : Tab Nat
  seqIn : Tab SeqIn
  marks : List MarkIn
  gateLast : Tab Nat
  tagGen : Tab Nat
  tagTime : Tab Nat
  deriving DecidableEq, Repr

/-- Why the machine stops with no next state. -/
inductive Fault
  /-- Raised by `HOST_BAR2_READ` and `HOST_BAR2_WRITE` of an address that the device memory does not
  have (R403): safe. -/
  | outsideMap (addr : Nat)
  deriving DecidableEq, Repr

/-- Why an instruction has no meaning here. -/
inductive Refusal
  /-- Raised by an arm of `exec` that has no meaning yet: safe. -/
  | notModelled (mnemonic : String)
  deriving DecidableEq, Repr

/-- The machine right after package reset (R8 and the Reset columns; log entries 1 to 6). -/
def State.reset : State where
  node := 0
  tier2 := true
  clock := 0
  stopped := false
  emerg := false
  cur := 0
  curSlot := .A
  agenda := []
  draws := 0
  nextId := 0
  groups := []
  teams := []
  ctxs := []
  mem := []
  mpoison := []
  dramPoison := []
  l1 := []
  l2 := []
  l2line := []
  peerWrites := []
  holds := []
  fwin := []
  fwinOff := []
  ptroot := 0
  hints := []
  rlog := {}
  masts := []
  hoists := []
  err := {}
  msi := []
  migcfg := 0x200190060100000C
  samp := {}
  sk := []
  skc := []
  trace := []
  trkid := 0
  bpaddr := []
  bpkid := []
  dbgctl := false
  pcieDown := []
  regions := []
  pubs := []
  resReqs := []
  hr := {}
  saved := []
  xfers := []
  spent := []
  txq := []
  zones := []
  landing := []
  pools := []
  links := []
  routes := []
  delivered := []
  queues := []
  launches := 0
  mbox := []
  mailSeq := []
  migfree := 0
  work := []
  fwstat := 0
  power := []
  bootHbm := false
  bootLoaded := false
  bootReady := false
  bootCheck := 0
  begun := {}
  svn := 0
  fwDigest := List.replicate 48 0
  fwsram := []
  hostData := []
  hostMail := []
  rot := []
  lastIssue := []
  ftime := 0
  outbox := []
  seqOut := []
  hseqOut := []
  seqIn := []
  marks := []
  gateLast := []
  tagGen := []
  tagTime := []

end Sys2Proof.Machine
end

