-- ==== Sys2Proof/Machine/Tab.lean ====
section
/-! DEFINITION. Tables by number: look an entry up with the value of an unlisted one, and put one in. -/

namespace Sys2Proof

/-- The entry of number `k`, or `d` where none is listed. -/
def Tab.look {α : Type} : Tab α → Nat → α → α
  | [], _, d => d
  | (j, x) :: r, k, d => if j = k then x else Tab.look r k d

/-- The table with `x` as the entry of number `k`. -/
def Tab.put {α : Type} : Tab α → Nat → α → Tab α
  | [], k, x => [(k, x)]
  | (j, y) :: r, k, x =>
    if k < j then (k, x) :: (j, y) :: r
    else if k = j then (k, x) :: r
    else (j, y) :: Tab.put r k x

/-- The table with the entries of `l` put in, in order. -/
def Tab.puts {α : Type} (t : Tab α) (l : List (Nat × α)) : Tab α :=
  l.foldl (fun t e => Tab.put t e.1 e.2) t

/-- The table without an entry of number `k`. -/
def Tab.drop {α : Type} (t : Tab α) (k : Nat) : Tab α := t.filter (fun e => e.1 != k)

/-- The table without the entries whose number satisfies `f`. -/
def Tab.dropIf {α : Type} (t : Tab α) (f : Nat → Bool) : Tab α := t.filter (fun e => !f e.1)

/-- A list in pieces of three. -/
def threes {α : Type} : List α → List (List α)
  | a :: b :: c :: r => [a, b, c] :: threes r
  | [] => []
  | l => [l]

end Sys2Proof
end

