-- ==== Sys2Proof/Machine/Ops.lean ====
section
/-! DEFINITION. The named operations over groups, teams and registers; issuing an instruction and taking
a fault (R15, R419 to R423). -/

namespace Sys2Proof.Machine

open Sys2Proof

/-- What an instruction's meaning answers. -/
abbrev Out := Host.Outcome State Fault Refusal

/-- A computation that may find a fault condition. -/
abbrev Chk (α : Type) := Except FaultInfo α

/-! Places. A place below 2^18 is a group slot: die * 2^15 + core * 2^7 + slot (R13). From 2^18 on it is a
mast context: 2^18 + die * 128 + mast core * 4 + context (R278). -/

/-- The place is a mast context. -/
def isMast (p : Nat) : Bool := 2 ^ 18 ≤ p
/-- The die of a place. -/
def placeDie (p : Nat) : Nat := if isMast p then (p - 2 ^ 18) / 128 else p / 2 ^ 15
/-- The core number of a place within its die. -/
def placeCore (p : Nat) : Nat := if isMast p then (p - 2 ^ 18) / 4 % 32 else p / 2 ^ 7 % 2 ^ 8
/-- The group slot, or the context of a mast core. -/
def placeSlot (p : Nat) : Nat := if isMast p then (p - 2 ^ 18) % 4 else p % 2 ^ 7
/-- The number of a place's core among all cores: die * 256 + core, and from 2048 the mast cores. -/
def coreKey (p : Nat) : Nat := if isMast p then 2048 + (p - 2 ^ 18) / 4 else p / 2 ^ 7
/-- The die of a core number. -/
def coreDie (c : Nat) : Nat := if c < 2048 then c / 256 else (c - 2048) / 32

/-! Groups and slots. -/

/-- The group at a place. -/
def State.group (s : State) (p : Nat) : Group := s.groups.look p {}
/-- The state with a group at a place. -/
def State.setGroup (s : State) (p : Nat) (g : Group) : State := { s with groups := s.groups.put p g }
/-- The issuing group. -/
def State.g (s : State) : Group := s.group s.cur
/-- The state with the issuing group replaced. -/
def State.setG (s : State) (g : Group) : State := s.setGroup s.cur g
/-- The other slot. -/
def otherSlot : SlotId → SlotId
  | .A => .B | .B => .A
/-- A slot of a group. -/
def Group.slot (g : Group) : SlotId → Slot
  | .A => g.slotA | .B => g.slotB
/-- The group with one slot replaced. -/
def Group.setSlot (g : Group) (sl : SlotId) (x : Slot) : Group :=
  match sl with
  | .A => { g with slotA := x }
  | .B => { g with slotB := x }
/-- The issuing slot. -/
def State.sl (s : State) : Slot := s.g.slot s.curSlot
/-- The state with the issuing slot replaced. -/
def State.setSl (s : State) (x : Slot) : State := s.setG (s.g.setSlot s.curSlot x)
/-- A team. -/
def State.team (s : State) (t : Nat) : Team := s.teams.look t {}
/-- The state with a team replaced. -/
def State.setTeam (s : State) (t : Nat) (x : Team) : State := { s with teams := s.teams.put t x }
/-- A context. -/
def State.ctx (s : State) (c : Nat) : Ctx := s.ctxs.look c {}
/-- The state with a context replaced. -/
def State.setCtx (s : State) (c : Nat) (x : Ctx) : State := { s with ctxs := s.ctxs.put c x }
/-- The issuing group's team. -/
def State.tm (s : State) : Team := s.team s.g.team
/-- The state with the issuing group's team replaced. -/
def State.setTm (s : State) (t : Team) : State := s.setTeam s.g.team t

/-! Registers (R33, R34). -/

/-- A word of a vector register. -/
def Group.getV (g : Group) (r l : Nat) : PWord := g.v.look (r * 32 + l) {}
/-- The group with a word of a vector register written. -/
def Group.setV (g : Group) (r l : Nat) (w : PWord) : Group := { g with v := g.v.put (r * 32 + l) w }
/-- The group with words of one vector register written, lane by lane. -/
def Group.setVs (g : Group) (r : Nat) (ws : List (Nat × Word)) : Group :=
  ws.foldl (fun g e => g.setV r e.1 { val := e.2 }) g
/-- A scalar register. -/
def Group.getS (g : Group) (r : Nat) : PDword := g.s.look r {}
/-- The group with a scalar register written. -/
def Group.setS (g : Group) (r : Nat) (w : Dword) : Group := { g with s := g.s.put r { val := w } }
/-- A predicate register: `p0` reads all-true (R33). In a section only bit 0 is there (R279). -/
def Group.getP (g : Group) (n : Nat) : PWord :=
  let r : PWord := if n = 0 then { val := BitVec.allOnes 32 } else g.p.look n {}
  if g.sect.isSome then { r with val := r.val &&& 1 } else r
/-- The group with a predicate register written: a write to `p0` is discarded (R33). -/
def Group.setP (g : Group) (n : Nat) (w : PWord) : Group :=
  if n = 0 then g else { g with p := g.p.put n w }
/-- The group with bits of a predicate written in the lanes of a mask (R90, R105). A whole-register poison
mark of the destination stays, also where the mask has all 32 lanes, of which the spec says nothing (DESIGN CHOICE, log
entry 67). -/
def Group.setPBits (g : Group) (n : Nat) (mask bits : Word) : Group :=
  let o := g.getP n
  g.setP n { o with val := (o.val &&& ~~~mask) ||| (bits &&& mask) }
/-- A translation register. -/
def Group.getX (g : Group) (n : Nat) : XReg := g.x.look n {}
/-- The group with a translation register written. -/
def Group.setX (g : Group) (n : Nat) (x : XReg) : Group := { g with x := g.x.put n x }
/-- A scalar-side register: `s0` to `s63`, then `k0` to `k63` (R33). -/
def State.side (s : State) (f : BitVec 7) : PDword :=
  if f.toNat < 64 then s.g.getS f.toNat else s.tm.k.look (f.toNat - 64) {}

/-- A fault with a class only. -/
def fault (cls : BitVec 8) : FaultInfo := { cls := cls }
/-- `FLT.OPND` with no lane named. -/
def opnd : FaultInfo := fault 0x06
/-- `FLT.POISON` of register `n` of class `c` (R419). -/
def poisonOf (c n : Nat) (lanes : Word := 0) : FaultInfo :=
  { cls := 0x0E, lanes := lanes, addr := BitVec.ofNat 64 (c * 256 + n) }
/-- A condition that must hold, or a fault. -/
def need (c : Bool) (f : FaultInfo) : Chk Unit := if c then .ok () else .error f

/-- A vector register number within the group's allotment (R34). -/
def Group.vOk (g : Group) (r : Nat) : Bool := r < 8 * g.vgran
/-- Vector registers `r` to `r + n - 1` within `v255` and the allotment (R34, R66). -/
def Group.spanOk (g : Group) (r n : Nat) : Bool := r + n ≤ 256 && r + n ≤ 8 * g.vgran
/-- A scalar-side register within its allotment (R34). -/
def State.sideOk (s : State) (f : BitVec 7) : Bool := f.toNat < 64 || f.toNat - 64 < 8 * s.tm.kgran

/-- The value of a scalar-side register, after the checks of R34 and R425. -/
def State.readSide (s : State) (f : BitVec 7) : Chk Dword :=
  if !s.sideOk f then .error opnd
  else
    let r := s.side f
    if r.poison then
      .error (if f.toNat < 64 then poisonOf 1 f.toNat else poisonOf 2 (f.toNat - 64))
    else .ok r.val

/-- The value of a predicate, after the check of R425. -/
def Group.readP (g : Group) (n : Nat) : Chk Word :=
  let r := g.getP n
  if r.poison then .error (poisonOf 3 n) else .ok r.val

/-- A predicate as lanes of a mask use it: with no lane, no result depends on it, so that a poisoned one is not met (R80,
R107). -/
def Group.readPFor (g : Group) (lanes : Word) (n : Nat) : Chk Word := if lanes = 0 then .ok 0 else g.readP n

/-! The mode register (R35). -/

/-- `gm` of a slot, which faults where its word is poisoned (R424). R419 gives that fault no address (log
entry 7). -/
def Slot.mode (x : Slot) : Chk Word :=
  if x.gmPoison then .error { fault 0x0E with addr := Config.gmPoison x.gm } else .ok x.gm
/-- The guard field. -/
def gmGuard (m : Word) : Nat := field m.toNat 31 28
/-- The dtype field. -/
def gmDtype (m : Word) : Nat := field m.toNat 27 23
/-- The stype field. -/
def gmStype (m : Word) : Nat := field m.toNat 22 18
/-- The rnd field. -/
def gmRnd (m : Word) : Nat := field m.toNat 17 15
/-- The sat field. -/
def gmSat (m : Word) : Bool := m.getLsbD 14
/-- The fin field. -/
def gmFin (m : Word) : Bool := m.getLsbD 13
/-- The fout field. -/
def gmFout (m : Word) : Bool := m.getLsbD 12
/-- A value that `gm` may hold (R37). -/
def gmValid (m : Word) : Bool :=
  gmDtype m < 0x18 && gmStype m < 0x18 && gmRnd m < 5 && field m.toNat 11 0 = 0

/-- active(g): the lanes of the slot's mask whose guard bit is set (R10, R37). -/
def Group.active (g : Group) (sl : SlotId) : Chk Word := do
  let x := g.slot sl
  let m ← x.mode
  let p ← g.readP (gmGuard m)
  .ok (x.mask &&& p)

/-! Moving on within a clause (R20 to R22). -/

/-- The slot past the word that it has issued: the next word of its clause, or out of the clause. -/
def Slot.past (x : Slot) : Slot :=
  match x.clause with
  | none => { x with pc := x.pc + 4 }
  | some c =>
    if c.idx + 1 < c.words.length then
      { x with pc := x.pc + 4, clause := some { c with idx := c.idx + 1 } }
    else { x with pc := x.pc + 4, clause := none, left := some c.hdr }
/-- The slot at a target, where its next clause starts (R31). -/
def Slot.goto (x : Slot) (t : Addr) : Slot := { x with pc := t, clause := none, left := none }
/-- The state with the issuing slot past its word. -/
def State.advance (s : State) : State := s.setSl s.sl.past

/-- The flag that the issuing word takes if it is a long-latency operation: setA for the first such word
of the clause and setB for the second, none where the field is 0xF (R19, R25). -/
def Slot.flag (x : Slot) : Option Nat :=
  match x.clause with
  | none => none
  | some c =>
    let k := ((c.words.take c.idx).filter wordIsLong).length
    let f := if k = 0 then field c.header.toNat 15 12 else field c.header.toNat 11 8
    if f = 15 then none else some f

/-- The address of the header of the clause that holds the issuing word. -/
def Slot.header (x : Slot) : Addr :=
  match x.clause with
  | none => x.pc
  | some c => c.hdr

end Sys2Proof.Machine
end

