-- ==== Sys2Proof/Machine/Memory.lean ====
section
/-! DEFINITION. Memory: the bytes of the physical map and of the scratchpads in one canonical list, poison,
the caches with words of their own, and the accesses of R232. -/

namespace Sys2Proof.Machine

open Sys2Proof

/-- What a byte that no entry lists reads as: 0 (R226 for scratchpads; log entry 3 for memory after power-on). -/
def memDefault : Byte := 0

/-- The byte at an address. -/
def memRead : List Host.Cell → Nat → Byte
  | [], _ => memDefault
  | (j, b) :: r, a => if j = a then b else memRead r a

/-- The memory with a byte written; an entry that would read as unlisted is left out. -/
def memWrite : List Host.Cell → Nat → Byte → List Host.Cell
  | [], a, b => if b = memDefault then [] else [(a, b)]
  | (j, c) :: r, a, b =>
    if a < j then (if b = memDefault then (j, c) :: r else (a, b) :: (j, c) :: r)
    else if a = j then (if b = memDefault then r else (a, b) :: r)
    else (j, c) :: memWrite r a b

/-- The canonical form: addresses strictly rising, and no entry that reads as an unlisted address. -/
def Memory.wf : List Host.Cell → Bool
  | [] => true
  | [(_, b)] => b != memDefault
  | (i, b) :: (j, c) :: r => i < j && b != memDefault && Memory.wf ((j, c) :: r)

/-- The memory with bytes written from an address upward. -/
def memWrites : List Host.Cell → Nat → List Byte → List Host.Cell
  | m, _, [] => m
  | m, a, b :: r => memWrites (memWrite m a b) (a + 1) r

/-- The number of a place in the flat key space: physical addresses, then scratchpads, then peers. -/
def Loc.key : Loc → Nat
  | .phys a => a
  | .spad c f => 2 ^ 52 + c * 2 ^ 20 + f
  | .peer n _ a => 2 ^ 53 + n.toNat * 2 ^ 52 + a
  | .desc c f => 2 ^ 80 + c * 2 ^ 16 + f

/-- Host memory (R227). -/
def isHostPa (a : Nat) : Bool := 2 ^ 51 ≤ a && a < 2 ^ 52
/-- The format aperture (R227). -/
def isAperture (a : Nat) : Bool := 2 ^ 50 ≤ a && a < 2 ^ 51
/-- HBM, or the second tier where it is present (R227). -/
def isDeviceMem (tier2 : Bool) (a : Nat) : Bool :=
  a < 0xC000000000 || (tier2 && 0x10000000000 ≤ a && a < 0x30000000000)
/-- A place whose L2 copies are words of their own: host or peer memory. -/
def isFar (k : Nat) : Bool := isHostPa k || 2 ^ 53 ≤ k

/-- `n` bytes of the flat key space. -/
def State.bytes (s : State) (a n : Nat) : List Byte := (List.range n).map (fun i => memRead s.mem (a + i))
/-- The state with bytes of the flat key space written. -/
def State.putBytes (s : State) (a : Nat) (bs : List Byte) : State := { s with mem := memWrites s.mem a bs }
/-- The poison mark of a memory word. -/
def State.wordPoison (s : State) (w : Nat) : Bool := s.mpoison.look w false
/-- The state with a memory word's poison mark set or cleared. -/
def State.setWordPoison (s : State) (w : Nat) (b : Bool) : State :=
  if s.mpoison.look w false = b then s else { s with mpoison := s.mpoison.put w b }

/-- Bytes written at a place that is no L1: a whole word clears the word's poison, part of one leaves it
(R425). -/
def State.putClean (s : State) (a : Nat) (bs : List Byte) : State :=
  let t := s.putBytes a bs
  let first := (a + 3) / 4
  let last := (a + bs.length) / 4
  (List.range (last - first)).foldl (fun t i => t.setWordPoison (first + i) false) t

/-- A memory word with its poison. -/
def State.memWord (s : State) (w : Nat) : PWord :=
  { val := BitVec.ofNat 32 (ofBytes (s.bytes (4 * w) 4)), poison := s.wordPoison w }
/-- The state with a memory word and its poison written. -/
def State.setMemWord (s : State) (w : Nat) (v : PWord) : State :=
  (s.putBytes (4 * w) (bytesOf 4 v.val.toNat)).setWordPoison w v.poison

/-- The word with some of its bytes replaced. -/
def mergeBytes (w : Word) (off : Nat) (bs : List Byte) : Word :=
  let old := bytesOf 4 w.toNat
  BitVec.ofNat 32 (ofBytes ((List.range 4).map (fun i =>
    if off ≤ i && i < off + bs.length then bs.getD (i - off) 0 else old.getD i 0)))

/-! Format windows (R233 to R237). -/

/-- A format window's fields. -/
def winOk (w : List Dword) : Bool := (w.getD 0 0).getLsbD 63

/-- The top `k` bits of element `i`: the first `k` planes, most significant first (R48, R49). -/
def planeElem (s : State) (src k n i : Nat) : Nat :=
  (List.range k).foldl (fun acc j =>
    acc * 2 + oneIf (bitOf (memRead s.mem (src + j * (n / 8) + i / 8)).toNat (i % 8))) 0

/-- Bits of a decoded element's place: 2, 4 or 8 (R50). -/
def planePlace (k : Nat) : Nat := if k = 2 then 2 else if k ≤ 4 then 4 else 8

/-- A byte of the view of an enabled window at an offset (R235, R236). -/
def viewByte (s : State) (w : List Dword) (off : Nat) : Byte :=
  let d0 := (w.getD 0 0).toNat
  let kind := field d0 57 56; let D := field d0 55 52; let k := field d0 51 48; let n := field d0 39 0
  let src := (w.getD 2 0).toNat; let sc := (w.getD 3 0).toNat
  let pl := planePlace k
  let z := n * pl / 8
  let data := roundUp z 128
  if off < 128 then
    let hdr := D + k * 2 ^ 8 + (D - k) * 2 ^ 16 + (0x0F + k) * 2 ^ 24
    let b := if off < 8 then hdr / 256 ^ off
      else if off < 16 then n / 256 ^ (off - 8)
      else if off < 24 then 128 / 256 ^ (off - 16)
      else if off < 32 then (if kind = 1 then 128 + data else 0) / 256 ^ (off - 24)
      else 0
    BitVec.ofNat 8 b
  else if off < 128 + z then
    let per := 8 / pl
    let base := (off - 128) * per
    BitVec.ofNat 8 ((List.range per).foldl (fun acc i =>
      acc + wrapTo pl (signedOf k (planeElem s src k n (base + i))) * 2 ^ (pl * i)) 0)
  else if kind = 1 && 128 + data ≤ off && off < 128 + data + n / 32 then
    memRead s.mem (sc + (off - 128 - data))
  else 0

/-- The bytes that a window's view spans (R235). -/
def viewBytes (w : List Dword) : Nat :=
  let d0 := (w.getD 0 0).toNat
  let k := field d0 51 48; let n := field d0 39 0
  let z := n * planePlace k / 8
  128 + roundUp z 128 + (if field d0 57 56 = 1 then 128 * ((n + 4095) / 4096) else 0)

/-- The enabled window whose view holds an address, with the offset in the view (R235). -/
def State.viewAt (s : State) (a : Nat) : Option (List Dword × Nat) :=
  (s.fwin.find? (fun e => winOk e.2 && (e.2.getD 1 0).toNat ≤ a &&
    a < (e.2.getD 1 0).toNat + viewBytes e.2)).map (fun e => (e.2, a - (e.2.getD 1 0).toNat))

/-- A word of a view as its source stands (R235, R236), without poison whatever the words are that it is decoded from (DESIGN CHOICE, log
entry 39). -/
def State.viewWord (s : State) (w : Nat) : PWord :=
  match s.viewAt (4 * w) with
  | some (win, off) =>
    { val := BitVec.ofNat 32 (ofBytes ((List.range 4).map (fun i => viewByte s win (off + i)))) }
  | none => {}

/-! The L2 (R2, R228, R230, R231). -/

/-- The home die of a line (R228). -/
def homeDie (a : Nat) : Nat := (field a 9 7 ^^^ field a 17 15) ^^^ field a 25 23
/-- The home slice of a line within its die (R228). -/
def homeSlice (a : Nat) : Nat := field a 13 10 ^^^ field a 21 18
/-- The HBM stack of a line of the HBM (R228). -/
def hbmStack (a : Nat) : Nat := 2 * homeDie a + (field a 14 14 ^^^ field a 26 26)
/-- The lines that a slice holds: 32 MiB of 128 bytes (R228). -/
def sliceLines : Nat := 2 ^ 18
/-- A physical address that the L2 home slice of a line stands before: local memory or a format view (R227, R228). -/
def isHomed (a : Nat) : Bool := a < 2 ^ 51

/-- A word of a line in its L2 home slice. -/
def State.l2Word (s : State) (w : Nat) : L2Word :=
  let l := s.l2line.look (w / 32) {}
  let v := s.l2.look w {}
  { val := v.val, valid := l.valid.getLsbD (w % 32), dirty := l.dirty.getLsbD (w % 32), poison := v.poison }
/-- A bit of a word's mask set or cleared. -/
def setBit (m : Word) (i : Nat) (b : Bool) : Word :=
  if b then m ||| BitVec.twoPow 32 i else m &&& ~~~(BitVec.twoPow 32 i)
/-- The valid and dirty bits of a word of a line in its L2 home slice set. -/
def State.markL2 (s : State) (w : Nat) (valid dirty : Bool) : State :=
  let l := s.l2line.look (w / 32) {}
  let l := { l with valid := setBit l.valid (w % 32) valid, dirty := setBit l.dirty (w % 32) dirty }
  { s with l2line := s.l2line.put (w / 32) l }
/-- The state with a word of a host, peer or aperture line in its L2 home slice replaced. -/
def State.setL2 (s : State) (w : Nat) (x : L2Word) : State :=
  ({ s with l2 := s.l2.put w { val := x.val, poison := x.poison } } : State).markL2 w x.valid x.dirty

/-- A word at its L2 home or owning SRAM: memory, or in the aperture the decoded copy that the slice holds, else the
view as its source stands (R235, R237). -/
def State.homeWord (s : State) (w : Nat) : PWord :=
  if isAperture (4 * w) then
    let x := s.l2Word w
    if x.valid then { val := x.val, poison := x.poison } else s.viewWord w
  else s.memWord w

/-- The merging fill of a word's sector in its L2 home slice (R231): of local memory, of a format window's view, or of
host memory. -/
def State.fillL2 (s : State) (w : Nat) : State :=
  (List.range 8).foldl (fun t i =>
    let x := w / 8 * 8 + i
    if (t.l2Word x).valid then t
    else if isHostPa (4 * x) then
      let h := t.memWord x
      t.setL2 x { val := h.val, valid := true, poison := h.poison }
    else if isAperture (4 * x) then
      let h := t.viewWord x
      t.setL2 x { val := h.val, valid := true, poison := h.poison }
    else t.markL2 x true false) s

/-- The numbers of the dirty words of the L2 lines that satisfy `f`. -/
def State.l2Dirty (s : State) (f : Nat → Bool) : List Nat :=
  s.l2line.flatMap fun e =>
    if f e.1 && e.2.dirty != 0 then ((List.range 32).filter fun i => e.2.dirty.getLsbD i).map (e.1 * 32 + ·) else []

/-- Valid copies in the slices are no longer before the words of local memory of which `f` holds: a clean word is from then on as its DRAM
gives it, and a dirty one's DRAM takes its copy (R424). -/
def State.bareDram (s : State) (f : Nat → Bool) : State :=
  let t := s.dramPoison.foldl (fun t e => if f e.1 && !(s.l2Word e.1).dirty then t.setWordPoison e.1 e.2 else t) s
  { t with dramPoison := s.dramPoison.dropIf f }

/-- The lines that satisfy `f` leave the L2. -/
def State.dropL2 (s : State) (f : Nat → Bool) : State :=
  let s := s.bareDram fun w => f (w / 32)
  { s with l2 := s.l2.dropIf (fun w => f (w / 32)), l2line := s.l2line.dropIf f }

/-- The clean words of the L2 lines that satisfy `f` become not valid; a line that keeps no valid word leaves, and its
admissions with it (R147, R232). -/
def State.cleanL2 (s : State) (f : Nat → Bool) : State :=
  let s := s.bareDram fun w => f (w / 32)
  let clean := s.l2line.map fun e => if f e.1 then (e.1, { e.2 with valid := e.2.valid &&& e.2.dirty }) else e
  { s with l2line := clean.filter fun e => !(f e.1 && e.2.valid = 0) }

/-! The L1 (R230, R231). -/

/-- A word of a core's L1. -/
def State.l1Word (s : State) (c w : Nat) : L1Word := (s.l1.look c []).look w {}
/-- The state with a word of a core's L1 replaced. -/
def State.setL1 (s : State) (c w : Nat) (x : L1Word) : State :=
  { s with l1 := s.l1.put c ((s.l1.look c []).put w x) }

/-- The merging fill of the sector of a word of a core's L1, from the L2 home slice, which fills its own first (R231). -/
def State.fillL1 (s : State) (c w : Nat) : State :=
  (List.range 8).foldl (fun t i =>
    let x := w / 8 * 8 + i
    if (t.l1Word c x).valid then t
    else
      let h := t.homeWord x
      t.setL1 c x { val := h.val, valid := true, poison := h.poison, fill := true }) (s.fillL2 w)

/-- Where a unit is performed (R159): a core's L1, a place with memory of its own (the L2 home of local
memory, an SRAM, the host), the L2 copy of a host or peer line, or the peer. -/
inductive Point
  | l1 (core : Nat)
  | home
  | slice
  | peer
  deriving DecidableEq, Repr

/-- The point of coherence of a scope and a place, for a core and its cluster's anchor core (R159). -/
def pointOf (core anchor : Nat) (sc : Scope) : Loc → Point
  | .spad _ _ => .home
  | .desc _ _ => .home
  | .phys a =>
    if isHostPa a then (if sc = .s then .home else .slice)
    else
      match sc with
      | .g | .t => .l1 core
      | .c => .l1 anchor
      | .d | .s => .home
  | .peer _ _ _ => if sc = .s then .peer else .slice

/-- The slice admits a far line under a key as well: the latest stands first (R147; log entry 53). -/
def State.admitLine (s : State) (key : Word) (line : Nat) : State :=
  let l := s.l2line.look line {}
  { s with l2line := s.l2line.put line { l with keys := key :: l.keys.filter (· != key) } }

/-- An access below `.s` to a host word is performed at the slice, which holds its line admitted from then on, under the key 0
(R147). -/
def State.admitHost (s : State) (w : Nat) : State :=
  if isHostPa (4 * w) && !(s.l2line.look (w / 32) {}).keys.contains 0 then s.admitLine 0 (w / 32) else s

/-- A write of a word at its L2 home, which makes the copies in mast cores' private caches not valid, but for
the cache of core `c` that it comes from (R281). -/
def State.homeWrite (s : State) (c w : Nat) (v : PWord) : State :=
  let s := s.setMemWord w v
  let s := if isHomed (4 * w) then s.markL2 w true true else s
  { s with l1 := s.l1.map (fun e => if 2048 ≤ e.1 && e.1 != c then (e.1, e.2.drop w) else e) }

/-- The anchor cores of the teams on a core (R3, R159). -/
def State.anchorsOn (s : State) (c : Nat) : List Nat :=
  (s.teams.filter fun e => e.2.live && e.1 / 16 = c && (s.ctx e.2.ctx).kernel.cw != 0).map (·.2.anchor)

/-- A word of a core's L1 that has been pushed: clean there (R231, R232). -/
def State.pushedL1 (s : State) (c w : Nat) : State :=
  s.setL1 c w { s.l1Word c w with dirty := false, mark := false, owed := false }

/-- The other anchors of a core's teams evict their copies of a word, dirty ones to its home, before the core writes a newer one there:
what the core has sent past its anchor, its cluster reads there at `.c` as well (R243, R250; log entry 51). The first number
bounds how far anchors of anchors are followed. -/
def State.dropStale (s : State) : Nat → Nat → Nat → State
  | 0, _, _ => s
  | d + 1, c, w =>
    (s.anchorsOn c).foldl (fun s n =>
      let x := s.l1Word n w
      if n = c || !x.valid then s
      else
        let s := if x.dirty then ((s.pushedL1 n w).dropStale d n w).homeWrite n w { val := x.val, poison := x.poison } else s
        { s with l1 := s.l1.put n ((s.l1.look n []).drop w) }) s

/-- A word pushed from a core's L1 to a point: it arrives there dirty and becomes clean here (R231, R232).
A word that arrives at an anchor is cluster-marked (R230; log entry 9). -/
def State.pushWord (s : State) (c w : Nat) (point : Point) : State :=
  let x := s.l1Word c w
  if !x.dirty then s
  else
    match point with
    | .l1 n => (s.pushedL1 c w).setL1 n w { x with mark := true }
    | _ => ((s.pushedL1 c w).dropStale 4 c w).homeWrite c w { val := x.val, poison := x.poison }

/-- A dirty L2 copy of a host word pushed to the host (R150). -/
def State.pushHost (s : State) (w : Nat) : State :=
  let x := s.l2Word w
  if !x.dirty then s
  else (s.setL2 w { x with dirty := false }).setMemWord w { val := x.val, poison := x.poison }

/-- What a scope's access does to the issuer's nearer copy of a word before it is performed (R150, R232). -/
def State.settleWord (s : State) (core w : Nat) (sc : Scope) (p : Point) : State :=
  let s := if p = .l1 core then s else s.pushWord core w p
  if sc = .s && isHostPa (4 * w) then s.pushHost w else s

/-- A word read at its point of coherence (R232): the state after fills and pushes, and the word. -/
def State.readWord (s : State) (core anchor w : Nat) (sc : Scope) (loc : Loc) : State × PWord :=
  let p := pointOf core anchor sc loc
  let s := s.settleWord core w sc p
  match p with
  | .l1 c =>
    let s := if (s.l1Word c w).valid then s else s.fillL1 c w
    let x := s.l1Word c w
    (s, { val := x.val, poison := x.poison })
  | .slice =>
    let s := s.admitHost w
    let s := if (s.l2Word w).valid || !isHostPa (4 * w) then s else s.fillL2 w
    let x := s.l2Word w
    (s, { val := x.val, poison := x.poison })
  | _ =>
    let s := if isHomed (4 * w) && !(s.l2Word w).valid then s.fillL2 w else s
    (s, s.homeWord w)

/-- Bytes written within one word where it is performed (R231). A whole word clears its poison (R425). -/
def State.performWrite (s : State) (core w off : Nat) (bs : List Byte) (sc : Scope) (poison : Bool) : Point → State
  | .l1 c =>
    let s := if bs.length = 4 || (s.l1Word c w).valid then s else s.fillL1 c w
    let x := s.l1Word c w
    s.setL1 c w { val := mergeBytes x.val off bs, valid := true, dirty := true,
                  mark := x.mark || sc = .c, owed := x.owed, poison := if bs.length = 4 then poison else x.poison || poison,
                  fill := x.fill }
  | .slice =>
    let s := s.admitHost w
    let s := if bs.length = 4 || (s.l2Word w).valid || !isHostPa (4 * w) then s else s.fillL2 w
    let x := s.l2Word w
    s.setL2 w { val := mergeBytes x.val off bs, valid := true, dirty := true,
                poison := if bs.length = 4 then poison else x.poison || poison }
  | _ =>
    let s := if bs.length = 4 || (s.l2Word w).valid || !isHomed (4 * w) then s else s.fillL2 w
    let x := s.memWord w
    s.homeWrite core w { val := mergeBytes x.val off bs,
                         poison := if bs.length = 4 then poison else x.poison || poison }

/-- A core's valid copy of a word written beyond it takes the bytes and is clean (R231). -/
def State.nearCopy (s : State) (core w off : Nat) (bs : List Byte) (poison : Bool) : State :=
  let x := s.l1Word core w
  if x.valid then
    s.setL1 core w { x with val := mergeBytes x.val off bs, dirty := false, mark := false, owed := false,
                            poison := if bs.length = 4 then poison else x.poison || poison }
  else s

/-- The valid L2 copy of a host or peer word written beyond it takes the bytes and is clean (R147). -/
def State.farCopy (s : State) (w off : Nat) (bs : List Byte) (poison : Bool) : State :=
  let x := s.l2Word w
  if x.valid then
    s.setL2 w { x with val := mergeBytes x.val off bs, dirty := false,
                       poison := if bs.length = 4 then poison else x.poison || poison }
  else s

/-- Bytes written within one word at its point of coherence (R231, R232). -/
def State.writeWord (s : State) (core anchor w off : Nat) (bs : List Byte) (sc : Scope) (loc : Loc)
    (poison : Bool) : State :=
  let p := pointOf core anchor sc loc
  let s := (s.settleWord core w sc p).performWrite core w off bs sc poison p
  let s := if p = .l1 core then s else s.nearCopy core w off bs poison
  if sc = .s && isFar (4 * w) then s.farCopy w off bs poison else s

/-- The parts of an access that fall in each word: word number, offset in it, offset in the access, bytes. -/
def wordParts (a n : Nat) : List (Nat × Nat × Nat × Nat) :=
  ((List.range ((a + n + 3) / 4 - a / 4)).map (fun i =>
    let w := a / 4 + i
    let lo := max a (4 * w)
    let hi := min (a + n) (4 * w + 4)
    (w, lo - 4 * w, lo - a, hi - lo))).filter (fun e => e.2.2.2 != 0)

/-- mem_read(A, B, s) of R232 at a local place, for a core and its anchor: the bytes, and whether a word
read was poisoned, word by word. -/
def State.memReadAt (s : State) (core anchor : Nat) (loc : Loc) (n : Nat) (sc : Scope) :
    State × List (Byte × Bool) :=
  (wordParts loc.key n).foldl (fun (st : State × List (Byte × Bool)) e =>
    let r := st.1.readWord core anchor e.1 sc loc
    let bs := bytesOf 4 r.2.val.toNat
    (r.1, st.2 ++ (List.range e.2.2.2).map (fun i => (bs.getD (e.2.1 + i) 0, r.2.poison)))) (s, [])

/-- mem_write(A, B, m, s) of R232 at a local place. `poison` marks the words that it writes as poisoned. -/
def State.memWriteAt (s : State) (core anchor : Nat) (loc : Loc) (bs : List Byte) (sc : Scope)
    (poison : Bool := false) : State :=
  (wordParts loc.key bs.length).foldl (fun s e =>
    s.writeWord core anchor e.1 e.2.1 ((bs.drop e.2.2.1).take e.2.2.2) sc loc poison) s

/-- A write that the device makes by physical address at `.s` (R332, R428): the place and its poison, and
the L2 copy of a host word. -/
def State.devWrite (s : State) (a : Nat) (bs : List Byte) : State :=
  (wordParts a bs.length).foldl (fun s e =>
    let part := (bs.drop e.2.2.1).take e.2.2.2
    let s := if isHostPa a then s.pushHost e.1
      else if part.length = 4 || (s.l2Word e.1).valid || !isHomed a then s else s.fillL2 e.1
    let x := s.memWord e.1
    let s := s.homeWrite 0 e.1 { val := mergeBytes x.val e.2.1 part,
                                 poison := if part.length = 4 then false else x.poison }
    if isHostPa a then
      let y := s.l2Word e.1
      if y.valid then
        s.setL2 e.1 { y with val := mergeBytes y.val e.2.1 part, dirty := false,
                             poison := if part.length = 4 then false else y.poison }
      else s
    else s) s

/-- A word marked poisoned where the device has written it by physical address. -/
def State.poisonWord (s : State) (w : Nat) : State :=
  let s := s.setWordPoison w true
  let y := s.l2Word w
  if isHostPa (4 * w) && y.valid then s.setL2 w { y with poison := true } else s

/-- The words of bytes that the device has written marked poisoned where a flag of one of their bytes is set (R425). -/
def State.markPoison (s : State) (a : Nat) (marks : List Bool) : State :=
  (wordParts a marks.length).foldl (fun s e =>
    if ((marks.drop e.2.2.1).take e.2.2.2).contains true then s.poisonWord e.1 else s) s

/-- A read that the device makes by physical address at `.s` (R332): the bytes, each with the poison of its word. A dirty L2 copy of
a host word is what the host would receive, so it is read. -/
def State.devReadP (s : State) (a n : Nat) : List (Byte × Bool) :=
  (wordParts a n).flatMap fun e =>
    let y := s.l2Word e.1
    let x := if isHostPa a && y.dirty then { val := y.val, poison := y.poison } else s.homeWord e.1
    (((bytesOf 4 x.val.toNat).drop e.2.1).take e.2.2.2).map fun b => (b, x.poison)

/-- The bytes of such a read, and whether any word is poisoned. -/
def State.devRead (s : State) (a n : Nat) : List Byte × Bool :=
  let r := s.devReadP a n
  (r.map (·.1), r.any (·.2))

/-- A dword that the device reads by physical address. -/
def State.devDword (s : State) (a : Nat) : Dword := BitVec.ofNat 64 (ofBytes (s.devRead a 8).1)
/-- A dword that the device writes by physical address. -/
def State.putDword (s : State) (a : Nat) (v : Dword) : State := s.devWrite a (bytesOf 8 v.toNat)

/-! Releases and acquires (R232, R247). -/

/-- The numbers of the words of a core's L1 that satisfy `f`. -/
def State.l1Words (s : State) (c : Nat) (f : L1Word → Bool) : List Nat :=
  ((s.l1.look c []).filter (fun e => f e.2)).map (·.1)

/-- A dirty word of a host or peer line in the L2 pushed to the host or sent to the peer (R147, R232). -/
def State.pushFarWord (s : State) (w : Nat) : State :=
  let x := s.l2Word w
  if !x.dirty then s
  else if isHostPa (4 * w) then s.pushHost w
  else
    let a := 4 * w - 2 ^ 53
    let pw : PeerWrite := { id := s.nextId, node := BitVec.ofNat 19 (a / 2 ^ 52), key := (s.l2line.look (w / 32) {}).keys.headD 0,
                            addr := a % 2 ^ 52, data := bytesOf 4 x.val.toNat }
    let s := s.setL2 w { x with dirty := false }
    { s with nextId := s.nextId + 1, peerWrites := s.peerWrites ++ [pw] }

/-- The dirty words of host and peer lines in the L2 pushed to the host or sent to the peer (R232). -/
def State.pushFar (s : State) : State :=
  (s.l2Dirty fun l => isFar (128 * l)).foldl (fun s w => s.pushFarWord w) s

/-- A release at `.c` of a group on the anchor core itself: nothing is pushed and nothing marked (R232). The model notes which dirty
words it covers: a later release at `.d` by way of the anchor evicts them as well, which R229 lets a cache do at any time and
without which it would leave them out, against R250 (log entry 51). -/
def State.oweDirty (s : State) (core : Nat) : State :=
  (s.l1Words core (·.dirty)).foldl (fun s w => s.setL1 core w { s.l1Word core w with owed := true }) s

/-- scope_push(g, s) for a core and its cluster's anchor core (R232). At `.d` the anchor's words go first, so
that the core's own latest write of a word is what stands at its home (R243). -/
def State.scopePush (s : State) (core anchor : Nat) (sc : Scope) : State :=
  match sc with
  | .g | .t => s
  | .c =>
    if core = anchor then s.oweDirty core
    else (s.l1Words core (·.dirty)).foldl (fun s w => s.pushWord core w (.l1 anchor)) s
  | .d | .s =>
    let s := (s.l1Words anchor (fun x => x.dirty && (x.mark || x.owed))).foldl (fun s w => s.pushWord anchor w .home) s
    let s := (s.l1Words core (·.dirty)).foldl (fun s w => s.pushWord core w .home) s
    if sc = .s then s.pushFar else s

/-- scope_inval(g, s) for a core (R232). An acquire at `.s` also ends the admissions of peer lines that
keep no valid word (R147). -/
def State.scopeInval (s : State) (core : Nat) (sc : Scope) : State :=
  match sc with
  | .g | .t => s
  | _ =>
    let s := { s with l1 := s.l1.put core ((s.l1.look core []).filter (fun e => e.2.dirty)) }
    if sc = .s then s.cleanL2 fun l => isFar (128 * l) else s

/-! Evictions (R229, R231, R147). -/

/-- The words of a line that a table lists. -/
def lineWords {α : Type} (t : Tab α) (line : Nat) : List Nat := (t.filter fun e => e.1 / 32 = line).map (·.1)

/-- Words of a line leave a core's L1, dirty ones to their L2 home first (R231). -/
def State.evictWords (s : State) (core line : Nat) (mask : Word) : State :=
  let goes := fun (w : Nat) => w / 32 = line && mask.getLsbD (w % 32)
  let s := (((s.l1.look core []).map (·.1)).filter goes).foldl (fun s w => s.pushWord core w .home) s
  { s with l1 := s.l1.put core ((s.l1.look core []).filter fun e => !goes e.1) }

/-- A line leaves a core's L1 (R231). -/
def State.evictL1 (s : State) (core line : Nat) : State := s.evictWords core line (BitVec.allOnes 32)

/-- An L2 line's dirty words written back to the host, to its peer, or to local memory, which holds them already (log entry
4); its admission ends (R147). -/
def State.writeBack (s : State) (line : Nat) : State :=
  let s := (s.l2Dirty fun l => l = line && isFar (128 * line)).foldl (fun s w => s.pushFarWord w) s
  if s.l2line.any (fun e => e.1 = line) then
    let l := s.l2line.look line {}
    { s with l2line := s.l2line.put line { l with dirty := 0, keys := [] },
             dramPoison := s.dramPoison.dropIf fun w => w / 32 = line && l.dirty.getLsbD (w % 32) }
  else s

/-- A line leaves its L2 home slice (R147, R231). -/
def State.evictL2 (s : State) (line : Nat) : State := (s.writeBack line).dropL2 (· = line)

/-- The home slice of a line among the package's 128, by die and slice (R228). -/
def sliceOf (line : Nat) : Nat := homeDie (128 * line) * 16 + homeSlice (128 * line)

/-- One line leaves a slice that holds more than its 32 MiB (R2, R228); which one, the spec leaves open (log entry 57). -/
def State.fitSlice (s : State) (slice : Nat) : State :=
  let ls := (s.l2line.filter fun e => sliceOf e.1 = slice).map (·.1)
  if ls.length ≤ sliceLines then s
  else
    let i := (Config.freeWord s.draws).toNat % ls.length
    ({ s with draws := s.draws + 1 } : State).evictL2 (ls.getD i 0)

/-- The 64 KiB units of a core's array that its resident teams hold as scratchpad (R198, R229). -/
def State.spadUnits (s : State) (core : Nat) : Nat :=
  ((s.teams.filter fun e => e.2.live && e.1 / 16 = core).map (·.2.units)).sum

/-- The lines of a core's L1, 64 KiB for each unit of its array that is no scratchpad (R229), or of a mast core's private cache of 1 MiB (R278). -/
def State.cacheLines (s : State) (core : Nat) : Nat := if core ≥ 2048 then 8192 else 512 * (12 - s.spadUnits core)

/-- One line leaves the L1 or the private cache of a core that holds more than its lines (R229, R278); which one, the spec leaves open
(log entry 57). -/
def State.fitL1 (s : State) (core : Nat) : State :=
  let ls := ((s.l1.look core []).map (·.1 / 32)).eraseDups
  if ls.length ≤ s.cacheLines core then s
  else
    let i := (Config.freeWord s.draws).toNat % ls.length
    ({ s with draws := s.draws + 1 } : State).evictL1 core (ls.getD i 0)

/-- The evictions that the sizes of the caches force on lines which the last step has brought: nothing where they fit. -/
def State.fitCaches (s : State) : State :=
  let full := s.l1.filter fun e => 512 < e.2.length
  let s := full.foldl (fun s e => (List.range e.2.length).foldl (fun s _ => s.fitL1 e.1) s) s
  if s.l2line.length ≤ sliceLines then s
  else (List.range 128).foldl (fun s x => (List.range (s.l2line.length - sliceLines)).foldl (fun s _ => s.fitSlice x) s) s

/-- A team takes units of its core's array from the L1 (R229): the lines that they held leave it. Which lines these are, the
spec leaves open: a free bit for each line (log entry 57). -/
def State.shrinkL1 (s : State) (core : Nat) : State :=
  ((s.l1.look core []).map (·.1 / 32)).eraseDups.foldl (fun s l =>
    let t : State := { s with draws := s.draws + 1 }
    if (Config.freeWord s.draws).getLsbD 0 then t.evictL1 core l else t) s

end Sys2Proof.Machine
end

