-- ==== Sys2Proof/Machine/Flit.lean ====
section
/-! DEFINITION. Fabric messages (R260, R394, R396 to R398): their flits and integrity tag, routes and ports, what this package has
still to send, and what arrives (log entry 64). -/

namespace Sys2Proof

open Machine

/-! Flits (R397, R398). -/

/-- One bit of CRC-64/XZ: the reflected polynomial of ECMA-182 (R398). -/
def crcBit (x : Nat) : Nat := if x % 2 = 1 then (x / 2) ^^^ 0xC96C5795D7870F42 else x / 2
/-- One byte of it. -/
def crcByte (x : Nat) (b : Byte) : Nat := (List.range 8).foldl (fun x _ => crcBit x) (x ^^^ b.toNat)
/-- CRC-64/XZ: all ones to begin with, and inverted at the end (R398). -/
def crc64 (bs : List Byte) : Dword := BitVec.ofNat 64 (bs.foldl crcByte (2 ^ 64 - 1) ^^^ (2 ^ 64 - 1))

/-- The header and the payload of a packet (R397). -/
def Packet.bytes (p : Packet) : List Byte :=
  bytesOf 8 (p.op * 2 ^ 60 + (p.payload.length - 1) * 2 ^ 52 + p.addr) ++ bytesOf 8 (p.key.toNat * 2 ^ 32 + p.gkey.toNat) ++ p.payload

/-- The packets of a message back to back. -/
def Message.body (m : Message) : List Byte := m.packets.flatMap (·.bytes)
/-- How many flits of 32 bytes a message has: the head, the body and the tail (R397). -/
def Message.flits (m : Message) : Nat := (m.body.length + 31) / 32 + 2

/-- The head flit (R397). -/
def Message.head (m : Message) : List Byte :=
  bytesOf 8 (m.kind * 2 ^ 60 + (m.flits - 1) * 2 ^ 56 + m.packets.length * 2 ^ 54 + m.dst.toNat * 2 ^ 35 + m.src.toNat * 2 ^ 16 +
    m.ddie * 2 ^ 13 + m.sdie * 2 ^ 10) ++
  bytesOf 8 (m.seq * 2 ^ 48 + m.hseq * 2 ^ 32 + m.birth * 2 ^ 16) ++ List.replicate 16 0

/-- The head and the body, which the tag covers: the last body flit is padded with zeros (R397, R398). -/
def Message.covered (m : Message) : List Byte := m.head ++ m.body ++ List.replicate ((m.flits - 2) * 32 - m.body.length) 0
/-- The integrity tag (R398). -/
def Message.tag (m : Message) : Dword := crc64 m.covered
/-- A message as it travels: the tail flit holds the tag (R397, R398). -/
def Message.bytes (m : Message) : List Byte := m.covered ++ bytesOf 8 m.tag.toNat ++ List.replicate 24 0

/-- A message as its envelope and what it holds give it. -/
def Envelope.message (e : Envelope) (kind : Nat) (src dst : BitVec 19) (ps : List Packet) : Message :=
  { kind := kind, dst := dst, src := src, ddie := e.ddie, sdie := e.sdie, seq := e.seq, hseq := e.hseq, birth := e.birth, packets := ps }

end Sys2Proof

namespace Sys2Proof.Machine

open Sys2Proof

/-! Ports and routes (R396). -/

/-- A Kolgon port's registers. -/
def State.link (s : State) (n : Nat) : Link := s.links.look n {}
/-- The state with a Kolgon port's registers replaced. -/
def State.setLink (s : State) (n : Nat) (x : Link) : State := { s with links := s.links.put n x }
/-- The sixteen Kolgon ports (R396). -/
def kolgonPorts : List Nat := List.range 16
/-- A 16-bit counter of LINKSTAT raised by one (R396). -/
def sat16 (x : BitVec 16) : BitVec 16 := if x = BitVec.allOnes 16 then x else x + 1

/-- The ports that F4 may route by: those that are up and not declared lost. -/
def State.openPorts (s : State) : List Nat := kolgonPorts.filter fun n => (s.link n).up && !(s.link n).lost

/-- F4's route to a node: kept while its port is up, else a port of F4's choice (R396), which the spec leaves
open (log entry 28). -/
def State.chooseRoute (s : State) (n : BitVec 19) : State :=
  if s.routes.any (fun e => e.1 = n.toNat) then s
  else
    match s.openPorts with
    | [] => s
    | p :: ps =>
      let i := (Config.freeWord s.draws).toNat % (ps.length + 1)
      { s with draws := s.draws + 1, routes := s.routes.put n.toNat ((p :: ps).getD i p) }

/-- The node's route goes by a port. -/
def State.routedBy (s : State) (port : Nat) (n : BitVec 19) : Bool := s.routes.any fun e => e.1 = n.toNat && e.2 = port
/-- The port of the route to a node, 16 where there is none. -/
def State.routeTo (s : State) (n : BitVec 19) : Nat := ((s.routes.find? fun e => e.1 = n.toNat).map (·.2)).getD 16

/-! Sending. -/

/-- A pair of gateways as a number: a node, the die of its gateway, and the die of this package's (R397). -/
def pairOf (node : BitVec 19) (theirs ours : Nat) : Nat := (node.toNat * 8 + theirs) * 8 + ours

/-- The message writes at its target (R401). -/
def writesThere (kind : Nat) : Bool := kind = 0 || kind = 1 || kind = 4

/-- A message formed at the gateway of a die and queued at the port of its route (R396, R397). Its number is the state's next. -/
def State.sendMsg (s : State) (kind : Nat) (dst : BitVec 19) (ddie sdie : Nat) (ps : List Packet) : State :=
  let s := s.chooseRoute dst
  let pair := pairOf dst ddie sdie
  let m : Message := { kind := kind, dst := dst, src := s.node, ddie := ddie, sdie := sdie, seq := s.seqOut.look pair 0,
                       hseq := if kind = 5 then s.hseqOut.look pair 0 else 0, birth := s.ftime % 2 ^ 16, packets := ps }
  { s with nextId := s.nextId + 1, outbox := s.outbox ++ [{ num := s.nextId, port := s.routeTo dst, born := s.ftime, msg := m }],
           seqOut := s.seqOut.put pair ((m.seq + 1) % 2 ^ 16),
           hseqOut := if kind = 5 then s.hseqOut.put pair ((m.hseq + 1) % 2 ^ 16) else s.hseqOut,
           gateLast := if writesThere kind then s.gateLast.put (sdie * 2 ^ 19 + dst.toNat) (s.nextId + 1) else s.gateLast }

/-- The flits queued to send at a port, saturating (R396). -/
def State.qdepth (s : State) (port : Nat) : Nat :=
  min 0xFFFF ((s.outbox.filter fun m => m.port = port && !m.sent && !m.gone).map (·.msg.flits)).sum

/-- A message of this package changed. -/
def State.mapOut (s : State) (num : Nat) (f : OutMsg → OutMsg) : State :=
  { s with outbox := s.outbox.map fun m => if m.num = num then f m else m }

/-- The first message queued at a port leaves it, where its physical link is up (R396). One that had no route joins the queue of the
route that there is now. -/
def State.sendNext (s : State) (port : Nat) : State :=
  match s.outbox.find? fun m => m.port = port && !m.sent && !m.gone with
  | none => s
  | some m =>
    if port = 16 then
      let s := s.chooseRoute m.msg.dst
      s.mapOut m.num fun x => { x with port := s.routeTo m.msg.dst }
    else if (s.link port).up then s.mapOut m.num fun x => { x with sent := true, left := s.ftime }
    else s

/-- A message has left and has not been discarded, so that an answer to it may come. -/
def State.away (s : State) (num : Nat) : Bool := s.outbox.any fun m => m.num = num && m.sent && !m.gone
/-- The same of a message that may not be formed yet. -/
def State.awayOpt (s : State) (num : Option Nat) : Bool := num.any s.away

/-! The packets of one instruction in messages (R260). -/

/-- A packet to a node, with the die of its gateway and what it belongs to. -/
structure Parcel where
  node : BitVec 19
  die : Nat
  kind : Nat
  owner : Nat
  packet : Packet

/-- The packets of one instruction sent, in their order, three to a message and never two nodes in one (R260): the owners with
their messages' numbers. A message goes to the gateway of its first packet's die. -/
def State.sendParcels (s : State) (sdie : Nat) (ps : List Parcel) : State × List (Nat × Nat) :=
  (((ps.map fun p => (p.node, p.kind)).eraseDups).flatMap fun n =>
    threes (ps.filter fun p => p.node = n.1 && p.kind = n.2)).foldl (fun (st : State × List (Nat × Nat)) c =>
      match c with
      | [] => st
      | p :: _ => (st.1.sendMsg p.kind p.node p.die sdie (c.map (·.packet)), st.2 ++ c.map fun p => (p.owner, st.1.nextId))) (s, [])

/-! What arrives (R394, R397, R398, R400, R401). -/

/-- The tag fits the message, and its kind is none of the reserved (R397, R398). -/
def State.tagOk (s : State) (e : Envelope) (kind : Nat) (node : BitVec 19) (ps : List Packet) : Bool :=
  kind < 11 && e.tag = (e.message kind node s.node ps).tag

/-- An envelope that R397 lets a peer send, by a port whose link is up. -/
def State.mayArrive (s : State) (e : Envelope) (node : BitVec 19) : Bool :=
  node != s.node && e.port < 16 && (s.link e.port).up && e.ddie < 8 && e.sdie < 8 && e.seq < 2 ^ 16 && e.hseq < 2 ^ 16 && e.birth < 2 ^ 16

/-- How old a message is, in microseconds of fabric time (R394). -/
def State.ageOf (s : State) (e : Envelope) : Nat := (s.ftime % 2 ^ 16 + 2 ^ 16 - e.birth) % 2 ^ 16

/-- A message discarded for its age is counted at its port (R394). -/
def State.expireAt (s : State) (port : Nat) : State :=
  s.setLink port { s.link port with expired := sat16 (s.link port).expired }

/-- A message of a gateway is performed (R401). -/
def SeqIn.note (x : SeqIn) (seq : Nat) : SeqIn :=
  let l := if (seq + 2 ^ 16 - x.low) % 2 ^ 16 < 2 ^ 15 && !x.later.contains seq then x.later ++ [seq] else x.later
  let low := l.foldl (fun low _ => if l.contains low then (low + 1) % 2 ^ 16 else low) x.low
  { low := low, later := l.filter fun q => (q + 2 ^ 16 - low) % 2 ^ 16 < 2 ^ 15 }

/-- Every message below a number has been performed (R401). -/
def SeqIn.reached (x : SeqIn) (seq : Nat) : Bool := (x.low + 2 ^ 16 - seq) % 2 ^ 16 < 2 ^ 15

/-- The message with an envelope is performed (R401). -/
def State.noteSeq (s : State) (e : Envelope) (node : BitVec 19) : State :=
  let pair := pairOf node e.sdie e.ddie
  { s with seqIn := s.seqIn.put pair ((s.seqIn.look pair {}).note e.seq) }

end Sys2Proof.Machine
end

