-- ==== Sys2Proof/Machine/Observe.lean ====
section
/-! DEFINITION. What the observation units record of a step: the original address and kernel of a code
address (R372), the sketches (R435, R436) and the trace packets (R437 to R439). None changes a value that a
program sees. -/

namespace Sys2Proof.Machine

open Sys2Proof

/-- The part of a fused context that an address belongs to, as its origin map says: the consumer, and the index of
the original word (R371). -/
def State.originEntry (s : State) (c : Ctx) (pc : Addr) : Bool × Nat :=
  let e := ofBytes (s.devRead (c.origin + (pc - c.codeva).toNat / 4 * 4) 4).1
  (bitOf e 31, field e 29 0)

/-- The original address and kernel id of a code address of a context (R371, R372). -/
def State.originOf (s : State) (c : Ctx) (pc : Addr) : Addr × Word :=
  if c.fused && (pc - c.codeva).toNat < c.kernel.codeBytes then
    let e := s.originEntry c pc
    let k := if e.1 then c.kernel2 else c.kernel
    (k.codeva + BitVec.ofNat 57 (4 * e.2), k.kid)
  else (pc, c.kernel.kid)

/-- The constants of the four hash functions (R436). -/
def sketchA : List Nat := [0x9E3779B97F4A7C15, 0xC2B2AE3D27D4EB4F, 0x165667B19E3779F9, 0xD6E8FEB86659FD93]

/-- h_i(x) (R436). -/
def sketchHash (i x : Nat) : Nat := sketchA.getD i 0 * x % 2 ^ 64 / 2 ^ 53

/-- The number of a sketch counter: die, unit, row, column (R431). -/
def sketchCell (die u row col : Nat) : Nat := ((die * 4 + u) * 4 + row) * 2048 + col

/-- A weight added to a saturating 32-bit counter. -/
def satAdd (w : Word) (c : Nat) : Word := if w.toNat + c < 2 ^ 32 then BitVec.ofNat 32 (w.toNat + c) else BitVec.allOnes 32

/-- One sketch unit counts an occurrence (R435, R436). -/
def State.countUnit (s : State) (die u : Nat) (o : Addr × Word) (ev c : Nat) : State :=
  let x := s.sk.look u {}
  let kid := x.ctl.setWidth 32
  if x.ctl.getLsbD 63 && field x.ctl.toNat 55 48 = ev && (kid = 0 || kid = o.2) then
    let key := if x.ctl.getLsbD 61 then o.2.toNat else o.1.toNat
    let cells := (List.range 4).map (fun i => sketchCell die u i (sketchHash i key))
    let skc := cells.foldl (fun t k => t.put k (satAdd (t.look k 0) c)) s.skc
    let sat := cells.any (fun k => (s.skc.look k 0).toNat + c ≥ 2 ^ 32)
    { s with skc := skc, sk := s.sk.put u { ctl := if sat then x.ctl ||| BitVec.twoPow 64 60 else x.ctl,
                                            tot := x.tot + BitVec.ofNat 64 c } }
  else s

/-- An occurrence of weight `c` of an event at a place, for a code address. Sections count for none (R435). -/
def State.count (s : State) (p : Nat) (pc : Addr) (ev c : Nat) : State :=
  if isMast p then s
  else
    let o := s.originOf (s.ctx (s.group p).ctx) pc
    (List.range 4).foldl (fun s u => s.countUnit (placeDie p) u o ev c) s

/-- An occurrence at the issuing slot's word. -/
def State.countHere (s : State) (ev c : Nat) : State := s.count s.cur s.sl.pc ev c

/-! Trace (R437 to R439). -/

/-- A die's trace ring. -/
def State.ring (s : State) (d : Nat) : TraceRing := s.trace.look d {}

/-- The packets that a trace ring holds (R437, R432). -/
def TraceRing.entries (r : TraceRing) : Nat := 2 ^ (6 + field r.ctl.toNat 55 52)
/-- The free places of a trace ring. -/
def TraceRing.room (r : TraceRing) : Nat := r.entries - (r.tail - r.head).toNat

/-- Writes a packet at a trace ring's tail at `.s` (R438). -/
def State.putPacket (s : State) (d : Nat) (d0 d1 : Nat) : State :=
  let r := s.ring d
  let a := field r.ctl.toNat 51 12 * 2 ^ 12 + 16 * (r.tail.toNat % r.entries)
  let s := s.devWrite a (bytesOf 8 d0 ++ bytesOf 8 d1)
  { s with trace := s.trace.put d { r with tail := r.tail + 1, last := s.clock } }

/-- The group key of a place (R13), or the mast form of R283. -/
def placeKey (p : Nat) (g : Group) : BitVec 24 :=
  if isMast p then
    BitVec.ofNat 24 (placeDie p * 2 ^ 21 + placeCore p * 2 ^ 16 + placeSlot p * 2 ^ 14)
  else
    BitVec.ofNat 24 (placeDie p * 2 ^ 21 + placeCore p * 2 ^ 13 + placeSlot p * 2 ^ 6 + field g.gk.toNat 25 20)

/-- The number of a slot in a packet. -/
def slotBit : SlotId → Nat
  | .A => 0 | .B => 1

/-- The scheduler of a group slot (R206). -/
def schedOf (p : Nat) : Nat := coreKey p * 4 + p % 4

/-- The live groups, as places. -/
def State.livePlaces (s : State) : List Nat := (s.groups.filter fun e => e.2.live && !e.2.ended && !isMast e.1).map (·.1)

/-- The clause-start map bit of a code address of a context (R21, R77). -/
def mapBit (s : State) (c : Ctx) (va : Addr) : Bool :=
  let k := c.kernel
  let off := (va - c.codeva).toNat
  let w := off / 4
  va.toNat % 4 = 0 && off < k.codeBytes && bitOf (memRead s.mem (k.mapPa + w / 8)).toNat (w % 8)

/-- The word that a slot of a group issues next, or waits at (R112, R343, R438 type 9): past the header of a clause
that it has not started. -/
def State.nextWord (s : State) (p : Nat) (x : Slot) : Addr :=
  if x.clause.isNone && x.state = .live && mapBit s (s.ctx (s.group p).ctx) x.pc then x.pc + 4 else x.pc

/-- A packet of a group, at its slot's place in the order of a clock: by core, scheduler and slot (R438). -/
def State.pktOf (s : State) (p : Nat) (sl : SlotId) (type sub d1 : Nat) : TracePkt :=
  { place := p, tag := (s.group p).tag, pos := 2 * schedOf p + slotBit sl, type := type, slot := slotBit sl, sub := sub,
    key := (placeKey p (s.group p)).toNat, d1 := d1 }

/-- The type 9 and type 10 packets of a group's non-FREE slots (R438). -/
def State.pairsOf (s : State) (p : Nat) : List TracePkt :=
  [SlotId.A, SlotId.B].flatMap fun sl =>
    let x := (s.group p).slot sl
    if x.state = .free then []
    else [s.pktOf p sl 9 0 (s.nextWord p x).toNat, s.pktOf p sl 10 0 x.mask.toNat]

/-- The groups of a die, with the places of their slots (R439). -/
def State.duesOf (s : State) (d : Nat) : List TraceDue :=
  (s.livePlaces.filter fun p => placeDie p = d).map fun p => { place := p, tag := (s.group p).tag, pairs := s.pairsOf p }

/-- One packet put into a die's ring, or dropped and counted where the ring is full or has not recovered
from a loss: every group then gives its places at its next packet (R438, R439). -/
def State.packetNow (s : State) (d type slot sub key d1 : Nat) : State :=
  let r := s.ring d
  if !r.ctl.getLsbD 63 then s
  else if r.drops ≠ 0 || r.room = 0 then
    { s with trace := s.trace.put d { r with lost := satAdd r.lost 1, drops := satAdd r.drops 1,
                                             due := if r.drops = 0 then s.duesOf d else r.due } }
  else
    let delta := (s.clock - r.last).toNat % 2 ^ 13
    s.putPacket d (type * 2 ^ 60 + slot * 2 ^ 59 + delta * 2 ^ 46 + sub * 2 ^ 43 + key) d1

/-- A packet of a group put into a die's ring. -/
def State.putPkt (s : State) (d : Nat) (k : TracePkt) : State := s.packetNow d k.type k.slot k.sub k.key k.d1

/-- The sync packet of this clock, where it is due: once, with CLOCK mod 4096 = 0 (R438). -/
def State.sync (s : State) (d : Nat) : State :=
  let r := s.ring d
  if r.ctl.getLsbD 63 && s.clock.toNat % 4096 = 0 && r.synced != some s.clock then
    ({ s with trace := s.trace.put d { r with synced := some s.clock } } : State).packetNow d 1 0 0 0 s.clock.toNat
  else s

/-- A die's ring that has dropped packets takes a loss packet and a sync packet once it has room for two (R439). -/
def State.recover (s : State) (d : Nat) : State :=
  let r := s.ring d
  if r.ctl.getLsbD 63 && r.drops ≠ 0 && 2 ≤ r.room then
    let s := (s.putPacket d (8 * 2 ^ 60) r.drops.toNat).putPacket d (1 * 2 ^ 60) s.clock.toNat
    { s with trace := s.trace.put d { s.ring d with drops := 0 } }
  else s

/-- A packet of the clock comes into its ring: the first of a group after a loss brings its slots' places before it (R439). -/
def State.takePkt (s : State) (d : Nat) (k : TracePkt) : State :=
  let r := s.ring d
  match r.due.find? fun e => e.place = k.place && e.tag = k.tag with
  | some e =>
    if r.drops ≠ 0 then s.putPkt d k
    else
      let s := { s with trace := s.trace.put d { r with due := r.due.filter fun x => x.place != k.place } }
      (e.pairs.foldl (fun s q => s.putPkt d q) s).putPkt d k
  | none => s.putPkt d k

/-- A die's ring takes the packets of this clock in their order: the sync first, then by core, scheduler and slot, those of one
slot as they came about (R438). -/
def State.flushRing (s : State) (d : Nat) : State :=
  if !(s.ring d).ctl.getLsbD 63 then s
  else
    let s := (s.sync d).recover d
    let r := s.ring d
    (sortBy (·.pos) r.now).foldl (fun s k => s.takePkt d k) { s with trace := s.trace.put d { r with now := [] } }

/-- A die's ring at the start of a clock: the groups that are to give their places give those of this moment (R439, R447). -/
def State.refreshDue (s : State) (d : Nat) : State :=
  let r := s.ring d
  if r.drops = 0 && r.due.isEmpty then s
  else
    let ds := s.duesOf d
    let ds := if r.drops ≠ 0 then ds else ds.filter fun e => r.due.any fun x => x.place = e.place && x.tag = e.tag
    { s with trace := s.trace.put d { r with due := ds } }

/-- A context runs a kernel id: its own, or that of a part of a fused pair. -/
def Ctx.runs (c : Ctx) (kid : Word) : Bool := c.kernel.kid = kid || (c.fused && c.kernel2.kid = kid)

/-- TRKID names every kernel, or one that the group's context runs: in a fused one, either part (R437; log entry 43). -/
def State.traced (s : State) (p : Nat) : Bool := !isMast p && (s.trkid = 0 || (s.ctx (s.group p).ctx).runs s.trkid)

/-- Packets of a traced group, kept for the end of the clock where its die's ring is enabled (R437, R438). -/
def State.traceAll (s : State) (p : Nat) (ks : List TracePkt) : State :=
  let d := placeDie p
  let r := s.ring d
  if !s.traced p || !r.ctl.getLsbD 63 then s
  else { s with trace := s.trace.put d { r with now := r.now ++ ks } }

/-- A packet of a traced group (R437, R438). -/
def State.traceAt (s : State) (p : Nat) (sl : SlotId) (type sub d1 : Nat) : State := s.traceAll p [s.pktOf p sl type sub d1]

/-- A restored group gives its places, after its start (R438). -/
def State.placePackets (s : State) (p : Nat) : State :=
  s.traceAll p ((s.pairsOf p).map fun k => { k with pos := 2 * schedOf p })

/-- A packet of the issuing slot. -/
def State.traceHere (s : State) (type sub d1 : Nat) : State := s.traceAt s.cur s.curSlot type sub d1

end Sys2Proof.Machine
end

