-- ==== Sys2Proof/Machine/Report.lean ====
section
/-! DEFINITION. Mailboxes (R351, R352), faults, reports and the end of a faulting section: the record of R419, the error ring of
R427 and R428, taking a fault (R15, R420 to R423), killing a section (R291, R292). -/

namespace Sys2Proof.Machine

open Sys2Proof

/-! Mailboxes (R351 to R353). -/

/-- A function's mailbox. -/
def State.mail (s : State) (f : Nat) : Mailbox := s.mbox.look f {}
/-- The state with a mailbox replaced. -/
def State.setMail (s : State) (f : Nat) (m : Mailbox) : State := { s with mbox := s.mbox.put f m }

/-- The physical source number of a core (R351): the functions F0 to F7 are 0 to 7, and the units of die d begin at
8 + 1024 d with its throughput cores and then its mast cores. -/
def coreSource (p : Nat) : Nat := 8 + placeDie p * 1024 + (if isMast p then 256 + placeCore p else placeCore p)
/-- The physical source number of a die's memory controllers, which follow its cores (R351). -/
def memorySource (die : Nat) : Nat := 8 + die * 1024 + 288
/-- That of its copy and landing engines. -/
def engineSource (die : Nat) : Nat := 8 + die * 1024 + 289
/-- That of its yard gateway. -/
def gatewaySource (die : Nat) : Nat := 8 + die * 1024 + 290
/-- That of its front end. -/
def frontSource (die : Nat) : Nat := 8 + die * 1024 + 291
/-- The host's, which is the last (R351). -/
def hostSource : Nat := 8 + 8 * 1024

/-- A message delivered to a mailbox with a free slot: after those of the same clock from sources below its own (R351). -/
def Mailbox.add (m : Mailbox) (now : Dword) (source : Nat) (dw : List Dword) : Mailbox :=
  let late := if m.lateAt = now then m.late else []
  let k := (late.filter (source < ·)).length
  let i := m.msgs.length - k
  let j := late.length - k
  { m with msgs := m.msgs.take i ++ dw :: m.msgs.drop i, lateAt := now, late := late.take j ++ source :: late.drop j }

/-- A hardware unit's or a function's message: it waits where no slot is free (R351). -/
def Mailbox.deliver (m : Mailbox) (now : Dword) (source : Nat) (dw : List Dword) : Mailbox :=
  if m.msgs.length < 64 then m.add now source dw
  else
    let after := fun (e : Dword × Nat × List Dword) => e.1 = now && source < e.2.1
    { m with waiting := m.waiting.filter (!after ·) ++ (now, source, dw) :: m.waiting.filter after }

/-- The first message taken: the first that waits for its slot is delivered (R351). -/
def Mailbox.take (m : Mailbox) (now : Dword) : Mailbox :=
  let rest := m.msgs.drop 1
  let m := { m with msgs := rest, late := m.late.drop (m.late.length - rest.length) }
  match m.waiting with
  | [] => m
  | w :: r => { m with waiting := r }.add now w.2.1 w.2.2

/-- What a message that the model sends is about. -/
inductive Matter | fault | hint | park | saved | restored | ringFailed | error | residency | refusal | answer
  deriving DecidableEq, Repr

/-- The number of a message's matter. -/
def Matter.code : Matter → Nat
  | .fault => 1 | .hint => 2 | .park => 3 | .saved => 4 | .restored => 5 | .ringFailed => 6 | .error => 7 | .residency => 8
  | .refusal => 9 | .answer => 10
/-- The type byte of a message of a matter (R352): never 0, which is invalid (log entry 58). -/
def Matter.type (m : Matter) : Nat := let t := (Config.messageType m.code).toNat; if t = 0 then 1 else t

/-- The header dword of a message from a physical source (R352). -/
def mailHeader (m : Matter) (f source seq : Nat) (tag : Word) : Dword :=
  BitVec.ofNat 64 (m.type * 2 ^ 56 + (if source < 8 then source else 8) * 2 ^ 52 + f * 2 ^ 48 + seq % 2 ^ 16 * 2 ^ 32 + tag.toNat)

/-- A message from a physical source to a function, with one payload dword (R351, R352). Dword 3 names its matter (log
entry 58). -/
def State.post (s : State) (m : Matter) (f source : Nat) (tag : Word) (arg : Dword) : State :=
  let seq := s.mailSeq.look source 0
  let dw := [mailHeader m f source seq tag, arg, 0, BitVec.ofNat 64 m.code]
  ({ s with mailSeq := s.mailSeq.put source (seq + 1) } : State).setMail f ((s.mail f).deliver s.clock source dw)

/-- A message of a function to the host (R352): its type, the function and the tag, with an empty payload. -/
def State.tellHost (s : State) (type source : Nat) (tag : Word) : State :=
  let seq := s.mailSeq.look source 0
  let d0 := BitVec.ofNat 64 (type * 2 ^ 56 + source * 2 ^ 52 + 9 * 2 ^ 48 + seq % 2 ^ 16 * 2 ^ 32 + tag.toNat)
  { s with mailSeq := s.mailSeq.put source (seq + 1), hostMail := s.hostMail ++ [[d0, 0, 0, 0]] }

/-- A message's tag. -/
def msgTag (m : List Dword) : Nat := (m.getD 0 0).toNat % 2 ^ 32
/-- A payload dword of a message. -/
def msgWord (m : List Dword) (i : Nat) : Nat := (m.getD i 0).toNat
/-- A message of the host's (R352). -/
def msgOfHost (m : List Dword) : Bool := field (m.getD 0 0).toNat 55 52 = 9

/-- The first message of a function's mailbox is this package's own, of a matter. -/
def State.told (s : State) (f : Nat) (m : Matter) : Option (List Dword) :=
  match (s.mail f).msgs with
  | x :: _ => if !msgOfHost x && msgWord x 3 = m.code then some x else none
  | [] => none
/-- The first message of a function's mailbox taken. -/
def State.takeMessage (s : State) (f : Nat) : State := s.setMail f ((s.mail f).take s.clock)

/-- The fault message of a group, which waits for a page (R354). -/
def State.postFault (s : State) (p : Nat) (addr : Dword) : State :=
  s.post .fault 2 (coreSource p) ((placeKey p (s.group p)).setWidth 32) addr

/-- F0 forwards the host's answer to a service call to F1 (R355), which acts on it at once in the model (log entry 58). -/
def State.tellAnswer (s : State) (seq code : Nat) : State := s.post .answer 1 0 (BitVec.ofNat 32 seq) (BitVec.ofNat 64 code)

/-! Faults. -/

/-- The restart address of R420: the word after the faulting one where the instruction has completed. -/
def restartOf (x : Slot) (f : FaultInfo) : Addr := if f.next then x.pc + 4 else x.pc

/-- The record of a fault (R419). `final` is 1 when the group awaits a disposition. -/
def faultRecord (s : State) (p : Nat) (sl : SlotId) (f : FaultInfo) (final : Bool) : FaultRec :=
  let g := s.group p
  let x := g.slot sl
  let c := s.ctx g.ctx
  let o := s.originOf c x.pc
  { d0 := BitVec.ofNat 64 (f.cls.toNat * 2 ^ 56 + oneIf (sl = .B) * 2 ^ 55 + oneIf c.fused * 2 ^ 54 +
      oneIf (isMast p) * 2 ^ 53 + oneIf final * 2 ^ 52 + f.k % 2 ^ 9 * 2 ^ 43 + s.node.toNat * 2 ^ 24 +
      (placeKey p g).toNat),
    d1 := o.1.setWidth 64,
    d2 := (restartOf x f).setWidth 64,
    d3 := f.lanes ++ o.2,
    d4 := f.addr,
    d5 := BitVec.ofNat 64 (f.num.toNat * 2 ^ 48 + f.hcode.toNat * 2 ^ 32 + f.defer.toNat * 2 ^ 29),
    d6 := f.rseq ++ s.err.fseq,
    d7 := s.clock }

/-- The dwords of a record. -/
def FaultRec.dwords (r : FaultRec) : List Dword := [r.d0, r.d1, r.d2, r.d3, r.d4, r.d5, r.d6, r.d7]

/-- The bytes of dwords in ascending address order. -/
def bytesOfDwords (l : List Dword) : List Byte := l.flatMap (fun d => bytesOf 8 d.toNat)

/-- An interrupt on an MSI-X vector (R403). -/
def State.interrupt (s : State) (v : Nat) : State := { s with msi := s.msi.put v (s.msi.look v 0 + 1) }

/-- The entries that the error ring holds (R428). -/
def ErrRing.count (e : ErrRing) : Nat := 2 ^ (6 + field e.ctl.toNat 55 52)

/-- An entry that F3 writes to the host error report (R427, R428): its sequence number advances whether it is written or
dropped; kinds 7 and 8 stop the package. -/
def State.entry (s : State) (kind die : Nat) (body : List Dword) : State :=
  let e := s.err
  let prefix0 := BitVec.ofNat 64 (kind * 2 ^ 56 + die * 2 ^ 48 + e.seq.toNat)
  let full := (e.tail - e.head).toNat = e.count
  let s := { s with stopped := s.stopped || kind = 7 || kind = 8, err := { e with seq := e.seq + 1 } }
  if !e.ctl.getLsbD 63 || full then
    { s with err := { s.err with lost := if e.lost = BitVec.allOnes 32 then e.lost else e.lost + 1 } }
  else
    let a := field e.ctl.toNat 51 12 * 2 ^ 12 + 128 * (e.tail.toNat % e.count)
    let ds := prefix0 :: 0 :: body
    let s := s.devWrite a (bytesOfDwords (ds ++ List.replicate (16 - ds.length) 0))
    { s with err := { s.err with tail := e.tail + 1 } }.interrupt 1

/-- The sender of a kind of error on a die, where no core is it (R350, R351): F2 for a deferred fault, F6 for the emergency stop, F7 for
dumps and halts, the memory controllers for latent errors, else the gateway. -/
def errorSource (kind die : Nat) : Nat :=
  match kind with
  | 2 => 2 | 8 => 6 | 9 => 7 | 10 => 7
  | 5 => memorySource die
  | _ => gatewaySource die

/-- An error reported (R356): the unit that has met it sends F3 a message, and the model has F3 write its entry at once, so that the
message says nothing more when F3 takes it (log entry 58). -/
def State.report (s : State) (kind die : Nat) (body : List Dword) (source : Nat := errorSource kind die) : State :=
  (s.post .error 3 source 0 (BitVec.ofNat 64 kind)).entry kind die body

/-- An orphaned completion (R216, R427 kind 4): class, source, batch or token number, and the key it names. That of a service answer comes
from F1 (R355). -/
def State.orphan (s : State) (p : Nat) (key : BitVec 24) (cls : BitVec 8) (source num : Nat) : State :=
  s.report 4 (placeDie p)
    [BitVec.ofNat 64 (cls.toNat * 2 ^ 56 + oneIf (isMast p) * 2 ^ 53 + s.node.toNat * 2 ^ 24 + key.toNat),
     BitVec.ofNat 64 (source * 2 ^ 60 + num)] (if source = 3 then 1 else coreSource p)

/-- F3 logs the invalid page-table entries that a walk of the group at a place has met (R382). -/
def State.logEntries (s : State) (p : Nat) (l : List Nat) : State :=
  l.foldl (fun s pa => s.report 6 (placeDie p) [BitVec.ofNat 64 pa] (coreSource p)) s

/-! Holds of frames by views. -/

/-- The bytes of a page size code (R141). -/
def pageBytes (psize : Nat) : Nat := 2 ^ (16 + (if psize = 0 then 0 else if psize = 1 then 5 else 14))

/-- The frame that a view holds, as a number in the flat key space (R144, R386). -/
def frameKey (own node : BitVec 19) (frame : Nat) : Nat :=
  if node = own then frame else 2 ^ 53 + node.toNat * 2 ^ 52 + frame

/-- The frame held by a view. -/
def viewFrame (own : BitVec 19) (x : XReg) : Nat :=
  frameKey own x.node (x.pa.toNat - x.base.toNat % pageBytes x.psize.toNat)

/-- A pin of the package is released: F2's deferred decisions run again (R389). -/
def State.unpinned (s : State) : State := { s with work := s.work.map (fun w => { w with retry := true }) }

/-- A hold of a frame released (R144). -/
def State.dropHold (s : State) (f : Nat) : State :=
  { s with holds := s.holds.put f (s.holds.look f 0 - 1) }.unpinned

/-- A transfer operation of the group at a place, numbered below `id`, has still to read or write in a frame, or a held access of the group has a
unit in it. -/
def State.frameUsed (s : State) (p f n id : Nat) : Bool :=
  let inside := fun (a : Nat) => f ≤ a && a < f + n
  (s.xfers.any fun x => x.place = p && x.tag = (s.group p).tag && x.id < id && x.moves.any fun m =>
    (!x.drained && inside m.src.key) || (match m.dst with
      | .mem _ l => inside l.key
      | _ => false)) || (s.group p).hold.any fun h => h.units.any fun u => inside u.loc.key

/-- The view of translation register `n` of a group released, if it holds a frame: at once, or when the accesses issued
through it have been performed (R143). The register keeps its other fields. -/
def State.releaseView (s : State) (p n : Nat) : State :=
  let g := s.group p
  let x := g.getX n
  let f := viewFrame s.node x
  let b := pageBytes x.psize.toNat
  if x.valid && x.held then
    let g := g.setX n { x with held := false }
    if s.frameUsed p f b s.nextId then s.setGroup p { g with letGo := g.letGo ++ [(f, b, s.nextId)] }
    else (s.setGroup p g).dropHold f
  else s

/-- The frames of a group's released views that no operation uses any more are let go (R143). -/
def State.settleViews (s : State) (p : Nat) : State :=
  let g := s.group p
  let r := g.letGo.partition fun e => s.frameUsed p e.1 e.2.1 e.2.2
  if r.2.isEmpty then s
  else r.2.foldl (fun s e => s.dropHold e.1) (s.setGroup p { g with letGo := r.1 })

/-- Every view of a group released (R144). -/
def State.releaseViews (s : State) (p : Nat) : State := (List.range 8).foldl (fun s n => s.releaseView p n) s

/-! Hoists and mast cores. -/

/-- A mast core by its number die * 32 + core. -/
def State.mast (s : State) (m : Nat) : Mast := s.masts.look m {}
/-- The state with a mast core replaced. -/
def State.setMast (s : State) (m : Nat) (x : Mast) : State := { s with masts := s.masts.put m x }
/-- The mast core number of a mast place. -/
def mastOf (p : Nat) : Nat := (p - 2 ^ 18) / 4
/-- A hoist by its number. -/
def State.hoist? (s : State) (id : Nat) : Option Hoist := s.hoists.find? (fun h => h.id = id)
/-- The state with a hoist changed. -/
def State.mapHoist (s : State) (id : Nat) (f : Hoist → Hoist) : State :=
  { s with hoists := s.hoists.map (fun h => if h.id = id then f h else h) }
/-- The state without a hoist. -/
def State.dropHoist (s : State) (id : Nat) : State :=
  ({ s with hoists := s.hoists.filter (fun h => h.id != id) } : State).unpinned

/-- The 32 bytes of a hoist's response (R284); its result count is the request's, also where it has failed. -/
def hoistResponse (r : HoistReq) (cls : BitVec 8) (results : List Word) : List Byte :=
  bytesOf 8 (cls.toNat * 2 ^ 56 + field r.desc.toNat 59 57 * 2 ^ 52 + oneIf r.wait * 2 ^ 51 + r.tok.toNat * 2 ^ 48 + r.lane % 32 * 2 ^ 43 +
    r.node.toNat * 2 ^ 24 + r.gkey.toNat) ++
  (List.range 4).flatMap (fun i => bytesOf 4 (results.getD i 0).toNat) ++ List.replicate 8 0

/-- The packet that a message about a hoist carries (R397; log entry 64). -/
def hoistPacket (r : HoistReq) (payload : List Byte) : Packet :=
  { addr := r.lockpa, key := r.key, gkey := r.gkey, payload := payload }

/-- A message about a peer's hoist goes back to the gateway that it came from (R399). -/
def State.toSender (s : State) (h : Hoist) (kind : Nat) (payload : List Byte) (marks : List Bool := []) : State :=
  match h.env with
  | some e => s.sendMsg kind h.req.node e.sdie e.ddie [{ hoistPacket h.req payload with marks := marks }]
  | none => s

/-- The poison flags of a response's bytes: those of its result words (R284). -/
def responseMarks (results : List PWord) : List Bool :=
  List.replicate 8 false ++ (List.range 4).flatMap (fun i => List.replicate 4 (results.getD i {}).poison) ++ List.replicate 8 false

/-- A hoist answered with a class and results (R284). The response to a peer is queued at the fabric (R399); an own one
travels until it arrives. -/
def State.answerHoist (s : State) (id : Nat) (cls : BitVec 8) (results : List PWord) : State :=
  match s.hoist? id with
  | none => s
  | some h =>
    if h.own then (s.mapHoist id (fun h => { h with at_ := .answered cls results })).unpinned
    else (s.toSender h 6 (hoistResponse h.req cls (results.map (·.val))) (responseMarks results)).dropHoist id

/-- The hoists of a list answered with class 0x0C, in order (R292). -/
def State.answerBroken (s : State) (ids : List Nat) : State :=
  ids.foldl (fun s id => s.answerHoist id 0x0C []) s

/-- The lock of a hoist, for a home of this package. -/
def State.lockOf (s : State) (id : Nat) : Nat := ((s.hoist? id).map (fun h => h.req.lockpa)).getD 0

/-- A lock marked broken: its queued requests, or every one when the table overflows, are answered with
0x0C in seq order (R292). -/
def State.breakLock (s : State) (m lock : Nat) : State :=
  let x := s.mast m
  let all := x.queue ++ x.ring
  if x.broken.contains lock || x.broken.length < 256 then
    let gone := all.filter (fun id => s.lockOf id = lock)
    let keep := fun id => !gone.contains id
    (s.setMast m { x with broken := if x.broken.contains lock then x.broken else x.broken ++ [lock],
                          queue := x.queue.filter keep, ring := x.ring.filter keep }).answerBroken gone
  else (s.setMast m { x with allbroken := true, queue := [], ring := [] }).answerBroken all

/-- The dirty words of a mast core's private cache pushed to their homes, left valid and clean (R281). -/
def State.pushMast (s : State) (core : Nat) : State :=
  (s.l1Words core (·.dirty)).foldl (fun s w => s.pushWord core w .home) s

/-- The request dwords 0x00 to 0x28 of a hoist (R283, R427 kind 3). -/
def hoistDwords (r : HoistReq) : List Dword :=
  [r.desc, BitVec.ofNat 64 r.lockpa, r.lockva.setWidth 64,
   BitVec.ofNat 64 (oneIf r.mast * 2 ^ 52 + oneIf r.wait * 2 ^ 51 + r.tok.toNat * 2 ^ 48 +
     r.lane % 32 * 2 ^ 43 + r.node.toNat * 2 ^ 24 + r.gkey.toNat),
   r.key ++ r.wdog, BitVec.ofNat 64 r.seq]

/-- A section killed (R291, R292): its writes stand, its record is reported, its sender is answered, its
lock breaks and its context is free. -/
def State.killSection (s : State) (p : Nat) (rec : FaultRec) (cls : BitVec 8) : State :=
  let g := s.group p
  match g.sect with
  | none => s
  | some x =>
    let s := s.pushMast (coreKey p)
    let s := s.report 3 (placeDie p) (rec.dwords ++ hoistDwords x.req) (coreSource p)
    let s := (s.releaseViews p).setGroup p {}
    let s := s.answerHoist x.hoist cls []
    s.breakLock (mastOf p) x.req.lockpa

/-- A fault of a section (R291): `FLT.PAGE` parks it, `FLT.BRK` and a software trap halt it for a debugger
that has claimed the core, with a report of class 0x13 (R427), every other fault kills it. -/
def State.sectionFault (s : State) (p : Nat) (sl : SlotId) (f : FaultInfo) : State :=
  let g := s.group p
  let rec' := faultRecord s p sl f false
  let halt := faultRecord s p sl { f with cls := 0x13 } false
  let s := { s with err := { s.err with fseq := s.err.fseq + 1 } }
  match g.sect with
  | none => s
  | some _ =>
    if f.cls = 0x01 then
      (s.setGroup p { g with
        fault := some { slot := sl, info := f, record := rec', wait := .service, restart := restartOf (g.slot sl) f } }).postFault p f.addr
    else if (f.cls = 0x13 || f.cls = 0x12) && (s.mast (mastOf p)).claimed then
      let y := g.slot sl
      let g := { g with halted := true }
      (s.setGroup p (g.setSlot sl (if f.next then y.past else y))).report 10 (placeDie p) halt.dwords
    else s.killSection p rec' 0x0C

/-- The group at a place is stopped: a fault that completes is taken at its resumption (R423, R442). -/
def State.stoppedAt (s : State) (p : Nat) : Bool := (s.group p).fault.isSome || (s.group p).halted

/-- A fault taken by the group at a place (R15, R420 to R422): the record is formed, a page fault is told to F2 and waits
with no report (R354), every other fault is reported and waits for a disposition. Where the instruction has
completed, its slot stands at the next word. Invalid page-table entries are logged first (R382). A group holds one fault
at a time: what completes with one while the group is stopped keeps it for the resumption (R423). The refusal of a remote access of a
group that has ended is an orphaned completion (R216). -/
def State.raiseAt (s : State) (p : Nat) (sl : SlotId) (f : FaultInfo) : State :=
  let s := s.logEntries p f.badEntries
  if (s.group p).ended then s.orphan p (placeKey p (s.group p)) f.cls 2 0
  else if isMast p then s.sectionFault p sl f
  else if s.stoppedAt p then s.setGroup p { s.group p with late := (s.group p).late ++ [(sl, f)] }
  else
    let g := s.group p
    let x := g.slot sl
    let rec' := faultRecord s p sl f (f.cls != 0x01)
    let s := { s with err := { s.err with fseq := s.err.fseq + 1 } }
    let flt : GroupFault :=
      { slot := sl, info := f, record := rec', wait := if f.cls = 0x01 then .service else .disposition,
        restart := restartOf x f }
    let s := s.setGroup p ({ g with fault := some flt }.setSlot sl (if f.next then x.past else x))
    if f.cls = 0x01 then (s.count p x.pc 6 1).postFault p f.addr else s.report 1 (placeDie p) rec'.dwords (coreSource p)

/-- A fault taken by the issuing slot. -/
def State.raise (s : State) (f : FaultInfo) : State := s.raiseAt s.cur s.curSlot f

/-! Issuing. -/

/-- An instruction of the issuing slot: its effect and the slot past its word, or the fault that it takes. -/
def issue (s : State) (f : State → Chk State) : Out :=
  match f s with
  | .ok t => .next t.advance
  | .error e => .next (s.raise e)

/-- An instruction that places the slot itself: its effect, or the fault that it takes. -/
def transfer (s : State) (f : State → Chk State) : Out :=
  match f s with
  | .ok t => .next t
  | .error e => .next (s.raise e)

/-- An instruction of one group: its effect on the group, then as `issue`. -/
def issueG (s : State) (f : Group → Chk Group) : Out := issue s (fun s => (f s.g).map s.setG)

end Sys2Proof.Machine
end

