-- ==== Sys2Proof/Machine/Operands.lean ====
section
/-! DEFINITION. Operand forms: what a vector, predicate or scalar instruction checks and reads before its
effect (R34, R37, R79, R80, R425), and how its results are written. -/

namespace Sys2Proof.Machine

open Sys2Proof

/-- No lane of a mask has a poisoned word in one of the registers, or `FLT.POISON` that names the lanes and
the first poisoned register of the lowest one (R80, R419). -/
def checkPoison (g : Group) (m : Word) (rs : List Nat) : Chk Unit :=
  match (lanesOf m).filter (fun l => rs.any (fun r => (g.getV r l).poison)) with
  | [] => .ok ()
  | l :: ls =>
    .error (poisonOf 0 ((rs.find? (fun r => (g.getV r l).poison)).getD 0) (maskOf (l :: ls)))

/-- The dtype of a vector instruction of R79: a 64-bit integer is refused. -/
def vecDtype (m : Word) : Chk Ty :=
  match tyOf (gmDtype m) with
  | some t => if ty64 t then .error opnd else .ok t
  | none => .error opnd

/-- The stype of a vector instruction of R79. -/
def vecStype (m : Word) : Chk Ty :=
  match tyOf (gmStype m) with
  | some t => if ty64 t then .error opnd else .ok t
  | none => .error opnd

/-- The integer element type of R81. -/
def intDtype (m : Word) : Chk Ty := (vecDtype m).map intTy

/-- The element type of the floating-point vector instructions (R92). -/
def floatDtype (m : Word) : Chk Ty :=
  match tyOf (gmDtype m) with
  | some .f32 => .ok .f32
  | some .f16 => .ok .f16
  | some .bf16 => .ok .bf16
  | _ => .error opnd

/-- A vector instruction: the registers it names lie in the allotment, its mode is accepted, no source word
of an active lane is poisoned, and each active lane's destination word is the lane function's (R34, R37,
R80). `f` gets the group and `gm`. -/
def vecInstr (s : State) (d : Nat) (names srcs : List Nat) (f : Group → Word → Chk (Nat → Word)) : Out :=
  issueG s fun g => do
    let m ← (g.slot s.curSlot).mode
    need ((d :: names).all g.vOk) opnd
    let fn ← f g m
    let a ← g.active s.curSlot
    checkPoison g a srcs
    .ok (g.setVs d ((lanesOf a).map (fun l => (l, fn l))))

/-- A vector instruction that computes a destination word from the words of two source registers. -/
def vec2 (s : State) (d a b : BitVec 8) (f : Word → Chk (Word → Word → Word)) : Out :=
  vecInstr s d.toNat [a.toNat, b.toNat] [a.toNat, b.toNat] fun g m =>
    (f m).map fun h l => h (g.getV a.toNat l).val (g.getV b.toNat l).val

/-- A vector instruction that computes a destination word from the words of one source register. -/
def vec1 (s : State) (d a : BitVec 8) (f : Word → Chk (Word → Word)) : Out :=
  vecInstr s d.toNat [a.toNat] [a.toNat] fun g m =>
    (f m).map fun h l => h (g.getV a.toNat l).val

/-- A vector instruction that also reads its destination (`IMAD`, `BFI`, `FMA`). -/
def vec3 (s : State) (d a b : BitVec 8) (f : Word → Chk (Word → Word → Word → Word)) : Out :=
  vecInstr s d.toNat [a.toNat, b.toNat] [a.toNat, b.toNat, d.toNat] fun g m =>
    (f m).map fun h l => h (g.getV d.toNat l).val (g.getV a.toNat l).val (g.getV b.toNat l).val

/-- A compare: bit l of the predicate for each active lane (R90, R91). -/
def predInstr (s : State) (p : BitVec 4) (srcs : List Nat) (f : Group → Word → Chk (Nat → Bool)) : Out :=
  issueG s fun g => do
    let m ← (g.slot s.curSlot).mode
    need (srcs.all g.vOk) opnd
    let fn ← f g m
    let a ← g.active s.curSlot
    checkPoison g a srcs
    .ok (g.setPBits p.toNat a (maskOf ((lanesOf a).filter fn)))

/-- An imm8 taken as a signed value (R38, R81). -/
def imm8s (i : BitVec 8) : Int := signedOf 8 i.toNat

/-- The issuing word would raise its flag's count to 64, so it does not issue yet (R23). -/
def State.flagFull (s : State) : Bool :=
  match s.sl.flag with
  | none => false
  | some f => 63 ≤ s.g.flags.look f 0

/-- The group's flag counts with one more operation of the flag (R23). -/
def Group.addFlag (g : Group) : Option Nat → Group
  | none => g
  | some f => { g with flags := g.flags.put f (g.flags.look f 0 + 1) }
/-- The group's flag counts with one operation of the flag fewer (R23). -/
def Group.subFlag (g : Group) : Option Nat → Group
  | none => g
  | some f => { g with flags := g.flags.put f (g.flags.look f 0 - 1) }

/-- The issuing word becomes an outstanding long-latency operation of its group (R23, R25). -/
def State.startLong (s : State) (kind : PendKind) (writes : List RegWrite) : State :=
  let f := s.sl.flag
  let g := s.g.addFlag f
  { s.setG { g with ops := g.ops ++ [{ id := s.nextId, kind := kind, flag := f, writes := writes }] } with
    nextId := s.nextId + 1 }

/-- A long-latency instruction: it does not issue while its flag is full (R23); else its checks, and the
operation with the words that it will write. -/
def issueLong (s : State) (f : State → Chk (State × PendKind × List RegWrite)) : Out :=
  if s.flagFull then .next s
  else issue s fun s => (f s).map fun r => r.1.startLong r.2.1 r.2.2

/-- The fields of a place that must not run in a section (R280). -/
def notInSection (s : State) : Chk Unit := need (!isMast s.cur) opnd

end Sys2Proof.Machine
end

