-- ==== Sys2Proof/Machine/Walk.lean ====
section
/-! DEFINITION. Address translation: the virtual map (R223 to R225), the descriptor window (R204, R205),
page-table walks (R380 to R383), and the translation of a unit (R145). -/

namespace Sys2Proof.Machine

open Sys2Proof

/-- A leaf entry found by a walk (R381). `psize` is 0, 1 or 2 for 64 KiB, 2 MiB and 1 GiB. -/
structure Leaf where
  entry : Nat
  psize : Nat
  d0 : Dword
  d1 : Dword
  d2 : Dword
  d3 : Dword
  deriving DecidableEq, Repr

/-- How a walk ends (R382). A non-present leaf entry is kept for F2. -/
inductive WalkRes
  | present (l : Leaf)
  | absent (l : Option Leaf)
  | invalid (entry : Nat)
  deriving DecidableEq, Repr

/-- Read permission of an entry. -/
def Leaf.rd (l : Leaf) : Bool := l.d0.getLsbD 61
/-- Write permission of an entry. -/
def Leaf.wr (l : Leaf) : Bool := l.d0.getLsbD 60
/-- Fetch permission of an entry. -/
def Leaf.ex (l : Leaf) : Bool := l.d0.getLsbD 59
/-- The page is race-checked. -/
def Leaf.rc (l : Leaf) : Bool := l.d0.getLsbD 58
/-- The page has a twin frame. -/
def Leaf.tw (l : Leaf) : Bool := l.d0.getLsbD 57
/-- The frame is in a peer package. -/
def Leaf.rem (l : Leaf) : Bool := l.d0.getLsbD 56
/-- The current frame. -/
def Leaf.frame (l : Leaf) : Nat := field l.d0.toNat 51 0
/-- The twin frame. -/
def Leaf.twin (l : Leaf) : Nat := field l.d1.toNat 51 0
/-- The access count. -/
def Leaf.acnt (l : Leaf) : Nat := field l.d1.toNat 63 52
/-- The peer node. -/
def Leaf.node (l : Leaf) : BitVec 19 := BitVec.ofNat 19 (field l.d2.toNat 50 32)
/-- The remote key. -/
def Leaf.key (l : Leaf) : Word := l.d2.setWidth 32
/-- The base of the metadata area. -/
def Leaf.mbase (l : Leaf) : Nat := field l.d3.toNat 51 0

/-- An entry read at its L2 home (R382). -/
def readEntry (s : State) (a psize : Nat) : Leaf :=
  { entry := a, psize := psize, d0 := s.devDword a, d1 := s.devDword (a + 8), d2 := s.devDword (a + 16),
    d3 := s.devDword (a + 24) }

/-- The reserved and dependent fields of a present entry are as R381 and R382 require. -/
def entryOk (s : State) (level : Nat) (e : Leaf) : Bool :=
  let leaf := e.d0.getLsbD 62
  field e.d0.toNat 55 52 = 0 && field e.d2.toNat 63 51 = 0 && field e.d3.toNat 63 52 = 0 &&
  (e.tw || e.twin = 0) && (e.rem || (e.node = 0 && e.key = 0)) && (e.rc || e.mbase = 0) &&
  !(e.rem && (e.tw || e.rc || e.node = s.node)) &&
  (if leaf then
    level ≤ 2 && e.frame % pageBytes e.psize = 0 && e.twin % pageBytes e.psize = 0 &&
    e.mbase % (pageBytes e.psize / 8) = 0
  else
    level ≠ 0 && e.frame % (if level = 1 then 1024 else 16384) = 0 && isDeviceMem s.tier2 e.frame)

/-- The index bits of a virtual address at a level (R380). -/
def walkIndex (va level : Nat) : Nat :=
  match level with
  | 4 => field va 56 48 | 3 => field va 47 39 | 2 => field va 38 30 | 1 => field va 29 21
  | _ => field va 20 16

/-- A walk from a table of a level down (R380, R382). -/
def walkFrom (s : State) (va : Nat) : Nat → Nat → WalkRes
  | 0, table =>
    let e := readEntry s (table + 32 * walkIndex va 0) 0
    if !e.d0.getLsbD 63 then .absent (some e)
    else if !entryOk s 0 e then .invalid e.entry
    else .present e
  | level + 1, table =>
    let e := readEntry s (table + 32 * walkIndex va (level + 1)) level.succ
    if !e.d0.getLsbD 63 then .absent (if e.d0.getLsbD 62 && level + 1 ≤ 2 then some e else none)
    else if !entryOk s (level + 1) e then .invalid e.entry
    else if e.d0.getLsbD 62 then .present e
    else walkFrom s va level e.frame

/-- The entry of an enabled window whose view holds a frame's bytes, for frames in the aperture (R227). -/
def State.inView (s : State) (a : Nat) : Bool := (s.viewAt a).isSome

/-- A walk of the package's page tables (R382, R383): a frame outside the ranges of R227 is not present. -/
def walk (s : State) (va : Nat) : WalkRes :=
  if !s.ptroot.getLsbD 63 then .absent none
  else
    match walkFrom s va 4 (field s.ptroot.toNat 51 14 * 2 ^ 14) with
    | .present e =>
      if e.rem || isDeviceMem s.tier2 e.frame || isHostPa e.frame || isAperture e.frame then .present e
      else .absent (some e)
    | r => r

/-- What a translation of an address yields besides the place: permissions, race checking and the size of
the page, for a view (R141). -/
structure Trans where
  loc : Loc
  rd : Bool
  wr : Bool
  ex : Bool
  rc : Bool
  remote : Bool
  psize : Nat
  key : Word
  leaf : Option Leaf
  deriving DecidableEq, Repr

/-- `FLT.PROT`. -/
def prot : FaultInfo := fault 0x02
/-- `FLT.PAGE`. -/
def pageFlt : FaultInfo := fault 0x01
/-- `FLT.ALIGN`. -/
def align : FaultInfo := fault 0x07

/-- The team at a position of the issuing team's cluster (R200, R224). -/
def State.clusterTeam (s : State) (g : Group) (pos : Nat) : Option (Nat × Team) :=
  let tm := s.team g.team
  let k := (s.ctx g.ctx).kernel
  let size := if k.cw = 0 then 1 else k.cw * k.ch
  if pos ≥ size then none
  else
    let want := tm.index / size * size + pos
    s.teams.find? fun e => e.2.live && !e.2.ended && e.2.ctx = g.ctx && e.2.index = want

/-- A place in the scratchpad of a team (R224, R225). -/
def spadAt (key : Nat) (t : Team) (f : Nat) : Chk Trans :=
  if f < t.units * 65536 then
    .ok { loc := .spad (key / 16) (t.sbase * 65536 + f), rd := true, wr := true, ex := false, rc := false,
          remote := false, psize := 3, key := 0, leaf := none }
  else .error prot

/-- A translation through the virtual map for a place's group (R223 to R227, R382). -/
def translateVa (s : State) (p : Nat) (va : Nat) : Chk Trans :=
  let g := s.group p
  if va < 0x10000 then
    .ok { loc := .desc g.ctx va, rd := true, wr := false, ex := false, rc := false, remote := false,
          psize := 0, key := 0, leaf := none }
  else if va < 0x1FE000000000000 then
    match walk s va with
    | .present e =>
      let off := va % pageBytes e.psize
      if e.rem then
        .ok { loc := .peer e.node e.key (e.frame + off), rd := e.rd, wr := e.wr, ex := e.ex, rc := false,
              remote := true, psize := e.psize, key := e.key, leaf := some e }
      else if isAperture e.frame && !s.inView (e.frame + off) then .error prot
      else
        .ok { loc := .phys (e.frame + off), rd := e.rd, wr := e.wr && !isAperture e.frame, ex := e.ex,
              rc := e.rc && !isAperture e.frame && !isHostPa e.frame, remote := isHostPa e.frame,
              psize := e.psize, key := 0, leaf := some e }
    | .absent _ => .error pageFlt
    | .invalid a => .error { prot with badEntries := [a] }
  else if isMast p then .error prot
  else if va < 0x1FE000000C00000 then
    let f := va - 0x1FE000000000000
    match s.clusterTeam g (f / 2 ^ 20) with
    | some (k, t) => spadAt k t (f % 2 ^ 20)
    | none => .error prot
  else if 0x1FF000000000000 ≤ va && va < 0x1FF0000000B0000 then
    spadAt g.team (s.team g.team) (va - 0x1FF000000000000)
  else .error prot

/-- What an access needs of a page (R145, R381). -/
inductive Need | read | write | both
  deriving DecidableEq, Repr

/-- The permissions serve the access. -/
def permits (n : Need) (rd wr : Bool) : Bool :=
  match n with
  | .read => rd
  | .write => wr
  | .both => rd && wr

/-- An address of the device that a view gives (R145). -/
def viewLoc (s : State) (x : XReg) (o : Nat) : Loc :=
  if x.node != s.node then .peer x.node x.key (x.pa.toNat + o) else .phys (x.pa.toNat + o)

/-- The translation of a unit of an instruction at offset `o` through a translation register (R145), with
the faults in the order of R146. Window addresses go by the window's own rule (R224), whichever view
covers them, and an address of the aperture outside every enabled view is not readable (R227). -/
def translateUnit (s : State) (p : Nat) (x : XReg) (o size : Nat) (n : Need) : Chk Trans :=
  let va := x.base.toNat + o
  if !x.valid then .error opnd
  else if va % size ≠ 0 then .error align
  else if va ≥ 2 ^ 57 then .error prot
  else if o + size ≤ x.limit.toNat && 0x10000 ≤ va && va < 0x1FE000000000000 then
    if isAperture (viewLoc s x o).key && !s.inView (viewLoc s x o).key then .error prot
    else if permits n x.rd x.wr then
      .ok { loc := viewLoc s x o, rd := x.rd, wr := x.wr, ex := false, rc := x.rc, remote := x.remote,
            psize := x.psize.toNat, key := x.key, leaf := none }
    else .error prot
  else
    match translateVa s p va with
    | .error f => .error f
    | .ok t => if permits n t.rd t.wr then .ok t else .error prot

/-- The class order of R146 among unit faults. -/
def classOrder (c : BitVec 8) : Nat :=
  match c.toNat with
  | 0x0E => 2 | 0x06 => 3 | 0x07 => 4 | 0x02 => 5 | 0x01 => 6 | 0x09 => 7 | 0x0B => 8 | 0x0D => 9 | _ => 10

/-- The invalid page-table entries that faulting units met, each once (R238, R382). -/
def entriesMet (l : List (Nat × Nat × FaultInfo)) : List Nat := (l.flatMap (·.2.2.badEntries)).eraseDups

/-- The fault of a list of faulting units: the first class in the order of R146, the lanes that raise it,
and the address of the lowest such lane; every invalid entry that a unit met is logged with it (R382). -/
def pickFault (l : List (Nat × Nat × FaultInfo)) : FaultInfo :=
  let best := l.foldl (fun c e => min c (classOrder e.2.2.cls)) 99
  match l.filter fun e => classOrder e.2.2.cls = best with
  | [] => opnd
  | (lane, va, f) :: r =>
    let low := r.foldl (fun a e => if e.1 < a.1 then (e.1, e.2.1) else a) (lane, va)
    { f with lanes := maskOf (lane :: r.map (·.1)), addr := if f.cls = 0x06 then 0 else BitVec.ofNat 64 low.2,
             badEntries := entriesMet l }

/-! The descriptor window (R205). -/

/-- A little-endian field of a structure: offset, size, value. -/
def putField (a n v : Nat) : List (Nat × Nat × Nat) := [(a, n, v)]

/-- The byte at an offset in a list of little-endian fields; 0 where none lies. -/
def fieldByte (fs : List (Nat × Nat × Nat)) (off : Nat) : Byte :=
  match fs.find? fun e => e.1 ≤ off && off < e.1 + e.2.1 with
  | some (a, _, v) => BitVec.ofNat 8 (v / 256 ^ (off - a))
  | none => 0

/-- The fields of the descriptor window (R205). -/
def descFields (k : Kernel) : List (Nat × Nat × Nat) :=
  [(0x00, 4, k.kid.toNat), (0x04, 4, k.seed.toNat), (0x08, 4, k.gridx), (0x0C, 4, k.gridy),
   (0x10, 4, k.gridz), (0x14, 1, k.cw), (0x15, 1, k.ch), (0x16, 1, k.race), (0x17, 1, k.splice),
   (0x18, 4, k.wdog.toNat), (0x1C, 4, k.args.length), (0x20, 8, k.codeva.toNat), (0x28, 8, k.datava.toNat)]

/-- A byte of the descriptor window (R205). -/
def descByte (k : Kernel) (off : Nat) : Byte :=
  if off < 0x40 then fieldByte (descFields k) off else k.args.getD (off - 0x40) 0

/-- A byte of a context's descriptor window: of a fused one the producer's descriptor, then the consumer's (R369). -/
def ctxDesc (c : Ctx) (off : Nat) : Byte :=
  if !c.fused then descByte c.kernel off
  else if off < 0x4000 then descByte c.kernel off
  else if off < 0x8000 then descByte c.kernel2 (off - 0x4000)
  else 0

/-! Code fetch. -/

/-- The place of a code word by virtual address: `FLT.PAGE` on a non-present page, `FLT.PROT` without fetch permission
(R20). -/
def fetchPlace (s : State) (p : Nat) (va : Addr) : Chk Loc :=
  match translateVa s p va.toNat with
  | .error f => .error { f with addr := va.setWidth 64 }
  | .ok t => if t.ex then .ok t.loc else .error { prot with addr := va.setWidth 64 }

/-- The code word at a place: of a peer's memory the copy that its home slice holds (R147). -/
def State.codeAt (s : State) (l : Loc) : Word :=
  match l with
  | .peer _ _ _ => (s.l2Word (l.key / 4)).val
  | _ => BitVec.ofNat 32 (ofBytes (s.devRead l.key 4).1)

/-- A code word by virtual address (R20). -/
def fetchWord (s : State) (p : Nat) (va : Addr) : Chk Word := (fetchPlace s p va).map s.codeAt

end Sys2Proof.Machine
end

