-- ==== Sys2Proof/Machine/Race.lean ====
section
/-! DEFINITION. Data races as precise faults (R300 to R315): the granule's metadata, what a group knows of
others, the check and its update, race records, and what releases and acquires do to clocks. The metadata
dwords are memory (R302); the directory entry of a slot is its group's own fields. -/

namespace Sys2Proof.Machine

open Sys2Proof

/-- rteam of no reader (R303). -/
def noTeam : Nat := 0x3FFF

/-- A metadata dword (R303). -/
def metaOf (wkey wclock wscope kind multi rteam : Nat) : Nat :=
  wkey * 2 ^ 40 + wclock * 2 ^ 20 + wscope * 2 ^ 17 + kind * 2 ^ 15 + multi * 2 ^ 14 + rteam

/-- The address of the metadata of the granule of a virtual address (R302), where a race-checked page of local memory maps
it now: host memory, peer memory and format views are never race-checked (R301). -/
def State.metaAt (s : State) (va : Nat) : Option Nat :=
  match walk s va with
  | .present e =>
    if e.rc && isDeviceMem s.tier2 e.frame then some (e.mbase + va % pageBytes e.psize / 64 * 8) else none
  | _ => none

/-- A team's team id (R303). -/
def teamId (t : Nat) : Nat := t / 16 * 8 + t % 8

/-- The clock of a group (R304). -/
def Group.clock (g : Group) : Nat := g.gk.toNat % 2 ^ 20
/-- The generation of a group (R304). -/
def Group.gen (g : Group) : Nat := g.gk.toNat / 2 ^ 20

/-- The group slot that a key names (R13). -/
def keyPlace (w : Nat) : Nat := w / 2 ^ 21 * 2 ^ 15 + w / 2 ^ 13 % 2 ^ 8 * 2 ^ 7 + w / 2 ^ 6 % 2 ^ 7

/-- The live group that a key names (R305). -/
def State.liveKey (s : State) (w : Nat) : Option Group :=
  let g := s.group (keyPlace w)
  if g.live && !g.ended && g.gen = w % 64 then some g else none

/-- The group that a key of a slot's occupant names, though it may have ended: the slot's directory entry keeps its
program counter until the next group takes it (R305). -/
def State.keyGroup (s : State) (w : Nat) : Option Group :=
  let g := s.group (keyPlace w)
  if g.gen = w % 64 then some g else none

/-- A key is own to the group at a place (R305). -/
def ownKey (p : Nat) (g : Group) (w : Nat) : Bool :=
  !isMast p && keyPlace w = p &&
    (w % 64 + 64 - g.startGen.toNat) % 64 ≤ (g.gen + 64 - g.startGen.toNat) % 64

/-- A scope does not cover the two groups (R307): 0 `.g`, 1 `.t`, 2 `.c`. -/
def State.uncovered (s : State) (sc : Nat) (p : Nat) (h w : Group) : Bool :=
  match sc with
  | 0 => true
  | 1 => teamId w.team != teamId h.team
  | 2 =>
    let t := s.team h.team
    let k := (s.ctx h.ctx).kernel
    let a := if k.cw = 0 then placeCore p else t.anchor % 256
    let cw := if k.cw = 0 then 1 else k.cw
    let ch := if k.ch = 0 then 1 else k.ch
    let n := w.team / 16 % 256
    w.team / 16 / 256 != placeDie p ||
      !(a % 16 ≤ n % 16 && n % 16 < a % 16 + cw && a / 16 ≤ n / 16 && n / 16 < a / 16 + ch)
  | _ => false

/-- An entry of the most-recently-used-first store moved to its front. -/
def touch {α β : Type} [DecidableEq α] (k : α) (l : List (α × β)) : List (α × β) :=
  match l.find? (fun e => e.1 = k) with
  | some e => e :: l.filter (fun x => x.1 != k)
  | none => l

/-- knows(H, W, c) (R307). -/
def knows (h w : Group) (wkey c : Nat) : Bool :=
  let e := (h.race.vec.look w.gindex 0).toNat
  if w.team = h.team && w.ctx = h.ctx && e / 2 ^ 20 = wkey % 64 then c < e % 2 ^ 20
  else
    match h.race.foreign.find? (fun e => e.1 = BitVec.ofNat 24 wkey) with
    | some e => c < e.2.toNat
    | none => false

/-- A checked access of one lane to one granule: its lowest address there, the metadata's address and the
bytes of the granule that the lane touches (R307). -/
structure RaceAcc where
  lane : Nat
  va : Nat
  granule : Nat
  where_ : Option Nat
  bytes : Nat
  deriving DecidableEq, Repr

/-- The bytes of a granule that an access of `n` bytes at `va` touches. -/
def granuleBytes (va n : Nat) : Nat := ((2 ^ n - 1) * 2 ^ (va % 64)) % 2 ^ 64

/-- The accesses of units (lane, address, bytes) gathered by lane and granule (R307). -/
def raceAccs (s : State) (us : List (Nat × Nat × Nat)) : List RaceAcc :=
  us.foldl (fun l u =>
    let gr := u.2.1 / 64
    if l.any (fun a => a.lane = u.1 && a.granule = gr) then
      l.map (fun a =>
        if a.lane = u.1 && a.granule = gr then
          { a with va := min a.va u.2.1, bytes := a.bytes ||| granuleBytes u.2.1 u.2.2 }
        else a)
    else l ++ [⟨u.1, u.2.1, gr, s.metaAt u.2.1, granuleBytes u.2.1 u.2.2⟩]) []

/-- The metadata that a check finds: the dword, or none where it is lost (R303). -/
def State.metaFound (s : State) (a : RaceAcc) : Option Nat :=
  match a.where_ with
  | none => none
  | some m =>
    let r := s.devRead m 8
    let d := ofBytes r.1
    if r.2 || field d 16 15 = 3 then none else some d

/-- The counters that one check adds: coverage loss and stale (R313). -/
structure RaceCount where
  loss : Nat := 0
  stale : Nat := 0
  deriving DecidableEq, Repr

/-- What one check answers: 0 no verdict, 1 data race, 2 scope race, 3 read-write race (R307), with what it
counts and the pending entry of R306. -/
structure RaceAnswer where
  verdict : Nat := 0
  count : RaceCount := {}
  pend : Option (BitVec 24 × BitVec 20) := none
  deriving DecidableEq, Repr

/-- check(H, M, acc, s, g, b) of R307: `acc` is 0 read, 1 write, 2 atomic; `full` is full(g). -/
def State.raceOne (s : State) (p : Nat) (h : Group) (m : Option Nat) (acc sc : Nat) (a : RaceAcc)
    (full ret : Bool) : RaceAnswer :=
  match m with
  | none => { count := { loss := 1 } }
  | some d =>
    let kind := field d 16 15
    if kind ≠ 1 && kind ≠ 2 then {}
    else
      let wkey := field d 63 40
      let c := field d 39 20
      let own := ownKey p h wkey
      let live := s.liveKey wkey
      let hit := match live with
        | some w => w.clock = c && (w.race.wset.any (fun e => e.1 = a.granule && (e.2.toNat &&& a.bytes) ≠ 0))
        | none => false
      let first : Nat × RaceCount :=
        if own then (0, {})
        else
          match live with
          | none => (0, { stale := 1 })
          | some w =>
            if acc = 2 && kind = 2 then
              if !s.uncovered sc p h w && !s.uncovered (field d 19 17) p h w then (0, {})
              else if hit then (2, {})
              else (0, { loss := 1 })
            else if knows h w wkey c then (0, {})
            else if hit then (1, {})
            else (0, { loss := 1 })
      let sameTeam := match live with
        | some w => w.team = h.team && w.ctx = h.ctx
        | none => false
      let pend :=
        if (acc = 0 || ret) && !own && !sameTeam then some (BitVec.ofNat 24 wkey, BitVec.ofNat 20 c) else none
      let rteam := field d 13 0
      if acc ≠ 0 && first.1 = 0 && rteam ≠ noTeam then
        if own && c = h.clock && !h.abit && (bitOf d 14 || rteam ≠ teamId h.team) && full then
          { verdict := 3, count := first.2, pend := pend }
        else { verdict := 0, count := { first.2 with loss := first.2.loss + 1 }, pend := pend }
      else { verdict := first.1, count := first.2, pend := pend }

/-- The race log holds this many records (R312). -/
def RaceLog.entries (l : RaceLog) : Nat := 2 ^ (10 + field l.ctl.toNat 55 52)

/-- A race record (R311) of the group at a place: written, dropped (R312) or, outside trap mode, suppressed
as a duplicate (R310). -/
def State.raceRecord (s : State) (p : Nat) (pc : Addr) (type sc acc : Nat) (trap : Bool) (lanes : Word)
    (addr mdata : Dword) (wpc : Addr) : State :=
  let g := s.group p
  let l := s.rlog
  let o := s.originOf (s.ctx g.ctx) pc
  let w := match s.keyGroup (field mdata.toNat 63 40) with
    | some x => (s.originOf (s.ctx x.ctx) wpc).1
    | none => wpc
  let pair := (o.1.setWidth 64, w.setWidth 64)
  if !trap && l.dedup.contains pair then { s with rlog := { l with dup := satAdd l.dup 1 } }
  else
    let l := if !trap && l.dedup.length < 256 then { l with dedup := l.dedup ++ [pair] } else l
    if !l.ctl.getLsbD 63 || (l.head - l.tail).toNat = l.entries then
      { s with rlog := { l with dropped := satAdd l.dropped 1 } }
    else
      let ds : List Dword :=
        [BitVec.ofNat 64 (type * 2 ^ 56 + sc * 2 ^ 53 + acc * 2 ^ 51 + oneIf trap * 2 ^ 50 + (placeKey p g).toNat),
         o.1.setWidth 64, lanes ++ o.2, addr, mdata, w.setWidth 64,
         BitVec.ofNat 64 (l.head.toNat * 2 ^ 32 + g.clock), 0]
      let a := field l.ctl.toNat 51 12 * 2 ^ 12 + 64 * (l.head.toNat % l.entries)
      let s := s.devWrite a (bytesOfDwords ds)
      { s with rlog := { l with head := l.head + 1 } }

/-- RLOGCTL.alias (R313). -/
def RaceLog.alias_ (l : RaceLog) : Bool := l.ctl.getLsbD 62

/-- Checks counted in RACELOSS (R313), with the sketch occurrences of R435. -/
def State.raceCount (s : State) (p : Nat) (pc : Addr) (c : RaceCount) : State :=
  let s := { s with rlog := { s.rlog with loss := satAdd s.rlog.loss c.loss, stale := satAdd s.rlog.stale c.stale } }
  s.count p pc 9 c.loss

/-- The write set with a lane's bytes in a granule (R305), most recently used first. -/
def wsetAdd (l : List (Nat × BitVec 64)) (gr bytes : Nat) : List (Nat × BitVec 64) :=
  match l.find? (fun e => e.1 = gr) with
  | some e => (gr, e.2 ||| BitVec.ofNat 64 bytes) :: l.filter (fun x => x.1 != gr)
  | none => ((gr, BitVec.ofNat 64 bytes) :: l).take 4

/-- The metadata dword written at its home (R308). -/
def State.putMeta (s : State) (m d : Nat) : State := s.putDword m (BitVec.ofNat 64 d)

/-- A granule's metadata set to unknown (R165, R301). -/
def State.clearMeta (s : State) (va : Nat) : State :=
  match s.metaAt va with
  | some m => s.putMeta m 0
  | none => s

/-- The metadata of the granules of bytes that an engine or a device wrote set to unknown (R301). -/
def State.clearMetas (s : State) (va n : Nat) : State :=
  (List.range ((va + n + 63) / 64 - va / 64)).foldl (fun s i => s.clearMeta ((va / 64 + i) * 64)) s

/-- The update of R308 for one lane and granule. -/
def State.raceUpdate (s : State) (p : Nat) (pc : Addr) (acc sc : Nat) (a : RaceAcc) : State :=
  match a.where_ with
  | none => s
  | some m =>
    let g := s.group p
    if acc = 0 then
      match s.metaFound a with
      | none => s
      | some d =>
        if field d 16 15 ≠ 1 && field d 16 15 ≠ 2 then s
        else
          let r := field d 13 0
          let t := teamId g.team
          if r = noTeam then s.putMeta m (d - r + t)
          else if r ≠ t then s.putMeta m (d ||| 2 ^ 14)
          else s
    else
      let s := s.putMeta m (metaOf (placeKey p g).toNat g.clock sc (if acc = 2 then 2 else 1) 0 noTeam)
      s.setGroup p { g with race := { g.race with wpc := pc, wset := wsetAdd g.race.wset a.granule a.bytes } }

/-- The records of the verdict types that an instruction found, in ascending type order, each naming its
lowest lane (R309, R310). A write of a uniform register is an access of scope `.g`, and the record of its race names the
register (R311, R314). -/
def State.raceRecords (s : State) (p : Nat) (pc : Addr) (sc acc : Nat) (trap : Bool) (vs : List Verdict) : State :=
  [1, 2, 3, 4].foldl (fun s ty =>
    match vs.filter (fun v => v.type = ty) with
    | [] => s
    | v :: r =>
      let low := r.foldl (fun a b => if b.lane < a.lane then b else a) v
      s.raceRecord p pc ty (if ty = 4 then 0 else sc) (if ty = 4 then 1 else acc) trap
        (maskOf (v.lane :: r.map (·.lane))) (BitVec.ofNat 64 low.va) low.mdata low.wpc) s

/-- Entries put into the pending list, newest first; a fifth replaces the oldest (R306). -/
def State.addPending (s : State) (p : Nat) (l : List (BitVec 24 × BitVec 20)) : State :=
  let g := s.group p
  let q := l.foldl (fun q e => (e :: q).take 4) g.race.pending
  s.setGroup p { g with race := { g.race with pending := q } }

/-- The checked accesses of an instruction (R307 to R310): every lane is checked against the metadata that
the instruction finds; in trap mode a verdict is `FLT.RACE` with nothing updated; else the metadata and the
group's stores are updated lane by lane. `ret` says that an atomic returns what it reads (R306), `whole` holds all the
accesses of the instruction, and `uni` is the race of a uniform register that it writes, with the fault's address
(R314). -/
def State.raceCheck (s : State) (p : Nat) (pc : Addr) (mode acc sc : Nat) (ret : Bool) (whole as : List RaceAcc)
    (uni : Option (Verdict × Dword)) : State × Option FaultInfo :=
  let h := s.group p
  let full := fun (gr : Nat) =>
    (whole.filter (fun a => a.granule = gr)).foldl (fun m a => m ||| a.bytes) 0 = 2 ^ 64 - 1
  let rs := as.map (fun a => (a, s.metaFound a, s.raceOne p h (s.metaFound a) acc sc a (full a.granule) ret))
  let count : RaceCount :=
    { loss := (rs.map (·.2.2.count.loss)).sum, stale := (rs.map (·.2.2.count.stale)).sum }
  let found := (rs.filter (fun r => r.2.2.verdict ≠ 0)).map (fun r =>
    let d := (r.2.1).getD 0
    (⟨r.2.2.verdict, r.1.lane, r.1.va, BitVec.ofNat 64 d,
      ((s.liveKey (field d 63 40)).map (·.race.wpc)).getD 0⟩ : Verdict)) ++ (uni.map (·.1)).toList
  let count := if s.rlog.alias_ then { count with loss := count.loss + found.length } else count
  let found := if s.rlog.alias_ then [] else found
  let used := rs.filterMap (fun r => (r.2.1).bind (fun d =>
    if field d 16 15 = 0 then none else some (BitVec.ofNat 24 (field d 63 40))))
  let s := s.raceCount p pc count
  let seen := used.foldl (fun l k => touch k l) h.race.foreign
  let s := s.setGroup p { h with race := { h.race with foreign := seen } }
  match found with
  | v :: vs =>
    let all := v :: vs
    if mode = 1 then
      let seq := s.rlog.head
      let low := vs.foldl (fun a b => if b.lane < a.lane then b else a) v
      (s.raceRecords p pc sc acc true all,
       some { cls := 0x08, lanes := maskOf (all.map (·.lane)),
              addr := if low.type = 4 then (uni.map (·.2)).getD 0 else BitVec.ofNat 64 low.va, rseq := seq })
    else
      let s := s.raceRecords p pc sc acc false all
      let s := s.addPending p (rs.filterMap (·.2.2.pend))
      (as.foldl (fun s a => s.raceUpdate p pc acc sc a) s, none)
  | [] =>
    let s := s.addPending p (rs.filterMap (·.2.2.pend))
    (as.foldl (fun s a => s.raceUpdate p pc acc sc a) s, none)

/-- The race mode that the accesses of the group at a place run under (R301): 0 off, 1 trap, 2 report; a
section's accesses are not checked. -/
def State.raceMode (s : State) (p : Nat) : Nat :=
  if isMast p then 0 else (s.ctx (s.group p).ctx).kernel.race

/-- The race treatment of some units of an instruction on race-checked pages (R301): `acc` is 0 read, 1 write,
2 atomic; `whole` are all its units there, and `uni` is the race of its write of a uniform register. -/
def State.raceSome (s : State) (p : Nat) (pc : Addr) (acc : Nat) (sc : Scope) (ret : Bool)
    (whole us : List (Nat × Nat × Nat)) (uni : Option (Verdict × Dword)) : State × Option FaultInfo :=
  let code := match sc with
    | .g => 0 | .t => 1 | .c => 2 | .d => 3 | .s => 4
  if us.isEmpty && uni.isNone then (s, none)
  else if s.raceMode p = 0 then
    if acc = 0 then (s, none) else (us.foldl (fun s u => s.clearMetas u.2.1 u.2.2) s, none)
  else s.raceCheck p pc (s.raceMode p) acc code ret (raceAccs s whole) (raceAccs s us) uni

/-- The race treatment of all of an instruction's units on race-checked pages (R301). -/
def State.raceUnits (s : State) (p : Nat) (pc : Addr) (acc : Nat) (sc : Scope) (ret : Bool)
    (us : List (Nat × Nat × Nat)) : State × Option FaultInfo :=
  s.raceSome p pc acc sc ret us us none

/-! Clocks and knowledge (R304 to R306). -/

/-- A release of the group at a place: the clock advances, the write set is emptied and the A-bit cleared. -/
def State.noteRelease (s : State) (p : Nat) : State :=
  let g := s.group p
  let gk := g.gk + 1
  let s := if gk = 0 then { s with rlog := { s.rlog with ctl := s.rlog.ctl ||| BitVec.twoPow 64 62 } } else s
  s.setGroup p { g with gk := gk, abit := false, race := { g.race with wset := [] } }

/-- One pending entry committed (R306). -/
def State.commitOne (s : State) (g : Group) (e : BitVec 24 × BitVec 20) : Group :=
  let foreignPut : Group :=
    let f := g.race.foreign
    let f' := match f.find? (fun x => x.1 = e.1) with
      | some x => (e.1, if x.2 < e.2 then e.2 else x.2) :: f.filter (fun x => x.1 != e.1)
      | none => ((e.1, e.2) :: f).take 16
    { g with race := { g.race with foreign := f' } }
  match s.liveKey e.1.toNat with
  | some w =>
    if w.team = g.team && w.ctx = g.ctx then
      let o := g.race.vec.look w.gindex 0
      let n : BitVec 26 := BitVec.ofNat 6 e.1.toNat ++ e.2
      let v := if o.toNat / 2 ^ 20 = e.1.toNat % 64 then (if o.toNat < n.toNat then n else o) else n
      { g with race := { g.race with vec := g.race.vec.put w.gindex v } }
    else foreignPut
  | none => foreignPut

/-- An acquire of the group at a place: the pending list is committed and emptied, the A-bit set (R306). -/
def State.noteAcquire (s : State) (p : Nat) : State :=
  let g := s.group p
  let g := g.race.pending.reverse.foldl (fun g e => s.commitOne g e) g
  s.setGroup p { g with abit := true, race := { g.race with pending := [] } }

/-- The core of a place and its cluster's anchor core. -/
def State.anchorOf (s : State) (p : Nat) : Nat :=
  if isMast p then coreKey p
  else if (s.ctx (s.group p).ctx).kernel.cw = 0 then coreKey p
  else (s.team (s.group p).team).anchor

/-- A release at a scope by the group at a place (R247, R304). -/
def State.release (s : State) (p : Nat) (sc : Scope) : State :=
  let s := if isMast p then s else s.noteRelease p
  s.scopePush (coreKey p) (s.anchorOf p) sc

/-- An acquire at a scope by the group at a place (R247, R306). -/
def State.acquire (s : State) (p : Nat) (sc : Scope) : State :=
  let s := if isMast p then s else s.noteAcquire p
  s.scopeInval (coreKey p) sc

/-! Uniform registers (R104, R314). -/

/-- The race of a write of a uniform register by the issuing group with another group's write in this barrier interval
(R104, R314): its verdict, for the fault with address `addr`. -/
def State.uniformRace (s : State) (r : Nat) (addr : Dword) : Option (Verdict × Dword) :=
  match (s.team s.g.team).kwr.look r none with
  | none => none
  | some w =>
    if s.raceMode s.cur = 0 || ownKey s.cur s.g w.1.toNat then none
    else
      some (⟨4, 0, r, BitVec.ofNat 64 (metaOf w.1.toNat w.2.toNat 0 0 0 0),
        ((s.keyGroup w.1.toNat).map (·.race.wpc)).getD 0⟩, addr)

/-- The issuing group becomes the writer of a uniform register in this barrier interval, and its write the register's
latest in issue order (R104, R314). -/
def State.markUniform (s : State) (r : Nat) : State :=
  let t := s.team s.g.team
  { s.setTeam s.g.team { t with kwr := t.kwr.put r (some (placeKey s.cur s.g, BitVec.ofNat 20 s.g.clock)),
                                kseq := t.kseq.put r s.nextId } with nextId := s.nextId + 1 }

/-- The race of a write of a uniform register keeps it from being written (R104, R313). -/
def State.uniformStops (s : State) (race : Option (Verdict × Dword)) : Bool :=
  race.isSome && s.raceMode s.cur = 1 && !s.rlog.alias_

/-- A `KLD` takes its place among the writers of its register when it issues (R104): what it claims, unless a race keeps it
from writing. -/
def State.claimUniform (s : State) (r : Nat) (addr : Dword) : State × UniClaim :=
  let t := s.team s.g.team
  let race := s.uniformRace r addr
  if s.uniformStops race then (s, { race := race })
  else (s.markUniform r, { race := race, seq := some s.nextId, prev := t.kwr.look r none, prevSeq := t.kseq.look r 0 })

/-- A `KLD` that a fault stops gives its place back: the register's writer before it is its writer again, unless another write or a
new interval has come since (R15, R104; log entry 54). -/
def State.unclaimUniform (s : State) (r : Nat) (u : UniClaim) : State :=
  let t := s.team s.g.team
  if u.seq = some (t.kseq.look r 0) then
    let mine := ((t.kwr.look r none).map (·.1)) = some (placeKey s.cur s.g)
    s.setTeam s.g.team { t with kwr := if mine then t.kwr.put r u.prev else t.kwr, kseq := t.kseq.put r u.prevSeq }
  else s

/-- A write of a uniform register by the issuing group: the single-writer check, then the register's writer. `addr` is
the fault's address. -/
def State.uniformWrite (s : State) (r : Nat) (addr : Dword) : State × Option FaultInfo :=
  match s.raceSome s.cur s.sl.pc 0 .g false [] [] (s.uniformRace r addr) with
  | (s, some f) => (s, some f)
  | (s, none) => (s.markUniform r, none)

end Sys2Proof.Machine
end

