-- ==== Sys2Proof/Machine/Access.lean ====
section
/-! DEFINITION. The accesses of memory instructions (R145 to R151): the units of the active lanes and the
checks of R146 on them, how one unit is read and written at its point of coherence, and what a remote unit
waits for (R147). -/

namespace Sys2Proof.Machine

open Sys2Proof

/-! Lines that a package's L2 and L1 fill: sketch occurrences and access counts (R387, R435). -/

/-- The access count of the page of an address raised by one; reaching MIGCFG.thresh sends F2 a hint (R387). -/
def State.addAcnt (s : State) (va : Nat) : State :=
  match walk s va with
  | .present e =>
    let n := min 4095 (e.acnt + 1)
    let s := s.putDword (e.entry + 8) (BitVec.ofNat 64 (n * 2 ^ 52 + e.twin))
    if e.acnt < n && n = field s.migcfg.toNat 63 52 then
      ({ s with hints := s.hints ++ [BitVec.ofNat 57 va] } : State).post .hint 2 (memorySource (homeDie e.entry)) 0 (BitVec.ofNat 64 va)
    else s
  | _ => s

/-- A fill brings some of a line into its L2 home slice: the line's first counts as an L2 miss, and one from anywhere
but local HBM as a remote fill with its access count (R387, R435; log entry 52). -/
def State.touchLine (s : State) (p : Nat) (pc : Addr) (va line : Nat) : State :=
  let l := s.l2line.look line {}
  if l.filled then s
  else
    let s := { s with l2line := s.l2line.put line { l with filled := true } }.count p pc 4 1
    if 0x10000000000 ≤ 128 * line && !isAperture (128 * line) then (s.count p pc 5 1).addAcnt va else s

/-- A unit's words, by number. -/
def unitWords (key n : Nat) : List Nat := (List.range ((key + n + 3) / 4 - key / 4)).map (fun i => key / 4 + i)
/-- A unit's sectors, by number (R230). -/
def unitSectors (key n : Nat) : List Nat := (List.range ((key + n + 31) / 32 - key / 32)).map (fun i => key / 32 + i)
/-- The lines of words. -/
def linesOf (ws : List Nat) : List Nat := (ws.map (· / 32)).eraseDups

/-- The words among these that their L2 home slices do not hold. -/
def State.l2Missing (s : State) (ws : List Nat) : List Nat := ws.filter fun w => !(s.l2Word w).valid
/-- The words among these that a core's L1 does not hold. -/
def State.l1Missing (s : State) (c : Nat) (ws : List Nat) : List Nat := ws.filter fun w => !(s.l1Word c w).valid

/-- The lines of words that their L2 home slices are about to fill. -/
def State.touchLines (s : State) (p : Nat) (pc : Addr) (va : Nat) (ws : List Nat) : State :=
  (linesOf (s.l2Missing ws)).foldl (fun s l => s.touchLine p pc va l) s

/-- A core's L1 holds some of a line by a fill (R435). -/
def State.l1Filled (s : State) (c line : Nat) : Bool :=
  (List.range 32).any fun i => let x := s.l1Word c (line * 32 + i); x.valid && x.fill

/-- What a unit brings into the caches before it is performed: an L1 miss for each line that its first fill brings, and
what the L2 fills for it. -/
def State.touchUnit (s : State) (p : Nat) (pc : Addr) (sc : Scope) (loc : Loc) (va n : Nat) (write : Bool) : State :=
  let ws := unitWords loc.key n
  match loc with
  | .spad _ _ => s
  | .desc _ _ => s
  | _ =>
    if write && 4 ≤ n then s
    else
      match pointOf (coreKey p) (s.anchorOf p) sc loc with
      | .l1 c =>
        let miss := s.l1Missing c ws
        let lines := (linesOf miss).filter fun l => !s.l1Filled c l
        let s := if lines.isEmpty then s else s.count p pc 3 lines.length
        s.touchLines p pc va ((miss.map (· / 8)).eraseDups.flatMap fun x => (List.range 8).map (x * 8 + ·))
      | .peer => s
      | .home => if isHostPa loc.key then s else s.touchLines p pc va ws
      | .slice => s.touchLines p pc va ws

/-! Host and peer memory. -/

/-- The PCI Express port that carries a request for a host line: 0 on die 0, 1 on die 4 (R404). -/
def State.hostPort (s : State) (a : Nat) : Nat :=
  let p := if homeDie a ≤ 3 then 0 else 1
  if s.pcieDown.look p false then 1 - p else p

/-- Some PCI Express port is up. -/
def State.hostUp (s : State) : Bool := !(s.pcieDown.look 0 false && s.pcieDown.look 1 false)

/-- The bytes lie in one range of the physical map that has memory. -/
def State.physOk (s : State) (a n : Nat) : Bool :=
  a + n ≤ 0xC000000000 || (s.tier2 && 0x10000000000 ≤ a && a + n ≤ 0x30000000000) || (2 ^ 51 ≤ a && a + n ≤ 2 ^ 52)

/-- The bytes can be written: they are in the map, and reached by a port if they are the host's. -/
def State.writable (s : State) (a n : Nat) : Bool := s.physOk a n && (s.hostUp || !isHostPa a)

/-- The slice holds a far line admitted under a key, 0 for the host's (R147). -/
def State.admitted (s : State) (key : Word) (line : Nat) : Bool := (s.l2line.look line {}).keys.contains key
/-- A unit must be answered by its peer before it is performed (R147): every unit at `.s`; below `.s` one of
a line that is not admitted under its key, or of which a needed word is not valid. -/
def State.unitWaits (s : State) (sc : Scope) (loc : Loc) (n : Nat) (needsData : Bool) : Bool :=
  match loc with
  | .peer _ key _ =>
    sc = .s || !s.admitted key (loc.key / 128) ||
      (needsData && (unitWords loc.key n).any (fun w => !(s.l2Word w).valid))
  | _ => false

/-- The little-endian words of bytes, each poisoned when a byte of it is. -/
def wordsOf (bs : List (Byte × Bool)) : List PWord :=
  (List.range (bs.length / 4)).map fun j =>
    let c := (bs.drop (4 * j)).take 4
    { val := BitVec.ofNat 32 (ofBytes (c.map (·.1))), poison := c.any (·.2) }

/-- The merging fill of sectors of peer memory from an answer, poisoned word by word (R231, R425). -/
def State.fillPeer (s : State) (sectors : List Nat) (bytes : List (Byte × Bool)) : State :=
  ((sectors.flatMap fun x => (List.range 8).map (x * 8 + ·)).zip (wordsOf bytes)).foldl (fun s e =>
    if (s.l2Word e.1).valid then s else s.setL2 e.1 { val := e.2.val, valid := true, poison := e.2.poison }) s

/-- A unit's lines admitted under a key. -/
def State.admitUnit (s : State) (key : Word) (loc : Loc) (n : Nat) : State :=
  (linesOf (unitWords loc.key n)).foldl (fun s l => s.admitLine key l) s

/-- A unit's answer taken into the slice, for a peer unit of `n` bytes below `.s` (R147): the sectors that it fills, or the
acknowledgment of a zero-length read; either way its lines are admitted under the unit's key. -/
def State.takeAnswer (s : State) (sc : Scope) (loc : Loc) (n : Nat) (a : Option RemAns) : State :=
  if sc = .s then s
  else
    match loc with
    | .peer _ key _ =>
      (match a with
        | some (.data bytes) => (s.fillPeer (unitSectors loc.key n) bytes).admitUnit key loc n
        | some .ack => s.admitUnit key loc n
        | _ => s)
    | _ => s

/-! One unit. -/

/-- Bytes whose value the spec leaves open (log entry 5). -/
def State.freeBytes (s : State) (n : Nat) : State × List (Byte × Bool) :=
  ({ s with draws := s.draws + n },
   (List.range n).map (fun i => ((Config.freeWord (s.draws + i)).setWidth 8, false)))

/-- Bytes read at a translated place by the group at a place (R232): the descriptor window from the
context's descriptor (for a section of a peer's hoist, free), else memory. -/
def State.readLoc (s : State) (p : Nat) (loc : Loc) (n : Nat) (sc : Scope) : State × List (Byte × Bool) :=
  match loc with
  | .desc c off =>
    match (s.group p).sect with
    | some x =>
      if x.own then (s, (List.range n).map (fun i => (ctxDesc (s.ctx c) (off + i), false)))
      else s.freeBytes n
    | none => (s, (List.range n).map (fun i => (ctxDesc (s.ctx c) (off + i), false)))
  | _ => s.memReadAt (coreKey p) (s.anchorOf p) loc n sc

/-- A unit read when nothing of it is outstanding: at `.s` from a peer it is the answer's bytes. -/
def State.readUnit (s : State) (p : Nat) (pc : Addr) (sc : Scope) (u : HoldUnit) : State × List (Byte × Bool) :=
  let remote : Bool := match u.loc with
    | .peer _ _ _ => sc == .s
    | _ => false
  if remote then
    match u.answer with
    | some (.data bytes) => (s, (List.range u.bytes).map (fun i => bytes.getD i (0, false)))
    | _ => (s, (List.range u.bytes).map (fun _ => (0, false)))
  else
    ((s.touchUnit p pc sc u.loc u.va u.bytes false).takeAnswer sc u.loc u.bytes u.answer).readLoc p u.loc u.bytes sc

/-- The slice's valid copies of words that a write at `.s` reaches are updated (R232). They are clean, as dirty ones were pushed before
the write was sent; one that another group has made dirty since keeps its bytes and is pushed later (R150). -/
def State.updateSlice (s : State) (key : Nat) (bs : List Byte) : State :=
  (wordParts key bs.length).foldl (fun s e =>
    let x := s.l2Word e.1
    let part := (bs.drop e.2.2.1).take e.2.2.2
    if x.valid then
      s.setL2 e.1 { x with val := mergeBytes x.val e.2.1 part, poison := x.poison && part.length ≠ 4 }
    else s) s

/-- Bytes written at a translated place (R232). -/
def State.writeUnit (s : State) (p : Nat) (pc : Addr) (sc : Scope) (loc : Loc) (va : Nat)
    (a : Option RemAns) (bs : List Byte) : State :=
  let remote : Bool := match loc with
    | .peer _ _ _ => sc == .s
    | _ => false
  if remote then s.updateSlice loc.key bs
  else
    let s := (s.touchUnit p pc sc loc va bs.length true).takeAnswer sc loc bs.length a
    s.memWriteAt (coreKey p) (s.anchorOf p) loc bs sc

/-- The slice's dirty copies of the words of a peer unit at `.s` sent to the peer first (R150). -/
def State.pushUnit (s : State) (sc : Scope) (loc : Loc) (n : Nat) : State :=
  match loc with
  | .peer _ _ _ => if sc != .s then s else (unitWords loc.key n).foldl (fun s w => s.pushFarWord w) s
  | _ => s

/-! The units of an instruction. -/

/-- The offset of lane `l` for a unit of `b` bytes (R30); a step of `LDN` counts blocks. -/
def memOff (g : Group) (o : MOff) (b l : Nat) : Nat :=
  match o with
  | .vec r => (g.getV r.toNat l).val.toNat
  | .step e => l * b + e.toNat * 32 * b

/-- The vector register of an offset operand. -/
def offReg : MOff → List Nat
  | .vec r => [r.toNat]
  | .step _ => []

/-- The bytes of a size code (R30). -/
def sizeBytes : Size → Nat
  | .byte => 1 | .half => 2 | .word => 4 | .dword => 8 | .quad => 16
/-- The registers that a size uses (R148). -/
def sizeRegs : Size → Nat
  | .byte => 1 | .half => 1 | .word => 1 | .dword => 2 | .quad => 4

/-- The registers that a memory instruction names, which its decode checks whatever lanes are active (R34), and the checks 1 to 3
of R146 for lanes that access something: decode, poison, the register. -/
def memCheck (g : Group) (x : BitVec 3) (lanes : Word) (named ok : Bool) (srcs : List Nat) : Chk Unit := do
  need named { opnd with lanes := lanes }
  if lanes = 0 then .ok ()
  else
    need ok { opnd with lanes := lanes }
    checkPoison g lanes srcs
    need (!(g.getX x.toNat).poison) (poisonOf 4 x.toNat lanes)
    need (g.getX x.toNat).valid { opnd with lanes := lanes }

/-- A unit with its translation. -/
structure MUnit where
  lane : Nat
  reg : Nat
  va : Nat
  bytes : Nat
  tr : Chk Trans

/-- The units of lanes: unit `j` of a lane lies 4j after its offset (R145). -/
def mkUnits (s : State) (x : BitVec 3) (lanes : List Nat) (n bytes : Nat) (off : Nat → Nat) (k : Need) : List MUnit :=
  let xr := s.g.getX x.toNat
  (List.range n).flatMap fun j => lanes.map fun l =>
    { lane := l, reg := j, va := xr.base.toNat + off l + 4 * j, bytes := bytes,
      tr := translateUnit s s.cur xr (off l + 4 * j) bytes k }

/-- The faulting units. -/
def badUnits (us : List MUnit) : List (Nat × Nat × FaultInfo) :=
  us.filterMap fun u => match u.tr with
    | .error f => some (u.lane, u.va, f)
    | .ok _ => none

/-- The units that translate, with their translations. -/
def goodUnits (us : List MUnit) : List (MUnit × Trans) :=
  us.filterMap fun u => match u.tr with
    | .ok t => some (u, t)
    | .error _ => none

/-- The units on race-checked pages, for the race check. -/
def raceList (us : List HoldUnit) : List (Nat × Nat × Nat) :=
  (us.filter (·.rc)).map (fun u => (u.lane, u.va, u.bytes))

/-- A unit as the hold keeps it. -/
def holdUnit (s : State) (sc : Scope) (needsData : Bool) (data : Nat → Nat → List Byte)
    (compare : Nat → List Byte) (u : MUnit × Trans) : HoldUnit :=
  { lane := u.1.lane, reg := u.1.reg, va := u.1.va, loc := u.2.loc, bytes := u.1.bytes,
    data := data u.1.lane u.1.reg, compare := compare u.1.lane, rc := u.2.rc,
    waits := s.unitWaits sc u.2.loc u.1.bytes (needsData || u.1.bytes < 4), answer := none }

/-! The outstanding-transaction table (R261, R262). -/

/-- The remote units of these instructions are operations of the table (R259). -/
def usesTable : Instr → Bool
  | .ld _ _ _ _ _ => true
  | .ldn _ _ _ _ _ => true
  | .st _ _ _ _ _ => true
  | .stn _ _ _ _ _ => true
  | .atom _ _ _ _ _ => true
  | .atomr _ _ _ _ _ => true
  | _ => false

/-- The table entries that an instruction's remote units need: one for each target line (R147, R259). -/
def txLines (i : Instr) (us : List HoldUnit) : Nat :=
  if usesTable i then ((us.filter fun u => isFar u.loc.key).map (·.loc.key / 128)).eraseDups.length else 0

/-- The entries that a group's hold has in use. -/
def Group.holdLines (g : Group) : Nat :=
  match g.hold with
  | some h => txLines h.instr (h.units.filter (·.answer.isNone))
  | none => 0
/-- How many of them are reserved ones. -/
def Group.holdReserved (g : Group) : Nat :=
  match g.hold with
  | some h => min g.holdLines h.res
  | none => 0

/-- The reserved entries of a group slot that are in use. -/
def State.txReserved (s : State) (p : Nat) : Nat :=
  (s.xfers.filter (fun x => x.place = p && !x.shared)).length + (s.group p).holdReserved

/-- The shared entries of a core that are in use. -/
def State.txShared (s : State) (core : Nat) : Nat :=
  (s.xfers.filter (fun x => coreKey x.place = core && x.shared)).length +
    ((s.groups.filter (fun e => coreKey e.1 = core)).map (fun e => e.2.holdLines - e.2.holdReserved)).sum

/-- The reserved entries that the issuing instruction takes when it needs `n`, or none when it must wait for
shared ones (R262). A mast core has no table. -/
def State.txRoom (s : State) (n : Nat) : Option Nat :=
  let core := coreKey s.cur
  let free := 4 - s.txReserved s.cur
  let offers := fun (e : Nat × SlotId) =>
    let g := s.group e.1
    g.live && g.fault.isNone && (g.slot e.2).state = .live
  let q := (s.txq.look core []).filter offers
  if n = 0 || isMast s.cur then some n
  else if n ≤ free then some n
  else if n - free ≤ 512 - s.txShared core && (q.isEmpty || q.head? = some (s.cur, s.curSlot)) then some free
  else none

/-- The issuing slot waits for shared entries, behind those that offered before it (R262). -/
def State.txOffer (s : State) : State :=
  let core := coreKey s.cur
  let q := s.txq.look core []
  if q.contains (s.cur, s.curSlot) then s else { s with txq := s.txq.put core (q ++ [(s.cur, s.curSlot)]) }

/-- The issuing slot no longer waits for shared entries. -/
def State.txDone (s : State) : State :=
  let core := coreKey s.cur
  let q := s.txq.look core []
  if q.contains (s.cur, s.curSlot) then { s with txq := s.txq.put core (q.filter (· != (s.cur, s.curSlot))) } else s

/-- An access goes to the host: at `.s`, or below it where the slice does not hold the line admitted, so that it sends a zero-length
read, or lacks a word that the access needs (R147, R150). -/
def State.hostNeeded (s : State) (sc : Scope) (store : Bool) (loc : Loc) (n : Nat) : Bool :=
  isHostPa loc.key && (sc = .s || !s.admitted 0 (loc.key / 128) ||
    (!(store && 4 ≤ n) && !(s.l2Missing (unitWords loc.key n)).isEmpty))

/-- A unit goes to the host, and no port reaches it (R404). -/
def State.hostLost (s : State) (sc : Scope) (store : Bool) (u : HoldUnit) : Bool :=
  !s.hostUp && s.hostNeeded sc store u.loc u.bytes

/-- The units of a hold that their targets have refused, with their faults (R146 conditions 7 and 8). -/
def State.refusals (s : State) (sc : Scope) (store : Bool) (us : List HoldUnit) : List (HoldUnit × FaultInfo) :=
  us.filterMap fun u => match u.answer with
    | some .rkey => some (u, fault 0x09)
    | some .link => some (u, fault 0x0B)
    | _ => if s.hostLost sc store u then some (u, fault 0x0B) else none

/-- The register words that a loaded unit gives (R148): a byte or a half is widened as gm.dtype says. -/
def loadWords (signed : Bool) (bs : List (Byte × Bool)) : List PWord :=
  if bs.length < 4 then
    let x := ofBytes (bs.map (·.1))
    let n := 8 * bs.length
    [{ val := BitVec.ofNat 32 (if signed then wrapTo 32 (signedOf n x) else x), poison := bs.any (·.2) }]
  else wordsOf bs

/-- The bytes of consecutive registers of a lane. -/
def regBytes (g : Group) (r n l : Nat) : List Byte :=
  (List.range n).flatMap fun j => bytesOf 4 (g.getV (r + j) l).val.toNat

/-- Units read one after another: the register words they write from register `d` on. -/
def State.loadUnits (s : State) (p : Nat) (pc : Addr) (sc : Scope) (signed : Bool) (d : Nat)
    (us : List HoldUnit) : State × List RegWrite :=
  us.foldl (fun (st : State × List RegWrite) u =>
    let r := st.1.readUnit p pc sc u
    let ws := loadWords signed r.2
    (r.1, st.2 ++ (List.range ws.length).map (fun j => RegWrite.v (d + u.reg + j) u.lane (ws.getD j {})))) (s, [])

/-- The peer nodes that the group's writes reach by its next release at `.s`: at once, or from the slice by then (R401). -/
def Group.noteNode (g : Group) (n : BitVec 19) : Group :=
  if g.relNodes.contains n then g else { g with relNodes := g.relNodes ++ [n] }

/-- The units of lane after lane, each lane's in order. -/
def byLane (us : List HoldUnit) : List HoldUnit := (List.range 32).flatMap fun l => us.filter (fun u => u.lane = l)

/-- Units written lane after lane, so that the highest lane's value remains (R149). -/
def State.storeUnits (s : State) (p : Nat) (pc : Addr) (sc : Scope) (us : List HoldUnit) : State :=
  (byLane us).foldl (fun s u =>
    let s := s.writeUnit p pc sc u.loc u.va u.answer u.data
    match u.loc with
    | .peer n _ _ => s.setGroup p ((s.group p).noteNode n)
    | _ => s) s

/-! Atomics (R158 to R161). -/

/-- The element type of an atomic, if gm.dtype and the operation are accepted (R158). -/
def atomTy (m : Word) (op : AtomOp) : Option Ty :=
  match tyOf (gmDtype m) with
  | some .f32 =>
    match op with
    | .add | .min | .max | .swap | .cas => some .f32
    | _ => none
  | some t => if t = .s32 || t = .n32 || t = .s64 || t = .n64 then some t else none
  | none => none

/-- The width of an atomic. -/
def atomWidth (t : Ty) : Nat := if ty64 t then 8 else 4

/-- The new value of an atomic's unit: `y` is the operand, for CAS the new value, and `c` the compare value. -/
def atomNew (op : AtomOp) (t : Ty) (old y c : Nat) : Nat :=
  let n := 8 * atomWidth t
  match op with
  | .add =>
    if t = .f32 then finish .f32 0 false false (addNum 0 (decodeNum .f32 false old) (decodeNum .f32 false y))
    else (old + y) % 2 ^ n
  | .and => old &&& y
  | .or => old ||| y
  | .xor => old ^^^ y
  | .min =>
    if t = .f32 then encodeNum .f32 false false 0 (minNum (decodeNum .f32 false old) (decodeNum .f32 false y))
    else if intOf t old ≤ intOf t y then old else y
  | .max =>
    if t = .f32 then encodeNum .f32 false false 0 (maxNum (decodeNum .f32 false old) (decodeNum .f32 false y))
    else if intOf t old ≤ intOf t y then y else old
  | .swap => y
  | .cas => if old = c then y else old

/-- One lane of an atomic at its point of coherence: the old bytes. A poisoned target is left as it is (R151). -/
def State.atomUnit (s : State) (p : Nat) (pc : Addr) (sc : Scope) (op : AtomOp) (t : Ty) (u : HoldUnit) :
    State × List (Byte × Bool) :=
  let r := s.readUnit p pc sc u
  let old := ofBytes (r.2.map (·.1))
  if r.2.any (·.2) then r
  else
    let v := atomNew op t old (ofBytes u.data) (ofBytes u.compare)
    let s := r.1.writeUnit p pc sc u.loc u.va u.answer (bytesOf u.bytes v)
    match u.loc with
    | .peer n _ _ => (s.setGroup p ((s.group p).noteNode n), r.2)
    | _ => (s, r.2)

/-- Lanes of an atomic in ascending order (R161): the old values' register words. -/
def State.atomUnits (s : State) (p : Nat) (pc : Addr) (sc : Scope) (op : AtomOp) (t : Ty) (d : Nat)
    (us : List HoldUnit) : State × List RegWrite :=
  us.foldl (fun (st : State × List RegWrite) u =>
    let r := st.1.atomUnit p pc sc op t u
    let ws := wordsOf r.2
    (r.1, st.2 ++ (List.range ws.length).map (fun j => RegWrite.v (d + j) u.lane (ws.getD j {})))) (s, [])

end Sys2Proof.Machine
end

