-- ==== Sys2Proof/Machine/Hold.lean ====
section
/-! DEFINITION. How a memory instruction ends (R146, R147, R153, R160, R405): at once when no unit waits for
an answer, else when the last answer of its hold is in; the atomics at `.s` on host memory lane by lane. -/

namespace Sys2Proof.Machine

open Sys2Proof

/-- A register word written by the group at a place (R27). -/
def State.applyWrite (s : State) (p : Nat) (w : RegWrite) : State :=
  let g := s.group p
  match w with
  | .v r l x => s.setGroup p (g.setV r l x)
  | .s r x => s.setGroup p { g with s := g.s.put r x }
  | .p r m b => s.setGroup p (g.setPBits r m b)
  | .x r x => s.setGroup p (g.setX r x)
  | .k r seq x =>
    let t := s.team g.team
    if t.kseq.look r 0 = seq then s.setTeam g.team { t with k := t.k.put r x } else s

/-- Register words written in order. -/
def State.applyWrites (s : State) (p : Nat) (l : List RegWrite) : State := l.foldl (fun s w => s.applyWrite p w) s

/-- An effect of another place's slot, with that slot as the issuing one meanwhile. -/
def State.asSlot (s : State) (p : Nat) (sl : SlotId) (f : State → State) : State :=
  { f { s with cur := p, curSlot := sl } with cur := s.cur, curSlot := s.curSlot }

/-- A load with no lane completes as an empty operation (R23). -/
def loadKind (lanes : Word) : PendKind := if lanes = 0 then .empty else .load

/-- The issuing group no longer held. -/
def State.endHold (s : State) : State := s.setG { s.g with hold := none }

/-- The units of whole registers below `k`. -/
def below (k : Nat) (us : List HoldUnit) : List HoldUnit := us.filter (fun u => u.reg < k)

/-- A span transfer that stops at register `k` with a fault (R153): the registers before it are transferred. -/
def State.partSpan (s : State) (store : Bool) (sc : Scope) (d k : Nat) (us : List HoldUnit) (f : FaultInfo) : State :=
  let pc := s.sl.pc
  if store then (s.storeUnits s.cur pc sc (below k us)).raise { f with k := k }
  else
    let r := s.loadUnits s.cur pc sc false d (below k us)
    (r.1.applyWrites s.cur r.2).raise { f with k := k }

/-- The first register among refused units, with the fault of that register's refusals (R153). -/
def firstRefused (bad : List (HoldUnit × FaultInfo)) : Nat × FaultInfo :=
  let k := bad.foldl (fun m e => min m e.1.reg) 999
  (k, pickFault ((bad.filter (fun e => e.1.reg = k)).map (fun e => (e.1.lane, e.1.va, e.2))))

/-- The race check of a span: once for the instruction, lane and granule, over the units of the registers that it transfers, before
any of them is (R307, R309; log entry 65). -/
def State.raceSpan (s : State) (acc : Nat) (sc : Scope) (us : List HoldUnit) : State × Option FaultInfo :=
  s.raceUnits s.cur s.sl.pc acc sc false (raceList us)

/-- What stops a span before one of its registers: a target's refusal, or what its issue found (R153). -/
def State.spanStop (s : State) (store : Bool) (sc : Scope) (h : Hold) : Option FaultInfo :=
  let bad := s.refusals sc store h.units
  if bad.isEmpty then h.after else let k := firstRefused bad; some { k.2 with k := k.1 }

/-- The units of a span that are transferred where it stops before a register, or all. -/
def Hold.moved (h : Hold) (stop : Option FaultInfo) : List HoldUnit :=
  match stop with
  | some f => below f.k h.units
  | none => h.units

/-- A span transfer performed (R152, R153): its race check, then register by register up to the first that another condition of R146
stops, or whole. -/
def State.performSpan (s : State) (store : Bool) (sc : Scope) (d : Nat) (h : Hold) : State :=
  let stop := s.spanStop store sc h
  let us := h.moved stop
  match (if h.raced then (s, none) else s.raceSpan (oneIf store) sc us) with
  | (s, some f) => s.raise f
  | (s, none) =>
    match stop with
    | some f => s.partSpan store sc d f.k us f
    | none =>
      if store then (s.storeUnits s.cur s.sl.pc sc us).advance
      else
        let l := s.loadUnits s.cur s.sl.pc sc false d us
        (l.1.startLong (loadKind h.lanes) l.2).advance

/-- The lanes of a predicate that `LDP` sets or clears (R154): those whose units were all present. -/
def presentLanes (us : List HoldUnit) : Word := maskOf (us.map (·.lane))

/-- The lanes of an `LDP` outside those present, in order. -/
def absentLanes (lanes : Word) (us : List HoldUnit) : List Nat := lanesOf (lanes &&& ~~~(presentLanes us))

/-- The bytes of a sequenced atomic's answers as register words (R158). -/
def answerWrites (d : Nat) (us : List HoldUnit) : List RegWrite :=
  us.flatMap fun u =>
    match u.answer with
    | some (.data bytes) =>
      let ws := wordsOf bytes
      (List.range ws.length).map (fun j => RegWrite.v (d + j) u.lane (ws.getD j {}))
    | _ => []

/-- The issuing group with granules of its allotment handed back (R136). -/
def State.fewerGranules (s : State) (n : Nat) : State := s.setG { s.g with vgran := s.g.vgran - n }

/-- Vector registers from `lo` on, `n` of them, stored word by word from SPILL upward (R134): ordinary stores at
`.g` that no race check sees; a poisoned register word is stored poisoned. -/
def State.storeSpill (s : State) (p lo n : Nat) : State :=
  (List.range n).foldl (fun s j =>
    let g := s.group p
    match translateVa s p (g.spill.toNat + 128 * j) with
    | .error _ => s
    | .ok t =>
      (List.range 32).foldl (fun s l =>
        let w := g.getV (lo + j) l
        let loc := match t.loc with
          | .phys a => Loc.phys (a + 4 * l)
          | .desc c o => .desc c (o + 4 * l)
          | .spad c o => .spad c (o + 4 * l)
          | .peer n k a => .peer n k (a + 4 * l)
        s.memWriteAt (coreKey p) (s.anchorOf p) loc (bytesOf 4 w.val.toNat) .g w.poison)
        (s.touchUnit p s.sl.pc .g t.loc (g.spill.toNat + 128 * j) 128 true)) s

/-- The answers of units that the slice takes, for an instruction that issues again or goes on elsewhere. -/
def State.takeAnswers (s : State) (us : List HoldUnit) : State :=
  us.foldl (fun s u => (s.touchUnit s.cur s.sl.pc .g u.loc u.va u.bytes false).takeAnswer .g u.loc u.bytes u.answer) s

/-- The kind of access that a memory instruction's race check sees (R301, R306): 0 read, 1 write, 2 atomic, and whether an
atomic returns what it reads. -/
def raceKind : Instr → Nat × Bool
  | .st _ _ _ _ _ => (1, false)
  | .stn _ _ _ _ _ => (1, false)
  | .atom _ _ _ _ _ => (2, false)
  | .atomr _ _ _ _ _ => (2, true)
  | _ => (0, false)

/-- The scope of a memory instruction, and whether it stores only. -/
def memScope : Instr → Scope × Bool
  | .ld sc _ _ _ _ => (sc, false)
  | .ldn sc _ _ _ _ => (sc, false)
  | .st sc _ _ _ _ => (sc, true)
  | .stn sc _ _ _ _ => (sc, true)
  | .atom sc _ _ _ _ => (sc, false)
  | .atomr sc _ _ _ _ => (sc, false)
  | _ => (.g, false)

/-- The conditions 7 to 10 of R146 for an instruction of one unit a lane, whose targets have answered: refusals first, then
the race check, with the race of a uniform register that a `KLD` found at its issue (R104, R314), unless it came before the first
message; `RCMARK` is not race-checked (R165). -/
def State.lastChecks (s : State) (h : Hold) : State × Option FaultInfo :=
  let k := memScope h.instr
  match s.refusals k.1 k.2 h.units with
  | b :: bs => (s, some (pickFault ((b :: bs).map (fun e => (e.1.lane, e.1.va, e.2)))))
  | [] =>
    let us := raceList h.units
    match h.instr with
    | .rcmark _ _ => (s, none)
    | _ =>
      if h.raced then (s, none)
      else s.raceSome s.cur s.sl.pc (raceKind h.instr).1 k.1 (raceKind h.instr).2 us us (h.uni.bind (·.race))

/-- The number of a `KLD`'s write, which it took at its issue unless a race held it back then. -/
def State.kldSeq (s : State) (r : Nat) (h : Hold) : State × Nat :=
  match h.uni.bind (·.seq) with
  | some n => (s, n)
  | none => (s.markUniform r, s.nextId)

/-- The effect of an instruction of one unit a lane that meets no condition of R146, and the slot past its word. -/
def State.performUnits (s : State) (h : Hold) : State :=
  let pc := s.sl.pc
  let m := s.sl.gm
  let signed := ((tyOf (gmDtype m)).map tyS).getD false
  match h.instr with
  | .ld sc _ d _ _ =>
    let r := s.loadUnits s.cur pc sc signed d.toNat h.units
    (r.1.startLong (loadKind h.lanes) r.2).advance
  | .ldp p z d _ _ =>
    let r := s.loadUnits s.cur pc .g signed d.toNat h.units
    let zeros := (absentLanes h.lanes h.units).flatMap fun l =>
      (List.range (sizeRegs z)).map fun j => RegWrite.v (d.toNat + j) l {}
    let n := match p with
      | .p1 => 1 | .p2 => 2 | .p3 => 3 | .p4 => 4 | .p5 => 5 | .p6 => 6 | .p7 => 7
    (r.1.startLong (loadKind h.lanes) (r.2 ++ zeros ++ [RegWrite.p n h.lanes (presentLanes h.units)])).advance
  | .st sc _ _ _ _ => (s.storeUnits s.cur pc sc h.units).advance
  | .atom sc op _ _ _ =>
    match atomTy m op with
    | some t => (s.atomUnits s.cur pc sc op t 0 h.units).1.advance
    | none => s.advance
  | .atomr sc op _ d _ =>
    match atomTy m op with
    | some t =>
      let r := s.atomUnits s.cur pc sc op t d.toNat h.units
      (r.1.startLong (if h.lanes = 0 then .empty else .atomr) r.2).advance
    | none => s.advance
  | .kld d _ _ =>
    let c := s.kldSeq d.toNat h
    let r := h.units.foldl (fun (st : State × List PWord) u =>
      let r := st.1.readUnit s.cur pc .g u
      (r.1, wordsOf r.2)) (c.1, [])
    let lo := r.2.getD 0 {}
    let hi := r.2.getD 1 {}
    let w : PDword := { val := hi.val ++ lo.val, poison := lo.poison || hi.poison }
    (r.1.startLong .load [RegWrite.k d.toNat c.2 w]).advance
  | .rcmark _ _ => ((raceList h.units).foldl (fun s u => s.clearMeta u.2.1) (s.takeAnswers (h.units.filter fun u => isFar u.loc.key))).advance
  | _ => s.takeAnswers h.units

/-- A `KLD` that stops gives back what it claimed. -/
def State.unclaim (s : State) (h : Hold) : State :=
  match h.instr, h.uni with
  | .kld d _ _, some u => s.unclaimUniform d.toNat u
  | _, _ => s

/-- A memory instruction of the issuing slot performed, when every unit that waited has its answer: its
effect and the slot past its word, or the fault that a refusal, the race check or a later register raises. A control
instruction whose lines the slice has now admitted issues again. -/
def State.performMem (s : State) (h : Hold) : State :=
  let s := s.endHold
  match h.instr with
  | .ldn sc _ d _ _ => s.performSpan false sc d.toNat h
  | .stn sc _ d _ _ => s.performSpan true sc d.toNat h
  | .reggrow n =>
    match s.refusals .g false h.units with
    | b :: bs =>
      let f := firstRefused (b :: bs)
      ((s.setSl { s.sl with state := .live }).fewerGranules n.toNat).raise { f.2 with k := f.1, lanes := BitVec.allOnes 32 }
    | [] => s.takeAnswers h.units
  | .regshrink n =>
    let t := s.takeAnswers h.units
    match s.refusals .g true h.units with
    | b :: bs =>
      let f := firstRefused (b :: bs)
      (t.storeSpill t.cur (8 * (t.g.vgran - n.toNat)) f.1).raise { f.2 with k := f.1, lanes := BitVec.allOnes 32 }
    | [] => t
  | _ =>
    match s.lastChecks h with
    | (s, some f) => (s.unclaim h).raise f
    | (s, none) => s.performUnits h

/-! Atomics at `.s` on host memory, lane by lane (R160, R405). -/

/-- The operation as an atomic of an instruction. -/
def atomOf : Instr → Option (AtomOp × BitVec 8 × Bool)
  | .atom _ op _ d _ => some (op, d, false)
  | .atomr _ op _ d _ => some (op, d, true)
  | _ => none

/-- The operation has a PCI Express AtomicOp (R160). -/
def hasAtomicOp (op : AtomOp) (t : Ty) : Bool :=
  match op with
  | .add => t != .f32
  | .swap | .cas => true
  | _ => false

/-- The op code of a fallback entry (R407). -/
def fallbackCode (op : AtomOp) (t : Ty) : Nat :=
  match op with
  | .add => if t = .f32 then 10 else 0
  | .swap => 1
  | .cas => 2
  | .and => 3
  | .or => 4
  | .xor => 5
  | .min => if t = .f32 then 11 else if tyS t then 6 else 8
  | .max => if t = .f32 then 12 else if tyS t then 7 else 9

/-- The fallback attribute of a host address: false in no host region (R391). -/
def State.fallbackAt (s : State) (a : Nat) : Bool :=
  s.regions.any (fun r => r.attr.getLsbD 4 && r.attr.getLsbD 3 && r.base ≤ a && a < r.base + r.len)

/-- A one-at-a-time atomic stopped at unit `i` (R405): its earlier lanes stand. -/
def State.stopSeq (s : State) (h : Hold) (i : Nat) (f : FaultInfo) : State :=
  let rest := h.units.drop i
  let va := ((rest.head?).map (·.va)).getD 0
  s.endHold.raise { f with lanes := maskOf (rest.map (·.lane)), addr := BitVec.ofNat 64 va }

/-- The entries that the host request ring holds (R406). -/
def HostRing.entries (r : HostRing) : Nat := 2 ^ (6 + field r.ctl.toNat 55 52)
/-- The ring is enabled and has room for `n` entries (R406). -/
def HostRing.fits (r : HostRing) (n : Nat) : Bool := r.ctl.getLsbD 63 && (r.tail - r.head).toNat + n ≤ r.entries
/-- The place of an entry of the host request ring (R406). -/
def HostRing.place (r : HostRing) (i : Word) : Nat :=
  2 ^ 51 + (field r.ctl.toNat 51 12 * 2 ^ 12 + 64 * (i.toNat % r.entries)) % 2 ^ 51

/-- One entry written at the host request ring's tail: what the package writes of it, 0x00 to 0x2F (R407). The answer
field after that is the host's. -/
def State.putRing (s : State) (ds : List Dword) : State :=
  let s := s.devWrite (s.hr.place s.hr.tail) (bytesOfDwords ds)
  { s with hr := { s.hr with tail := s.hr.tail + 1 } }

/-- The first two dwords of an entry (R407). -/
def ringHead (kind : Nat) (node : BitVec 19) (key : BitVec 24) (seq : Word) (n lane count : Nat) : List Dword :=
  [BitVec.ofNat 64 (kind * 2 ^ 56 + node.toNat * 2 ^ 24 + key.toNat),
   BitVec.ofNat 64 (seq.toNat * 2 ^ 32 + n * 2 ^ 16 + lane * 2 ^ 8 + count)]

/-- The outstanding unit of a fallback call: its entry written when the ring has room (R405, R406). -/
def State.putFallback (s : State) (h : Hold) (u : HoldUnit) (op : AtomOp) (t : Ty) : State :=
  let s := (unitWords u.loc.key u.bytes).foldl (fun s w => s.pushHost w) s
  if s.hr.fits 1 then
    let a := s.hr.place s.hr.tail
    let s := s.putRing (ringHead 2 s.node (placeKey s.cur s.g) (h.fall.getD 0) 0 u.lane h.count ++
      [BitVec.ofNat 64 (u.loc.key - 2 ^ 51), BitVec.ofNat 64 (ofBytes u.data),
       BitVec.ofNat 64 (if op = .cas then ofBytes u.compare else 0),
       BitVec.ofNat 64 (fallbackCode op t + atomWidth t * 2 ^ 4)])
    (s.setG { s.g with hold := some { h with entry := a, room := false } }).interrupt 0
  else s.setG { s.g with hold := some { h with room := true } }

/-- The number of units of a hold on host memory. -/
def hostCount (us : List HoldUnit) : Nat := (us.filter (fun u => isHostPa u.loc.key)).length

/-- A refused host lane (R160, R405): the fallback call begins where the region's attribute allows it, else
`FLT.SYSATOM` with the completion status. -/
def State.refuseLane (s : State) (h : Hold) (u : HoldUnit) (op : AtomOp) (t : Ty) (status : BitVec 16) : State :=
  if s.fallbackAt u.loc.key then
    let h := { h with fall := some s.hr.call, count := hostCount (h.units.drop h.done), status := status }
    ({ s with hr := { s.hr with call := s.hr.call + 1 } }).putFallback h u op t
  else s.stopSeq h h.done { fault 0x0D with hcode := status }

/-- A hold with the answer of its unit `i`. -/
def Hold.answer (h : Hold) (i : Nat) (a : RemAns) : Hold :=
  { h with units := (h.units.zipIdx).map (fun e => if e.2 = i then { e.1 with answer := some a } else e.1) }

/-- The lanes of a one-at-a-time atomic from unit `h.done` on, until one must wait (R405). -/
def State.runSeq (s : State) (op : AtomOp) (t : Ty) (d : Nat) (ret : Bool) : List HoldUnit → Hold → State
  | [], h =>
    let s := s.endHold
    if ret then (s.startLong .atomr (answerWrites d h.units)).advance else s.advance
  | u :: rest, h =>
    let wait := fun (s : State) => s.setG { s.g with hold := some h }
    match u.loc with
    | .peer n _ _ => wait ((s.pushUnit .s u.loc u.bytes).setG ((s.pushUnit .s u.loc u.bytes).g.noteNode n))
    | _ =>
      if isHostPa u.loc.key then
        if h.fall.isSome then s.putFallback h u op t
        else if !s.hostUp then s.stopSeq h h.done (fault 0x0B)
        else if hasAtomicOp op t then wait ((unitWords u.loc.key u.bytes).foldl (fun s w => s.pushHost w) s)
        else s.refuseLane h u op t 0
      else
        let r := s.atomUnit s.cur s.sl.pc .s op t u
        let h := h.answer h.done (.data r.2)
        runSeq r.1 op t d ret rest { h with done := h.done + 1 }

/-- A held one-at-a-time atomic goes on after the answer of its outstanding lane. -/
def State.nextSeq (s : State) (h : Hold) (a : RemAns) : State :=
  match atomOf h.instr, atomTy s.sl.gm (((atomOf h.instr).map (·.1)).getD .add) with
  | some (op, d, ret), some t =>
    let h := { (h.answer h.done a) with done := h.done + 1 }
    s.runSeq op t d.toNat ret (h.units.drop h.done) h
  | _, _ => s

/-- The hold is a one-at-a-time atomic (R405). -/
def Hold.sequenced (h : Hold) : Bool :=
  (match h.instr with
    | .atom sc _ _ _ _ => sc == .s
    | .atomr sc _ _ _ _ => sc == .s
    | _ => false) && h.units.any (fun u => isHostPa u.loc.key)

/-- The units that one atomic performs one after another on host memory with nothing between them (R161, R252, R405): of
a group's hold, the unit of a lane that is done, while a later lane that is still to be sent names it too. -/
def Hold.locked (h : Hold) : List (Nat × Nat) :=
  if !h.sequenced || h.fall.isSome then []
  else
    let rest := (h.units.drop h.done).map (·.loc.key)
    ((h.units.take h.done).filter (fun u => rest.contains u.loc.key)).map (fun u => (u.loc.key, u.bytes))

/-- The units that more than one lane of an atomic names. -/
def Hold.twice (h : Hold) : List Nat :=
  (h.units.map (·.loc.key)).filter fun k => (h.units.filter fun u => u.loc.key = k).length > 1

/-- Another group's one-at-a-time atomic has begun, and one of the two names a unit of the other's in more than one lane: the atomic
at a place that has not begun yet comes after it, so that the lanes of either are consecutive on the unit (R161, R252). -/
def State.mustYield (s : State) (p : Nat) (h : Hold) : Bool :=
  h.done = 0 && s.groups.any fun e => e.1 != p && (match e.2.hold with
    | some x => x.sequenced && x.fall.isNone && 0 < x.done && x.done < x.units.length &&
        (h.twice ++ x.twice).any fun k => (h.units.any fun u => u.loc.key = k) && x.units.any fun u => u.loc.key = k
    | none => false)

/-- Bytes of the flat key space that lie in a unit which an atomic of some group holds between its lanes. -/
def State.locked (s : State) (a n : Nat) : Bool :=
  s.groups.any fun e => match e.2.hold with
    | some h => h.locked.any fun u => a < u.1 + u.2 && u.1 < a + n
    | none => false

/-- The instruction's messages take effect at its targets: a store or an atomic at `.s` (R147). -/
def writesAtTarget (i : Instr) (sc : Scope) : Bool := sc = .s && (raceKind i).1 ≠ 0

/-- The race check that comes before any unit takes effect (R146, R309), for an instruction whose messages take effect at their
targets: with what the issue can tell of the other conditions. -/
def State.raceFirst (s : State) (h : Hold) : State × Option FaultInfo :=
  match h.instr with
  | .stn sc _ _ _ _ => s.raceSpan 1 sc (h.moved (s.spanStop true sc h))
  | _ => s.lastChecks h

/-- A `KLD`'s place among the writers of its register, which it takes when it issues (R104). -/
def State.claim (s : State) (h : Hold) : State × Hold :=
  match h.instr with
  | .kld d _ _ =>
    let r := s.claimUniform d.toNat (BitVec.ofNat 64 (((h.units.head?).map (·.va)).getD 0))
    (r.1, { h with uni := some r.2 })
  | _ => (s, h)

/-- A memory instruction of the issuing slot whose checks have passed: performed at once, or held until its
units are answered (R147, R405). The race check of one whose messages take effect comes before the first of them. -/
def State.startMem (s : State) (sc : Scope) (h : Hold) : State :=
  let h := { h with saved := s.sl, res := (s.txRoom (txLines h.instr h.units)).getD 0 }
  let r := s.txDone.claim h
  let s := r.1
  let h := r.2
  if h.sequenced then
    match atomOf h.instr, atomTy s.sl.gm (((atomOf h.instr).map (·.1)).getD .add) with
    | some (op, d, ret), some t =>
      match s.raceUnits s.cur s.sl.pc 2 sc ret (raceList h.units) with
      | (s, some f) => s.raise f
      | (s, none) => s.runSeq op t d.toNat ret h.units h
    | _, _ => s
  else if h.units.any (·.waits) then
    match (if writesAtTarget h.instr sc then s.raceFirst h else (s, none)) with
    | (s, some f) => s.raise f
    | (s, none) =>
      let s := h.units.foldl (fun s u => s.pushUnit sc u.loc u.bytes) s
      s.setG { s.g with hold := some { h with raced := writesAtTarget h.instr sc } }
  else s.performMem h

/-- An answer is one that the unit's target or slice may give (R147, R399): at `.s` the unit's data or a
store's acknowledgment; below `.s` the line's data, or the acknowledgment of a zero-length read where no
word is missing. Below `.s` the data are the unit's sectors (R231). -/
def State.answerOk (s : State) (h : Hold) (u : HoldUnit) : RemAns → Bool
  | .rkey => true
  | .link => true
  | .data bytes =>
    if (memScope h.instr).1 = .s then !(memScope h.instr).2 && bytes.length = u.bytes
    else bytes.length = 32 * (unitSectors u.loc.key u.bytes).length
  | .ack =>
    if (memScope h.instr).1 = .s then (memScope h.instr).2
    else ((memScope h.instr).2 && 4 ≤ u.bytes) || (unitWords u.loc.key u.bytes).all (fun w => (s.l2Word w).valid)

/-- The instruction goes register by register to its targets: an `STN` at `.s` (R153). -/
def Hold.stepwise (h : Hold) : Bool :=
  match h.instr with
  | .stn sc _ _ _ _ => sc == .s
  | _ => false

/-- A unit for which nothing is awaited. -/
def HoldUnit.settled (u : HoldUnit) : Bool := !u.waits || u.answer.isSome
/-- A unit that its target has refused, or whose link is lost. -/
def HoldUnit.refused (u : HoldUnit) : Bool := u.answer = some .rkey || u.answer = some .link

/-- A hold has its last answer: every unit's, or, where an instruction goes register by register, those up to a register that has been
refused (R153). -/
def Hold.complete (h : Hold) : Bool :=
  h.units.all (·.settled) ||
    (h.stepwise && h.units.any fun u => u.refused && h.units.all fun v => v.settled || u.reg < v.reg)

/-- The answer to unit `i` of the hold of the issuing group (R147): the last one ends the hold. -/
def State.takeUnit (s : State) (h : Hold) (i : Nat) (a : RemAns) : State :=
  if h.sequenced then
    match a with
    | .rkey => s.stopSeq h i (fault 0x09)
    | .link => s.stopSeq h i (fault 0x0B)
    | a => s.nextSeq h a
  else
    let h := h.answer i a
    if h.complete then s.performMem h
    else s.setG { s.g with hold := some h }

/-- An effect of the instruction that holds the group at a place, with its slot as the issuing one. A group that has ended
while it was held gets the slot back as it stood meanwhile: its accesses are performed, and its slots stay FREE (R215). Views that only the
held access kept are released after it (R143). -/
def State.asHeld (s : State) (p : Nat) (h : Hold) (f : State → State) : State :=
  let g := s.group p
  if !g.ended then (s.asSlot p h.slot f).settleViews p
  else
    let s := (s.setGroup p (g.setSlot h.slot h.saved)).asSlot p h.slot f
    (s.setGroup p ((s.group p).setSlot h.slot {})).settleViews p

/-- The answer to unit `i` of the group at a place (R147). -/
def State.answerUnit (s : State) (p i : Nat) (a : RemAns) : State :=
  match (s.group p).hold with
  | none => s
  | some h =>
    match h.units[i]? with
    | none => s
    | some u =>
      if !u.waits || u.answer.isSome || (h.sequenced && i ≠ h.done) || !s.answerOk h u a then s
      else s.asHeld p h fun s => s.takeUnit h i a

end Sys2Proof.Machine
end

