-- ==== Sys2Proof/Machine/Mem.lean ====
section
/-! DEFINITION. The meanings of the memory, atomic, fence and translation instructions (R142 to R165), and
of the events that complete them. -/

namespace Sys2Proof.Machine

open Sys2Proof

/-- A `PUBLISH` of the group at a place is still to be performed. -/
def State.openPub (s : State) (p : Nat) : Bool := s.pubs.any fun q => q.place = p && q.occ = (s.group p).tag

/-- A slot of the group at a place waits in `REGGROW` for loads of its spill lines (R133). -/
def State.growLoads (s : State) (p : Nat) : Bool :=
  let g := s.group p
  g.spill != 0 && [g.slotA, g.slotB].any fun x => match x.state with
    | .waiting (.reggrow _ _) => true
    | _ => false

/-- No earlier `PUBLISH` of the issuing group is still to be performed: a later access waits for it (R162,
R163, R242). -/
def State.memReady (s : State) : Bool := !s.openPub s.cur

/-- A memory instruction whose units translate: it waits where the transaction table lacks entries for it (R262), or where
an atomic holds one of its units between its lanes (R252), else it starts. -/
def offer (s : State) (sc : Scope) (h : Hold) : Out :=
  if h.units.any (fun u => s.locked u.loc.key u.bytes) then .next s
  else if (s.txRoom (txLines h.instr h.units)).isNone then .next s.txOffer
  else .next (s.startMem sc h)

/-- A memory instruction of one unit a lane: the registers that it names, the conditions 1 to 6 of R146 on its units, then its
start. -/
def memIssue (s : State) (i : Instr) (sc : Scope) (x : BitVec 3) (lanes : Word) (named ok : Bool) (srcs : List Nat)
    (units : List MUnit) (store : Bool) (data : Nat → Nat → List Byte) (compare : Nat → List Byte) : Out :=
  match memCheck s.g x lanes named ok srcs with
  | .error f => .next (s.raise f)
  | .ok _ =>
    match badUnits units with
    | b :: bs => .next (s.raise (pickFault (b :: bs)))
    | [] => offer s sc { slot := s.curSlot, instr := i, lanes := lanes,
                         units := (goodUnits units).map (holdUnit s sc (!store) data compare) }

/-- No data goes with a load's units. -/
def noData : Nat → Nat → List Byte := fun _ _ => []
/-- No compare value goes with a unit. -/
def noCompare : Nat → List Byte := fun _ => []

/-- `LD` (R148). -/
def execLd (sc : Scope) (z : Size) (d : BitVec 8) (x : BitVec 3) (o : MOff) (s : State) : Out :=
  if s.flagFull || !s.memReady then .next s
  else
    match s.g.active s.curSlot with
    | .error f => .next (s.raise f)
    | .ok a =>
      memIssue s (.ld sc z d x o) sc x a (s.g.spanOk d.toNat (sizeRegs z) && (offReg o).all s.g.vOk) true (offReg o)
        (mkUnits s x (lanesOf a) 1 (sizeBytes z) (memOff s.g o (sizeBytes z)) .read) false noData noCompare

/-- `ST` (R148, R149). -/
def execSt (sc : Scope) (z : Size) (d : BitVec 8) (x : BitVec 3) (o : MOff) (s : State) : Out :=
  if !s.memReady then .next s
  else
    match s.g.active s.curSlot with
    | .error f => .next (s.raise f)
    | .ok a =>
      memIssue s (.st sc z d x o) sc x a (s.g.spanOk d.toNat (sizeRegs z) && (offReg o).all s.g.vOk) true
        ((List.range (sizeRegs z)).map (d.toNat + ·) ++ offReg o)
        (mkUnits s x (lanesOf a) 1 (sizeBytes z) (memOff s.g o (sizeBytes z)) .write) true
        (fun l _ => (regBytes s.g d.toNat (sizeRegs z) l).take (sizeBytes z)) noCompare

/-- The registers of a span count field (R152). -/
def spanRegs (n : BitVec 3) : Nat := n.toNat + 1

/-- What stops a span before one of its registers, as far as the issue can tell (R146, R153): a poisoned source, then its
units. -/
def spanFault (g : Group) (a : Word) (srcs : List Nat) (us : List MUnit) : Option FaultInfo :=
  match checkPoison g a srcs, badUnits us with
  | .error f, _ => if a = 0 then none else some f
  | .ok _, b :: bs => some (pickFault (b :: bs))
  | .ok _, [] => none

/-- `LDN` and `STN`: register by register, stopping before the first register that a condition stops (R152, R153). -/
def spanIssue (s : State) (i : Instr) (store : Bool) (sc : Scope) (n : BitVec 3) (d : BitVec 8) (x : BitVec 3)
    (o : MOff) : Out :=
  match s.g.active s.curSlot with
  | .error f => .next (s.raise f)
  | .ok a =>
    let r := spanRegs n
    match memCheck s.g x a (s.g.spanOk d.toNat r && (offReg o).all s.g.vOk) (operandBitsOk i)
        (if store then d.toNat :: offReg o else offReg o) with
    | .error f => .next (s.raise f)
    | .ok _ =>
      let units := mkUnits s x (lanesOf a) r 4 (memOff s.g o (4 * r)) (if store then .write else .read)
      let fails := fun (j : Nat) => spanFault s.g a (if store then [d.toNat + j] else []) (units.filter (fun u => u.reg = j))
      let stop := (List.range r).find? (fun j => (fails j).isSome)
      let k := stop.getD r
      offer s sc
        { slot := s.curSlot, instr := i, lanes := a, after := stop.bind fun j => (fails j).map fun f => { f with k := j },
          units := (goodUnits (units.filter (fun u => u.reg < k))).map
            (holdUnit s sc (!store) (fun l j => regBytes s.g (d.toNat + j) 1 l) noCompare) }

/-- `LDN` (R152, R153). -/
def execLdn (sc : Scope) (n : BitVec 3) (d : BitVec 8) (x : BitVec 3) (o : MOff) (s : State) : Out :=
  if s.flagFull || !s.memReady then .next s else spanIssue s (.ldn sc n d x o) false sc n d x o
/-- `STN` (R152, R153). -/
def execStn (sc : Scope) (n : BitVec 3) (d : BitVec 8) (x : BitVec 3) (o : MOff) (s : State) : Out :=
  if !s.memReady then .next s else spanIssue s (.stn sc n d x o) true sc n d x o

/-- The units whose fault is not that their page is not present (R154). -/
def notAbsent (us : List MUnit) : List MUnit :=
  us.filter fun u => match u.tr with
    | .error f => f.cls != 0x01
    | .ok _ => true

/-- `LDP` (R154). -/
def execLdp (p : LdpPred) (z : Size) (d : BitVec 8) (x : BitVec 3) (o : MOff) (s : State) : Out :=
  if s.flagFull || !s.memReady then .next s
  else
    match s.g.active s.curSlot with
    | .error f => .next (s.raise f)
    | .ok a =>
      memIssue s (.ldp p z d x o) .g x a (s.g.spanOk d.toNat (sizeRegs z) && (offReg o).all s.g.vOk) true (offReg o)
        (notAbsent (mkUnits s x (lanesOf a) 1 (sizeBytes z) (memOff s.g o (sizeBytes z)) .read)) false noData noCompare

/-- `ATOM` and `ATOMR` (R158 to R161). -/
def atomIssue (s : State) (i : Instr) (sc : Scope) (op : AtomOp) (x : BitVec 3) (d o : BitVec 8) : Out :=
  match s.g.active s.curSlot with
  | .error f => .next (s.raise f)
  | .ok a =>
    let w := match atomTy s.sl.gm op with
      | some t => atomWidth t
      | none => 4
    let r := w / 4
    let n := if op = .cas then 2 * r else r
    memIssue s i sc x a (s.g.spanOk d.toNat n && s.g.vOk o.toNat) (atomTy s.sl.gm op).isSome
      ((List.range n).map (d.toNat + ·) ++ [o.toNat])
      (mkUnits s x (lanesOf a) 1 w (fun l => (s.g.getV o.toNat l).val.toNat) .both) false
      (fun l _ => if op = .cas then regBytes s.g (d.toNat + r) r l else regBytes s.g d.toNat r l)
      (fun l => if op = .cas then regBytes s.g d.toNat r l else [])

/-- `ATOM` (R158). -/
def execAtom (sc : Scope) (op : AtomOp) (x : BitVec 3) (d o : BitVec 8) (s : State) : Out :=
  if !s.memReady then .next s else atomIssue s (.atom sc op x d o) sc op x d o
/-- `ATOMR` (R158). -/
def execAtomr (sc : Scope) (op : AtomOp) (x : BitVec 3) (d o : BitVec 8) (s : State) : Out :=
  if s.flagFull || !s.memReady then .next s else atomIssue s (.atomr sc op x d o) sc op x d o

/-! Residency, prefetch and race marks. -/

/-- The active lanes' addresses for a byte each, for an instruction that faults only on an invalid
translation register (R155, R156): lanes with a poisoned offset are left out. -/
def probeUnits (s : State) (x : BitVec 3) (o : MOff) (a : Word) (k : Need) : List MUnit :=
  let lanes := (lanesOf a).filter (fun l => (offReg o).all (fun r => !(s.g.getV r l).poison))
  if (s.g.getX x.toNat).poison then []
  else mkUnits s x lanes 1 1 (memOff s.g o 1) k

/-- The lanes, for `PREQ` and `PREF`: an invalid translation register faults. -/
def probeLanes (s : State) (x : BitVec 3) (o : MOff) : Chk Word := do
  let a ← s.g.active s.curSlot
  need ((offReg o).all s.g.vOk) { opnd with lanes := a }
  need (a = 0 || (s.g.getX x.toNat).poison || (s.g.getX x.toNat).valid) { opnd with lanes := a }
  .ok a

/-- The invalid page-table entries that a probe's units met are logged (R382). -/
def State.logProbe (s : State) (us : List MUnit) : State := s.logEntries s.cur (entriesMet (badUnits us))

/-- A residency request for the page of an address, posted to F2: one for a page already asked for is dropped (R155). -/
def State.askPage (s : State) (va : Nat) : State :=
  let page := BitVec.ofNat 57 (va / 65536 * 65536)
  if s.resReqs.contains page then s
  else
    ({ s with resReqs := s.resReqs ++ [page] } : State).post .residency 2 (coreSource s.cur) ((placeKey s.cur s.g).setWidth 32)
      (page.setWidth 64)

/-- `PREQ` (R155). -/
def execPreq (x : BitVec 3) (o : MOff) (s : State) : Out :=
  issue s fun s => do
    let a ← probeLanes s x o
    let us := probeUnits s x o a .read
    let absent := us.filter fun u => match u.tr with
      | .error f => f.cls = 0x01
      | .ok _ => false
    .ok (absent.foldl (fun s u => s.askPage u.va) (s.logProbe us))

/-- The line of a local address fetched into the L2 and the L1 of a place's core (R156). -/
def State.prefetch (s : State) (p : Nat) (pc : Addr) (va : Nat) (loc : Loc) : State :=
  match loc with
  | .phys a =>
    if isHostPa a then s
    else
      let s := s.touchUnit p pc .g (.phys (a / 128 * 128)) va 128 false
      (List.range 4).foldl (fun s i => s.fillL1 (coreKey p) (a / 128 * 32 + 8 * i)) s
  | _ => s

/-- `PREF` (R156). -/
def execPref (x : BitVec 3) (o : MOff) (s : State) : Out :=
  issue s fun s => do
    let a ← probeLanes s x o
    let us := probeUnits s x o a .read
    .ok ((goodUnits us).foldl (fun s u => s.prefetch s.cur s.sl.pc u.1.va u.2.loc) (s.logProbe us))

/-- `RCMARK` (R165): it goes to its targets and faults like a store of one byte at `.g`. -/
def execRcmark (x : BitVec 3) (o : MOff) (s : State) : Out :=
  if !s.memReady then .next s
  else
    match s.g.active s.curSlot with
    | .error f => .next (s.raise f)
    | .ok a =>
      memIssue s (.rcmark x o) .g x a ((offReg o).all s.g.vOk) true (offReg o)
        (mkUnits s x (lanesOf a) 1 1 (memOff s.g o 1) .write) true noData noCompare

/-! Fences (R162, R232, R247, R401, R404). -/

/-- The peer nodes and PCI Express ports that the pushes of a release at `.s` write. -/
def State.farTargets (s : State) : List (BitVec 19) × List Nat :=
  let dirty := s.l2Dirty fun l => isFar (128 * l)
  let nodes := (dirty.filter (fun w => !isHostPa (4 * w))).map (fun w => BitVec.ofNat 19 ((4 * w - 2 ^ 53) / 2 ^ 52))
  let ports := (dirty.filter (fun w => isHostPa (4 * w))).map (fun w => s.hostPort (4 * w))
  (nodes.eraseDups, ports.eraseDups)

/-- The nodes that the gateway of a place's die has written since the group's last release at `.s` (R401). -/
def State.gateNodes (s : State) (p : Nat) : List (BitVec 19) :=
  (s.gateLast.filter fun e => e.1 / 2 ^ 19 = placeDie p && (s.group p).relAt < e.2).map fun e => BitVec.ofNat 19 e.1

/-- The nodes that get a fence marker: those that the group's own writes reached, every node that its gateway has written
when they are more than 16, and those that the release's pushes write (R401). -/
def State.markerNodes (s : State) (p : Nat) : List (BitVec 19) :=
  let own := (s.group p).relNodes
  let own := if own.length ≤ 16 then own else own ++ s.gateNodes p
  (own ++ s.farTargets.1).eraseDups

/-- A release at a scope that a fence makes: at `.s` the group waits for its markers and its closing reads. -/
def State.fenceRelease (s : State) (p : Nat) (sc : Scope) : State :=
  if sc = .s then
    let nodes := s.markerNodes p
    let ports := s.farTargets.2
    let s := s.release p .s
    let g := s.group p
    s.setGroup p { g with relNodes := [], relAt := s.nextId,
                          rel := if nodes.isEmpty && ports.isEmpty then none
                                 else some { nodes := nodes, ports := ports, slot := s.curSlot, saved := g.slot s.curSlot } }
  else s.release p sc

/-- A fence may issue: no earlier `PUBLISH` is open, no `REGGROW` of the other slot has loads to make, which come before it (R242; log
entry 67), and behind a full transaction table the group's own entries have drained (R162). -/
def State.fenceReady (s : State) : Bool :=
  s.memReady && !s.growLoads s.cur && (isMast s.cur || s.txReserved s.cur < 4 || s.txShared (coreKey s.cur) < 512 ||
    !s.xfers.any (fun x => x.place = s.cur && x.tag = s.g.tag))

/-- `FENCE.acq` (R162). -/
def execFenceAcq (sc : Scope) (s : State) : Out :=
  if !s.fenceReady then .next s else issue s fun s => .ok (s.acquire s.cur sc)
/-- `FENCE.rel` (R162). -/
def execFenceRel (sc : Scope) (s : State) : Out :=
  if !s.fenceReady then .next s else issue s fun s => .ok (s.fenceRelease s.cur sc)
/-- `FENCE.ar`: the acquire acts first on the A-bit, the release first on memory (R162, R304). -/
def execFenceAr (sc : Scope) (s : State) : Out :=
  if !s.fenceReady then .next s
  else
    issue s fun s =>
      let s := if isMast s.cur then s else s.noteAcquire s.cur
      .ok ((s.fenceRelease s.cur sc).scopeInval (coreKey s.cur) sc)

/-! Translation registers (R141 to R144). -/

/-- `XLAT`: the old view is released at once; the walk is made when it completes (R142, R143). It waits for the group's earlier
`PUBLISH` like every later access (R242). A read of its register
before that finds the old words: of the runs that R27 allows, one that finds the result before the flag clears is left out
(DESIGN CHOICE, log entry 13). -/
def execXlat (d : BitVec 3) (a b : BitVec 7) (s : State) : Out :=
  if !s.memReady then .next s
  else issueLong s fun s => do
    let va ← s.readSide a
    let len ← s.readSide b
    need (va.toNat < 2 ^ 57) { prot with addr := va }
    .ok (s.releaseView s.cur d.toNat, .xlat d.toNat va.toNat len.toNat, [])

/-- `XREL`: no effect on an invalid register (R143). -/
def execXrel (d : BitVec 3) (s : State) : Out :=
  issue s fun s =>
    if (s.g.getX d.toNat).valid then
      let s := s.releaseView s.cur d.toNat
      .ok (s.setG (s.g.setX d.toNat {}))
    else .ok s

/-- The scratchpad window's bytes that an address lies in (R223): the offset in a team's scratchpad, and the team that it
names, by its number, if there is one. -/
def State.spadWindow (s : State) (g : Group) (va : Nat) : Option (Nat × Option (Nat × Team)) :=
  if 0x1FE000000000000 ≤ va && va < 0x1FE000000C00000 then
    let f := va - 0x1FE000000000000
    some (f % 2 ^ 20, s.clusterTeam g (f / 2 ^ 20))
  else if 0x1FF000000000000 ≤ va && va < 0x1FF0000000B0000 then some (va - 0x1FF000000000000, some (g.team, s.team g.team))
  else none

/-- The view of a scratchpad address (R225). The physical address of a position whose team is not there is left open (log
entry 5). -/
def State.spadView (s : State) (va len f : Nat) (t : Option (Nat × Team)) : State × XReg :=
  let view := fun (pa limit : Nat) =>
    ({ valid := true, wr := true, rd := true, base := BitVec.ofNat 57 va, psize := 3, pa := BitVec.ofNat 52 pa,
       node := s.node, limit := BitVec.ofNat 33 limit } : XReg)
  match t with
  | some (k, t) =>
    let core := k / 16
    (s, view (core / 256 * 2 ^ 28 + core % 256 * 2 ^ 20 + (t.sbase * 65536 + f) % 2 ^ 20)
      (min len (min (t.units * 65536 - f) (2 ^ 32))))
  | none => ({ s with draws := s.draws + 1 }, view ((Config.freeWord s.draws).toNat % 2 ^ 52) 0)

/-- The view of an address that `XLAT` gives (R142, R225). The physical address of a view of the descriptor window is left
open (log entry 5). -/
def State.viewOf (s : State) (p va len : Nat) : State × XReg :=
  let none_ : XReg := { valid := true, base := BitVec.ofNat 57 va }
  match (if isMast p then none else s.spadWindow (s.group p) va) with
  | some w => s.spadView va len w.1 w.2
  | none =>
  match translateVa s p va with
  | .error _ => (s, none_)
  | .ok t =>
    let make := fun (pa : Nat) (node : BitVec 19) (limit : Nat) (held : Bool) =>
      ({ valid := true, wr := t.wr, rd := t.rd, remote := t.remote, rc := t.rc, base := BitVec.ofNat 57 va,
         psize := BitVec.ofNat 2 t.psize, pa := BitVec.ofNat 52 pa, node := node,
         limit := BitVec.ofNat 33 limit, key := t.key, held := held } : XReg)
    match t.loc with
    | .spad _ _ => (s, none_)
    | .desc _ _ =>
      ({ s with draws := s.draws + 1 },
       make ((Config.freeWord s.draws).toNat % 2 ^ 52) s.node (min len (65536 - va)) false)
    | .phys a =>
      if !(t.rd || t.wr) then (s, none_)
      else (s, make a s.node (min len (min (pageBytes t.psize - va % pageBytes t.psize) (2 ^ 32))) true)
    | .peer n _ a =>
      if !(t.rd || t.wr) then (s, none_)
      else (s, make a n (min len (min (pageBytes t.psize - va % pageBytes t.psize) (2 ^ 32))) true)

/-! Completions of long-latency operations (R23, R25). -/

/-- An outstanding operation of a group. -/
def Group.op? (g : Group) (id : Nat) : Option Pend := g.ops.find? (fun o => o.id = id)

/-- The group without an outstanding operation, its flag counting one fewer (R23). -/
def Group.endOp (g : Group) (o : Pend) : Group := { g.subFlag o.flag with ops := g.ops.filter (fun q => q.id != o.id) }

/-- An outstanding operation completes: its register words are written and its flag counts one fewer (R25). The results of
a group that has ended are discarded (R215). Nothing happens where no operation of that kind is outstanding. -/
def completeOp (s : State) (p id : Nat) (kind : PendKind → Bool) : Out :=
  match (s.group p).op? id with
  | none => .next s
  | some o =>
    if !kind o.kind then .next s
    else
      let s := if (s.group p).ended then s else s.applyWrites p o.writes
      .next (s.setGroup p ((s.group p).endOp o))

/-- `LOAD_RETURN` (R148). -/
def execLoadReturn (p id : Nat) (s : State) : Out := completeOp s p id (· == .load)
/-- `EMPTY_OPERATION_COMPLETE` (R23). -/
def execEmptyOperationComplete (p id : Nat) (s : State) : Out := completeOp s p id (· == .empty)
/-- `ATOMR_RETURN` (R158). -/
def execAtomrReturn (p id : Nat) (s : State) : Out := completeOp s p id (· == .atomr)
/-- `FUNCTION_RESULT` (R96). -/
def execFunctionResult (p id : Nat) (s : State) : Out := completeOp s p id (· == .func)

/-- `XLAT_COMPLETE` (R142, R386): the walk, the hold, the view, then the flag. An invalid entry is logged (R382). A view that another
`XLAT` of the same register has written meanwhile is released first (R143, R144). -/
def execXlatComplete (p id : Nat) (s : State) : Out :=
  match (s.group p).op? id with
  | none => .next s
  | some o =>
    match o.kind with
    | .xlat d va len =>
      let s := match translateVa s p va with
        | .error f => s.logEntries p f.badEntries
        | .ok _ => s
      if (s.group p).ended then .next (s.setGroup p ((s.group p).endOp o))
      else
        let r := (s.releaseView p d).viewOf p va len
        let s := r.1
        let s := if r.2.held then
            let f := viewFrame s.node r.2
            { s with holds := s.holds.put f (s.holds.look f 0 + 1) }
          else s
        let g := (s.group p).setX d r.2
        .next (s.setGroup p (g.endOp o))
    | _ => .next s

/-! Publishing (R163, R164, R254). -/

/-- `PUBLISH`: its refusals at issue, then its release; the swap is performed later. The loads of a `REGGROW` of the other slot come before
it (R242; log entry 67). -/
def execPublish (a : BitVec 7) (s : State) : Out :=
  if !s.memReady || s.growLoads s.cur then .next s
  else
    issue s fun s => do
      need (!isMast s.cur) prot
      let va ← s.readSide a
      let bad := { prot with addr := va }
      need (va.toNat < 0x1FE000000000000 && 0x10000 ≤ va.toNat) bad
      match walk s va.toNat with
      | .absent _ => .error { pageFlt with addr := va }
      | .invalid e => .error { bad with badEntries := [e] }
      | .present e =>
        need (e.tw && e.wr) bad
        let q : Pub := { id := s.nextId, place := s.cur, occ := s.g.tag, slot := s.curSlot, saved := s.sl,
                         va := va.setWidth 57 }
        let s := s.release s.cur .d
        .ok { s with nextId := s.nextId + 1, pubs := s.pubs ++ [q] }

/-- The words of a frame that a core's L1 or the L2 holds clean are made not valid (R254 step 3). -/
def State.invalFrame (s : State) (frame n : Nat) : State :=
  let inside := fun w => frame ≤ 4 * w && 4 * w < frame + n
  ({ s with l1 := s.l1.map (fun e => (e.1, e.2.filter (fun x => !(inside x.1 && !x.2.dirty)))) } : State).cleanL2 fun l => inside (l * 32)

end Sys2Proof.Machine
end

