-- ==== Sys2Proof/Machine/Batch.lean ====
section
/-! DEFINITION. Batches of a group (R179 to R181, R253, R263): seal order, reported states, sealing, and what
resumes a slot that waits on them. -/

namespace Sys2Proof.Machine

open Sys2Proof

/-- A numbered batch of a group. -/
def Group.batch (g : Group) (b : Nat) : Batch := g.batches.look b {}
/-- The sealed batches that the group's records hold, in seal order. -/
def Group.sealOrder (g : Group) : List Nat :=
  ((List.range 16).map (fun i => (g.lastBatch + 1 + i) % 16)).filter (fun b => (g.batch b).used)
/-- A batch and those sealed before it. -/
def Group.upTo (g : Group) (b : Nat) : List Nat := takeUntil (· == b) g.sealOrder ++ [b]
/-- The reported drained state of a batch (R253). -/
def Group.drained (g : Group) (b : Nat) : Bool := (g.upTo b).all (fun i => (g.batch i).drained)
/-- The reported landed state of a batch (R253). -/
def Group.landed (g : Group) (b : Nat) : Bool := (g.upTo b).all (fun i => (g.batch i).landed)
/-- A sealed batch is outstanding until it is reported drained and landed (R179). -/
def Group.outstanding (g : Group) (b : Nat) : Bool := (g.batch b).used && !(g.drained b && g.landed b)
/-- The sealed batches that are not reported drained. -/
def Group.undrained (g : Group) : Nat := (g.sealOrder.filter (fun b => !g.drained b)).length
/-- The sealed batches that are not reported landed. -/
def Group.unlanded (g : Group) : Nat := (g.sealOrder.filter (fun b => !g.landed b)).length
/-- Sixteen batches are outstanding (R179). -/
def Group.batchesFull (g : Group) : Bool := (g.sealOrder.filter g.outstanding).length ≥ 16

/-- A transfer operation belongs to the occupant of a place. -/
def Xfer.isOf (x : Xfer) (p : Nat) (g : Group) : Bool := x.place = p && x.tag = g.tag

/-- An operation's batch is still open: the group at its place has not sealed it. -/
def State.stillOpen (s : State) (x : Xfer) : Bool :=
  let g := s.group x.place
  x.batch.isNone && x.isOf x.place g && g.live && !g.ended
/-- Two operations belong to one batch. -/
def Xfer.sameBatch (x y : Xfer) : Bool := x.place = y.place && x.tag = y.tag && x.batch = y.batch
/-- An operation's batch has not drained (R263). -/
def State.batchUndrained (s : State) (x : Xfer) : Bool := s.stillOpen x || s.xfers.any fun y => x.sameBatch y && !y.drained
/-- An operation's batch has not landed (R263). -/
def State.batchUnlanded (s : State) (x : Xfer) : Bool := s.stillOpen x || s.xfers.any fun y => x.sameBatch y
/-- The finished operations of batches that have landed are forgotten: they pin no page any more (R240). -/
def State.trimSpent (s : State) : State := ({ s with spent := s.spent.filter s.batchUnlanded } : State).unpinned

/-- The open batch of the group at a place sealed at a scope code (R179): its number. An empty batch waits for
its completion event. -/
def State.sealBatch (s : State) (p sc : Nat) : State × Nat :=
  let g := s.group p
  let n := (g.lastBatch + 1) % 16
  let o := g.openBatch
  let done := fun (n : Nat) => o.used && n = 0
  let b : Batch := { o with scope := sc, used := true, out := true, drained := done o.undrained, landed := done o.unlanded }
  let mine := fun (x : Xfer) => if x.isOf p g && x.batch.isNone then { x with batch := some n } else x
  let s := ({ s with xfers := s.xfers.map mine, spent := s.spent.map mine } : State).trimSpent
  (s.setGroup p { g with openBatch := {}, lastBatch := n, sealed := true, batches := g.batches.put n b }, n)

/-- A scope by its code (R30). -/
def scopeAt (n : Nat) : Scope :=
  match n with
  | 0 => .g | 1 => .t | 2 => .c | 3 => .d | _ => .s

/-- The acquire of the batches that are observed landed (R247, R253): at the widest of their scopes. -/
def State.acquireBatches (s : State) (p : Nat) (bs : List Nat) : State :=
  let g := s.group p
  match bs.filter (fun b => (g.batch b).used && g.landed b) with
  | [] => s
  | b :: r => s.acquire p (scopeAt ((b :: r).foldl (fun m i => max m (g.batch i).scope) 0))

/-- A waiting slot goes on at the word after the one that it waits at. -/
def State.resumeSlot (s : State) (p : Nat) (sl : SlotId) : State :=
  let g := s.group p
  s.setGroup p (g.setSlot sl { (g.slot sl).past with state := .live })

/-- `CPWAIT.SRC n` is met (R180). -/
def Group.srcMet (g : Group) (n : Nat) : Bool := g.undrained ≤ n
/-- `CPWAIT.VIS n` is met (R180). -/
def Group.visMet (g : Group) (n : Nat) : Bool := g.unlanded ≤ n
/-- `YIELDC` need not wait for a batch (R125). -/
def Group.yieldMet (g : Group) (b : Nat) : Bool := !(g.outstanding b && !g.landed b)

/-- A `CPWAIT.VIS` completes: the acquire, then the slot goes on. -/
def State.finishVis (s : State) (p : Nat) (sl : SlotId) : State :=
  (s.acquireBatches p (s.group p).sealOrder).resumeSlot p sl
/-- A `YIELDC` continues at its target (R125). -/
def State.finishYield (s : State) (p : Nat) (sl : SlotId) (b : Nat) (target : Addr) : State :=
  let s := if ((s.group p).batch b).used then s.acquireBatches p ((s.group p).upTo b) else s
  let g := s.group p
  s.setGroup p (g.setSlot sl { (g.slot sl).goto target with state := .live })

/-- The slots of the group at a place that wait on batches go on where their condition is met. -/
def State.wakeCopies (s : State) (p : Nat) : State :=
  [SlotId.A, SlotId.B].foldl (fun s sl =>
    let g := s.group p
    match (g.slot sl).state with
    | .waiting (.cpwaitSrc n) => if g.srcMet n then s.resumeSlot p sl else s
    | .waiting (.cpwaitVis n) => if g.visMet n then s.finishVis p sl else s
    | .waiting (.yieldc b t) => if g.yieldMet b then s.finishYield p sl b t else s
    | _ => s) s

end Sys2Proof.Machine
end

