-- ==== Sys2Proof/Machine/Flags.lean ====
section
/-! DEFINITION. The condition bits Z, N, C, V: what sets them (R99, R100, R106, R109) and what the branch
conditions read (R31). -/

namespace Sys2Proof.Machine

open Sys2Proof

/-- Z and N of a result, with C and V given (R100). -/
def condOfResult (r : Dword) (c v : Bool) : Cond := { z := r = 0, n := r.msb, c := c, v := v }
/-- The bits of `x + y`: C is the unsigned carry out, V the signed overflow (R31, R100). -/
def condAdd (x y : Dword) : Cond :=
  condOfResult (x + y) (x.toNat + y.toNat ≥ 2 ^ 64) (x.msb = y.msb && (x + y).msb != x.msb)
/-- The bits of `x − y`: C is the inverse of the borrow (R31, R100). -/
def condSub (x y : Dword) : Cond :=
  condOfResult (x - y) (y.toNat ≤ x.toNat) (x.msb != y.msb && (x - y).msb != x.msb)
/-- The bits of `x × y`: C when the unsigned product, V when the signed product, leaves 64 bits (R100). -/
def condMul (x y : Dword) : Cond :=
  let p := x.toInt * y.toInt
  condOfResult (x * y) (x.toNat * y.toNat ≥ 2 ^ 64) (p < -(2 ^ 63 : Nat) || p ≥ (2 ^ 63 : Nat))
/-- The bits of a logic result or a move: C and V are 0 (R100). -/
def condLogic (r : Dword) : Cond := condOfResult r false false

/-- `x` shifted left by an unsigned count (R100). -/
def shl64 (x y : Dword) : Dword := if y.toNat ≥ 64 then 0 else x <<< y.toNat
/-- `x` shifted right with zeros (R100). -/
def shr64 (x y : Dword) : Dword := if y.toNat ≥ 64 then 0 else x >>> y.toNat
/-- `x` shifted right with copies of the sign (R100). -/
def sar64 (x y : Dword) : Dword := if y.toNat ≥ 64 then (if x.msb then BitVec.allOnes 64 else 0) else x.sshiftRight y.toNat

/-- C of `SSHL`: the last bit shifted out for counts 1 to 64, else 0 (R100). -/
def condShl (x y : Dword) : Cond :=
  let n := y.toNat
  condOfResult (shl64 x y) (1 ≤ n && n ≤ 64 && x.getLsbD (64 - n)) false
/-- C of `SSHR` (R100). -/
def condShr (x y : Dword) : Cond :=
  let n := y.toNat
  condOfResult (shr64 x y) (1 ≤ n && n ≤ 64 && x.getLsbD (n - 1)) false
/-- C of `SSAR`: beyond 64 the sign bit (R100). -/
def condSar (x y : Dword) : Cond :=
  let n := y.toNat
  condOfResult (sar64 x y) (if n = 0 then false else if n ≤ 64 then x.getLsbD (n - 1) else x.msb) false

/-- Z from a result, with N, C and V clear: `PCNT` and `VOTE` (R106, R109). -/
def condZero (r : Dword) : Cond := { z := r = 0 }

/-- The scalar condition of a code (R31). -/
def ccHolds (c : CC) (f : Cond) : Bool :=
  match c with
  | .eq => f.z
  | .ne => !f.z
  | .lt => f.n != f.v
  | .ge => f.n == f.v
  | .ltu => !f.c
  | .geu => f.c
  | .gt => !f.z && f.n == f.v
  | .le => f.z || f.n != f.v
  | .gtu => f.c && !f.z
  | .leu => !f.c || f.z
  | .mi => f.n
  | .pl => !f.n
  | .vs => f.v
  | .vc => !f.v
  | .al => true

end Sys2Proof.Machine
end

