-- ==== Sys2Proof/Machine/Control.lean ====
section
/-! DEFINITION. Uniform and system registers (R102 to R104, R137 to R139), branches and calls (R114, R115),
mode (R126), yielding (R124, R125), barriers (R127 to R129), service calls and breakpoints (R130, R131),
the register allotment (R133 to R136). -/

namespace Sys2Proof.Machine

open Sys2Proof

/-! Uniform registers. -/

/-- `KMOV` (R102, R104, R314). R419 names no address for a race that `KMOV` raises: it is free (log entry 5). -/
def execKmov (d : BitVec 6) (a : BitVec 7) (s : State) : Out :=
  match (do notInSection s; need (d.toNat < 8 * s.tm.kgran) opnd; s.readSide a : Chk Dword) with
  | .error f => .next (s.raise f)
  | .ok v =>
    match s.uniformWrite d.toNat (Config.freeWord s.draws) with
    | (s, some f) => .next ({ s with draws := s.draws + 1 }.raise f)
    | (s, none) =>
      let t := s.tm
      .next (s.setTm { t with k := t.k.put d.toNat { val := v } }).advance

/-- The one unit of an access through the TLB that the group makes itself (R103, R116): its translation, with
the address in every fault. -/
def tlbUnit (s : State) (va n : Nat) (k : Need) : Chk Trans :=
  let named := fun (f : FaultInfo) => { f with addr := BitVec.ofNat 64 va }
  if va % n ≠ 0 then .error (named align)
  else if va ≥ 2 ^ 57 then .error (named prot)
  else
    match translateVa s s.cur va with
    | .error f => .error (named f)
    | .ok t =>
      if !permits k t.rd t.wr then .error (named prot)
      else if !s.hostUp && s.hostNeeded .g (k == .write) t.loc n then .error (named (fault 0x0B))
      else .ok t

/-- A unit through the TLB as a hold keeps it. -/
def tlbHold (s : State) (reg va n : Nat) (loc : Loc) (needsData : Bool) (rc : Bool := false) : HoldUnit :=
  { lane := 0, reg := reg, va := va, loc := loc, bytes := n, data := [], compare := [], rc := rc,
    waits := s.unitWaits .g loc n needsData, answer := none }

/-- The address of a `KLD` (R103): s[a] + 8 × imm, modulo 2^64. -/
def kldAddr (a : Dword) (i : BitVec 8) : Dword := a + (i.signExtend 64) * 8

/-- `KLD` (R103, R104): checked as lane 0 (R301). It takes its place among the writers of its register at its
issue, also where its target is still to answer (log entry 54). -/
def execKld (d : BitVec 6) (a : BitVec 7) (i : BitVec 8) (s : State) : Out :=
  if s.flagFull || !s.memReady then .next s
  else
    match (do notInSection s; need (d.toNat < 8 * s.tm.kgran) opnd; s.readSide a : Chk Dword) with
    | .error f => .next (s.raise f)
    | .ok v =>
      let va := (kldAddr v i).toNat
      match tlbUnit s va 8 .read with
      | .error f => .next (s.raise { f with lanes := 1 })
      | .ok t =>
        offer s .g { slot := s.curSlot, instr := .kld d a i, lanes := 1, units := [tlbHold s 0 va 8 t.loc true t.rc] }

/-! System registers. -/

/-- The number of a slot state in SLOTST (R139). -/
def stateCode : SlotState → Nat
  | .free => 0
  | .live => 1
  | .parked _ => 2
  | .exitwait => 3
  | .waiting _ => 4

/-- The index of a team in its grid, as (x, y, z) (R200). -/
def teamXyz (k : Kernel) (i : Nat) : Nat × Nat × Nat :=
  (i % k.gridx, i / k.gridx % k.gridy, i / k.gridx / k.gridy)

/-- The GKEY value of the group at a place (R139): a section reads its sender's (R279). -/
def State.gkeyReg (s : State) (p : Nat) : Nat :=
  let g := s.group p
  match g.sect with
  | some x => x.req.node.toNat * 2 ^ 24 + x.req.gkey.toNat
  | none => s.node.toNat * 2 ^ 24 + (placeKey p g).toNat

/-- The columns, rows and anchor of a team's cluster (R201). -/
def State.clusterOf (s : State) (p : Nat) : Nat × Nat × Nat :=
  let k := (s.ctx (s.group p).ctx).kernel
  if k.cw = 0 then (1, 1, placeCore p) else (k.cw, k.ch, (s.team (s.group p).team).anchor % 256)

/-- The fields that R138 and R139 define for a system register of which a section has no value (R279): they
read free bits there (log entry 5). A section has no team; `own` says that its launch, whose grid, cluster shape, team size
and kernel id it reads, is this package's (R205). -/
def sectionFree (own : Bool) (n : Nat) : Option Dword :=
  match n with
  | 1 => some (if own then 0x1F else 0x1F1F)
  | 2 => some (BitVec.allOnes 64)
  | 3 => some (BitVec.allOnes 64)
  | 4 => if own then none else some (BitVec.allOnes 64)
  | 5 => if own then none else some 0xFFFFFFFF
  | 6 => some (if own then 0xFFFF else 0xFFFFFF)
  | 7 => if own then none else some 0xFFFFFFFF
  | _ => none

/-- The value of a system register for the issuing slot (R138, R139). -/
def State.sysReg (s : State) (n : Nat) : Dword :=
  let g := s.g
  let t := s.tm
  let k := (s.ctx g.ctx).kernel
  let xyz := teamXyz k t.index
  match n with
  | 0x00 => BitVec.ofNat 64 (s.gkeyReg s.cur)
  | 0x01 => BitVec.ofNat 64 (g.vgran * 2 ^ 32 + t.kgran * 2 ^ 24 + (k.groups - 1) * 2 ^ 8 + g.gindex)
  | 0x02 => BitVec.ofNat 64 (xyz.2.1 * 2 ^ 32 + xyz.1)
  | 0x03 => BitVec.ofNat 64 (t.index * 2 ^ 32 + xyz.2.2)
  | 0x04 => BitVec.ofNat 64 (k.gridy * 2 ^ 32 + k.gridx)
  | 0x05 => BitVec.ofNat 64 k.gridz
  | 0x06 =>
    let c := s.clusterOf s.cur
    BitVec.ofNat 64 (c.1 * 2 ^ 20 + c.2.1 * 2 ^ 16 + c.2.2 * 2 ^ 8 + t.col * 2 ^ 4 + t.row)
  | 0x07 => (s.originOf (s.ctx g.ctx) s.sl.pc).2.setWidth 64
  | 0x08 => s.clock
  | 0x09 => BitVec.ofNat 64 (g.slotB.own * 2 ^ 41 + g.slotA.own * 2 ^ 24 + stateCode g.slotB.state * 2 ^ 3 +
      stateCode g.slotA.state)
  | 0x0A => g.dsbase
  | 0x0B => g.dslim
  | 0x0C => g.spill
  | _ => 0

/-- The value that a section or a group reads from a system register. -/
def State.readSys (s : State) (n : Nat) : State × Dword :=
  match s.g.sect.bind fun x => sectionFree x.own n with
  | some m => ({ s with draws := s.draws + 1 }, (s.sysReg n &&& ~~~m) ||| (Config.freeWord s.draws &&& m))
  | none => (s, s.sysReg n)

/-- `SREAD` (R137): the value is the register's at issue. -/
def execSread (d : BitVec 6) (n : BitVec 16) (s : State) : Out :=
  issueLong s fun s => do
    need (operandBitsOk (.sread d n)) opnd
    let r := s.readSys n.toNat
    .ok (r.1, .sread, [RegWrite.s d.toNat { val := r.2 }])

/-- `SREAD_COMPLETE` (R137, R25). -/
def execSreadComplete (p id : Nat) (s : State) : Out := completeOp s p id (· == .sread)

/-- The generator states of a seed (R52). -/
def seedStates (seed : Word) : Tab Word := (List.range 32).map fun l => (l, seedRand seed l)

/-- DSBASE, DSLIM or SPILL takes a value (R138). -/
def sysValueOk (n : Nat) (v : Dword) : Bool :=
  v.toNat < 2 ^ 57 && v.toNat % (if n = 0x0C then 128 else 16) = 0

/-- `SWRITE` (R137, R138). -/
def execSwrite (a : BitVec 7) (n : BitVec 16) (s : State) : Out :=
  issue s fun s => do
    need (operandBitsOk (.swrite a n)) opnd
    let v ← s.readSide a
    if n.toNat = 0x0D then .ok (s.setG { s.g with rng := seedStates (v.setWidth 32) })
    else
      notInSection s
      need (sysValueOk n.toNat v) opnd
      let g := s.g
      if n.toNat = 0x0A then .ok (s.setG { g with dsbase := v })
      else if n.toNat = 0x0B then .ok (s.setG { g with dslim := v })
      else .ok (s.setG { g with spill := v })

/-! Branches and calls. -/

/-- `FLT.CLAUSE` of a bad target (R21). -/
def clauseFlt (target : Dword) : FaultInfo := { fault 0x04 with addr := target }

/-- The target's map bit is set (R21). The kernel of a peer's hoist has no map here. -/
def State.targetOk (s : State) (p : Nat) (va : Addr) : Bool :=
  let g := s.group p
  let own : Bool := match g.sect with
    | some x => x.own
    | none => true
  !own || mapBit s (s.ctx g.ctx) va

/-- The target of a branch word (R114). -/
def State.branchTarget (s : State) (o : BitVec 20) : Addr := s.sl.header + offBytes o

/-- The issuing slot moved to a target (R21). -/
def State.jump (s : State) (va : Addr) : Chk State := do
  need (s.targetOk s.cur va) (clauseFlt (va.setWidth 64))
  .ok (s.setSl (s.sl.goto va))

/-- A conditional branch (R114, R438). -/
def branchIf (s : State) (o : BitVec 20) (taken : Bool) : Chk State := do
  let t ← if taken then s.jump (s.branchTarget o) else .ok s.advance
  let s := s.traceHere 3 (oneIf taken) s.sl.pc.toNat
  .ok (s.setSl t.sl)

/-- `BR` (R114). -/
def execBr (o : BitVec 20) (s : State) : Out := transfer s fun s => s.jump (s.branchTarget o)
/-- `BRC` (R114). -/
def execBrc (c : CC) (o : BitVec 20) (s : State) : Out := transfer s fun s => branchIf s o (ccHolds c s.sl.cc)
/-- `BRZ` (R114). -/
def execBrz (p : BitVec 4) (o : BitVec 20) (s : State) : Out :=
  transfer s fun s => do
    let w ← s.g.readP p.toNat
    branchIf s o ((w &&& s.sl.mask) = 0)
/-- `BRNZ` (R114). -/
def execBrnz (p : BitVec 4) (o : BitVec 20) (s : State) : Out :=
  transfer s fun s => do
    let w ← s.g.readP p.toNat
    branchIf s o ((w &&& s.sl.mask) != 0)

/-- `CALL` (R115). -/
def execCall (o : BitVec 20) (s : State) : Out :=
  transfer s fun s => do
    let back := s.sl.pc + 4
    let t ← s.jump (s.branchTarget o)
    .ok (t.setG (t.g.setS 62 (back.setWidth 64)))

/-- `RET` (R115, R438). -/
def execRet (a : BitVec 7) (s : State) : Out :=
  transfer s fun s => do
    let v ← s.readSide a
    need (v.toNat % 4 = 0) (clauseFlt v)
    need (v.toNat < 2 ^ 57) { prot with addr := v }
    let t ← s.jump (v.setWidth 57)
    let s := s.traceHere 4 0 v.toNat
    .ok (s.setSl t.sl)

/-! Mode and yielding. -/

/-- `SETMODE` (R126, R37). -/
def execSetmode (a : BitVec 7) (s : State) : Out :=
  issue s fun s => do
    let v ← s.readSide a
    let m : Word := v.setWidth 32
    need (gmValid m) opnd
    .ok (s.setSl { s.sl with gm := m, gmPoison := false })

/-- The lowest bit of a `gm` field (R35). -/
def gmShift : GmField → Nat
  | .guard => 28 | .dtype => 23 | .stype => 18 | .rnd => 15 | .sat => 14 | .fin => 13 | .fout => 12

/-- `gm` with one field replaced. -/
def gmPut (m : Word) (f : GmField) (v : Nat) : Word :=
  BitVec.ofNat 32 (m.toNat - field m.toNat (gmShift f + f.width - 1) (gmShift f) * 2 ^ gmShift f + v * 2 ^ gmShift f)

/-- `MODEF` (R126, R37). -/
def execModef (f : GmField) (i : BitVec 16) (s : State) : Out :=
  issue s fun s => do
    need (operandBitsOk (.modef f i)) opnd
    let m ← s.sl.mode
    need (gmValid (gmPut m f i.toNat)) opnd
    .ok (s.setSl { s.sl with gm := gmPut m f i.toNat })

/-- `NOP` (R132). -/
def execNop (s : State) : Out := issue s .ok
/-- `YIELD` (R124): its issue puts the slot last in the rotation (`State.rotate`). -/
def execYield (s : State) : Out := issue s .ok

/-- The issuing slot waits at its word. -/
def State.park (s : State) (w : Wait) : State := s.setSl { s.sl with state := .waiting w }

/-- `YIELDC` (R125). -/
def execYieldc (b : BitVec 4) (o : BitVec 20) (s : State) : Out :=
  transfer s fun s => do
    notInSection s
    let target := s.branchTarget o
    need (s.targetOk s.cur target) (clauseFlt (target.setWidth 64))
    if s.g.yieldMet b.toNat then .ok (s.finishYield s.cur s.curSlot b.toNat target)
    else .ok (s.park (.yieldc b.toNat target))

/-! Barriers. -/

/-- The other slot makes the arrival impossible (R129). -/
def barrierBlocked (y : SlotState) (w : Wait) : Bool :=
  match y with
  | .parked _ => true
  | .exitwait => true
  | .waiting (.bar b) => .bar b != w
  | .waiting (.cbar b) => .cbar b != w
  | _ => false

/-- A slot starts to wait at a barrier (R127, R129). -/
def barrierIssue (s : State) (i : Instr) (w : Wait) : Out :=
  transfer s fun s => do
    notInSection s
    need (operandBitsOk i) opnd
    need (!barrierBlocked (s.g.slot (otherSlot s.curSlot)).state w) (fault 0x05)
    .ok (s.park w)

/-- `BAR` (R127). -/
def execBar (b : BitVec 8) (s : State) : Out := barrierIssue s (.bar b) (.bar b.toNat)
/-- `CBAR` (R127). -/
def execCbar (b : BitVec 8) (s : State) : Out := barrierIssue s (.cbar b) (.cbar b.toNat)

/-- A slot is free or waits for `w`. -/
def slotAt (x : Slot) (w : Wait) : Bool := x.state = .free || x.state = .waiting w
/-- A group that has not ended has arrived at a barrier (R127). -/
def Group.arrived (g : Group) (w : Wait) : Bool := slotAt g.slotA w && slotAt g.slotB w
/-- The places of a team's groups that have not ended. -/
def State.liveGroups (s : State) (t : Team) : List Nat :=
  t.groups.filter (fun p => (s.group p).live && !(s.group p).ended)

/-- The slots that wait for `w` go on. -/
def State.resumeAll (s : State) (p : Nat) (w : Wait) : State :=
  [SlotId.A, SlotId.B].foldl (fun s sl => if ((s.group p).slot sl).state = .waiting w then s.resumeSlot p sl else s) s

/-- The join of the arriving groups' knowledge at a team barrier (R306). -/
def State.joinClocks (s : State) (ps : List Nat) : State :=
  let own := ps.map (fun p => ((s.group p).gindex, (s.group p).gk))
  let joined : Tab (BitVec 26) := (List.range 32).filterMap fun i =>
    match own.find? (fun e => e.1 = i) with
    | some e => some e
    | none =>
      let k := ps.foldl (fun m p => max m ((s.group p).race.vec.look i 0).toNat) 0
      if k = 0 then none else some (i, BitVec.ofNat 26 k)
  ps.foldl (fun s p => s.setGroup p { s.group p with race := { (s.group p).race with vec := joined } }) s

/-- An outstanding operation will write a uniform register. -/
def Pend.writesUniform (o : Pend) : Bool :=
  o.writes.any fun w => match w with
    | .k _ _ _ => true
    | _ => false

/-- What a group has issued before a barrier and what the barrier's completion comes after (R242, R257): its uniform writes
are made, and its `PUBLISH` is performed. -/
def State.barrierReady (s : State) (p : Nat) : Bool :=
  !(s.group p).ops.any Pend.writesUniform && !s.pubs.any fun q => q.place = p && q.occ = (s.group p).tag

/-- A barrier's completion for the groups that have arrived (R128, R304): the acquires act first on the A-bit
and the pending lists, then the releases, then the pushes and the invalidations; then the slots go on. -/
def State.finishBarrier (s : State) (ps : List Nat) (w : Wait) (sc : Scope) (join : Bool) : State :=
  let s := ps.foldl (fun s p => (s.noteAcquire p).noteRelease p) s
  let s := if join then s.joinClocks ps else s
  let s := ps.foldl (fun s p => s.scopePush (coreKey p) (s.anchorOf p) sc) s
  let s := ps.foldl (fun s p => s.scopeInval (coreKey p) sc) s
  ps.foldl (fun s p => s.resumeAll p w) s

/-- A team's barrier interval ends (R104, R128, R314). -/
def State.endInterval (s : State) (k : Nat) : State := s.setTeam k { s.team k with kwr := [] }

/-- `TEAM_BARRIER_COMPLETE` (R127, R128). -/
def execTeamBarrierComplete (team : Nat) (b : BitVec 2) (s : State) : Out :=
  let t := s.team team
  let ps := s.liveGroups t
  let w := Wait.bar b.toNat
  if t.live && !t.ended && !ps.isEmpty && ps.all (fun p => (s.group p).arrived w && s.barrierReady p) then
    .next ((s.finishBarrier ps w .t true).endInterval team)
  else .next s

/-- `CLUSTER_BARRIER_COMPLETE` (R127, R128, R219). -/
def execClusterBarrierComplete (ctx cluster : Nat) (b : BitVec 2) (s : State) : Out :=
  let k := (s.ctx ctx).kernel
  let size := if k.cw = 0 then 1 else k.cw * k.ch
  let ts := s.teams.filter (fun e => e.2.live && !e.2.ended && e.2.ctx = ctx && e.2.index / size = cluster)
  let ps := ts.flatMap (fun e => s.liveGroups e.2)
  let w := Wait.cbar b.toNat
  if !ps.isEmpty && ps.all (fun p => (s.group p).arrived w && s.barrierReady p) then
    .next (ts.foldl (fun s e => s.endInterval e.1) (s.finishBarrier ps w .c false))
  else .next s

/-! Service calls and breakpoints. -/

/-- The entries of a service call in ascending lane order (R407). -/
def serviceEntries (s : State) (p : Nat) (v : Service) : List (List Dword) :=
  let g := s.group p
  (lanesOf v.lanes).map fun l =>
    ringHead 1 s.node (placeKey p g) (BitVec.ofNat 32 v.seq) v.n.toNat l (popcount v.lanes) ++
      (List.range 4).map fun j => (g.getV (2 * j + 1) l).val ++ (g.getV (2 * j) l).val

/-- A service call written to the host request ring when the ring has room for all its entries (R406). -/
def State.sendService (s : State) (p : Nat) (v : Service) : State :=
  if s.hr.fits (popcount v.lanes) then
    let es := serviceEntries s p v
    let first := s.hr.tail
    let s := es.foldl (fun s e => s.putRing e) s
    (s.setGroup p { s.group p with service := some { v with state := .awaiting, first := first } }).interrupt 0
  else s.setGroup p { s.group p with service := some { v with state := .waitingRoom } }

/-- A group whose service call parks it (R355 steps 1 and 2): F1 is told, and the group leaves the core's fast file at once
(log entry 59). -/
def State.leaveCore (s : State) (p : Nat) : State :=
  let g := s.group p
  (s.setGroup p { g with file := if g.file = .active then .movingOut else g.file }).post .park 1 (coreSource p)
    ((placeKey p g).setWidth 32) 0

/-- `TRAP` (R130): a software trap completes and faults at the next word; a service call sends its lanes. -/
def execTrap (n : BitVec 16) (s : State) : Out :=
  transfer s fun s => do
    need (operandBitsOk (.trap n)) opnd
    if n.toNat ≥ 0x1000 then .error { fault 0x12 with num := n, next := true }
    else
      notInSection s
      let a ← s.g.active s.curSlot
      if a = 0 then .ok s.advance
      else
        checkPoison s.g a (List.range 8)
        let v : Service := { slot := s.curSlot, n := n, seq := s.hr.call.toNat, lanes := a, state := .waitingRoom }
        let s := { s with hr := { s.hr with call := s.hr.call + 1 } }
        .ok (((s.park .trap).leaveCore s.cur).sendService s.cur v)

/-- A group halted for the debugger (R441, R442): the report of kind 10 names a slot and where it goes on. -/
def State.haltAt (s : State) (p : Nat) (sl : SlotId) (f : FaultInfo) (restart : Addr) : State :=
  let r := { faultRecord s p sl f false with d2 := restart.setWidth 64 }
  let s := { s with err := { s.err with fseq := s.err.fseq + 1 } }
  let g := s.group p
  let x := g.slot sl
  let g := { g with halted := true, stepSlot := none, stepOver := false }
  (s.setGroup p (g.setSlot sl (if f.next then x.past else x))).report 10 (placeDie p) r.dwords

/-- `FLT.BRK` (R441): in halt mode 1 the group halts, else the fault is final. -/
def State.breakAt (s : State) (p : Nat) (sl : SlotId) (f : FaultInfo) : State :=
  if !isMast p && s.dbgctl then s.haltAt p sl f (restartOf ((s.group p).slot sl) f) else s.raiseAt p sl f

/-- `BRK` (R131). -/
def execBrk (n : BitVec 16) (s : State) : Out :=
  if operandBitsOk (.brk n) then .next (s.breakAt s.cur s.curSlot { fault 0x13 with num := n, next := true })
  else .next (s.raise opnd)

/-! The register allotment. -/

/-- The groups whose granules a core's pool has given (R212): an ended group keeps its own until its slot is
released. -/
def State.coreGroups (s : State) (core : Nat) : List (Nat × Group) :=
  s.groups.filter (fun e => e.2.live && !isMast e.1 && coreKey e.1 = core)
/-- The granules that are free in a core's pool (R133, R212). -/
def State.freeGranules (s : State) (core : Nat) : Nat :=
  1024 - ((s.coreGroups core).map (fun e => e.2.vgran)).sum
/-- A group's vector registers have room in its core's fast register file (R209). -/
def Group.inFast (g : Group) : Bool := g.file != .slow
/-- The granules of a core's fast register file that are taken (R209). -/
def State.fastGranules (s : State) (core : Nat) : Nat :=
  (((s.coreGroups core).filter (fun e => e.2.inFast)).map (fun e => e.2.vgran)).sum
/-- The requests queued at a core's pool, in the order of their issue (R212). -/
def State.pool (s : State) (core : Nat) : List (Nat × SlotId) := s.pools.look core []
/-- The state with a core's queue replaced. -/
def State.setPool (s : State) (core : Nat) (l : List (Nat × SlotId)) : State := { s with pools := s.pools.put core l }

/-- `REGGROW` (R133): queued at the pool. -/
def execReggrow (n : BitVec 8) (s : State) : Out :=
  transfer s fun s => do
    notInSection s
    need (operandBitsOk (.reggrow n)) opnd
    need (s.g.vgran + n.toNat ≤ 32) opnd
    let c := coreKey s.cur
    .ok ((s.setPool c (s.pool c ++ [(s.cur, s.curSlot)])).park (.reggrow n.toNat none))

/-- The translations of the spill lines of registers, as far as they are free of faults, and the fault of the
first that is not, with its number (R136). -/
def spillUnits (s : State) (n : Nat) (k : Need) : List (Nat × Trans) × Option FaultInfo :=
  let us := (List.range n).map (fun j => (j, tlbUnit s (s.g.spill.toNat + 128 * j) 128 k))
  let good := us.filterMap fun e => match e.2 with
    | .ok t => some (e.1, t)
    | .error _ => none
  match us.find? (fun e => e.2.toOption.isNone) with
  | some (j, .error f) => (good.filter (fun e => e.1 < j), some { f with k := j, lanes := BitVec.allOnes 32 })
  | _ => (good, none)

/-- The hold for spill lines that a peer must answer for, if there are any (R147). -/
def spillHold (s : State) (i : Instr) (us : List (Nat × Trans)) (needsData : Bool) : Option Hold :=
  let hs := us.map (fun e => tlbHold s e.1 (s.g.spill.toNat + 128 * e.1) 128 e.2.loc needsData)
  if hs.any (·.waits) then
    some { slot := s.curSlot, instr := i, lanes := BitVec.allOnes 32, units := hs.filter (·.waits) }
  else none

/-- `REGSHRINK` (R134, R136). -/
def execRegshrink (n : BitVec 8) (s : State) : Out :=
  if !s.memReady then .next s
  else
    transfer s fun s => do
      notInSection s
      need (operandBitsOk (.regshrink n)) opnd
      need (n.toNat + 1 ≤ s.g.vgran) opnd
      let c := s.g.vgran - n.toNat
      let shrink := fun (s : State) => s.setG { s.g with vgran := c }
      if s.g.spill = 0 then .ok (shrink s).advance
      else
        let r := spillUnits s (8 * n.toNat) .write
        match spillHold s (.regshrink n) r.1 false with
        | some h => .ok (s.setG { s.g with hold := some h })
        | none =>
          match r.2 with
          | some f => .ok ((s.storeSpill s.cur (8 * c) f.k).raise f)
          | none => .ok (shrink (s.storeSpill s.cur (8 * c) (8 * n.toNat))).advance

/-- Vector registers from `lo` on, `n` of them, zero in every lane. -/
def Group.zeroV (g : Group) (lo n : Nat) : Group :=
  { g with v := g.v.dropIf (fun k => lo * 32 ≤ k && k < (lo + n) * 32) }

/-- `REGGROW_GRANT` (R133, R212): the head request is granted when enough granules are free. With a spill base
the slot goes on only once its registers are loaded. A request that would bring its group above 32 granules
by then is refused as at its issue. A group in the fast file, or on its way there, that the file cannot hold is moved out
(R209, R213). -/
def execReggrowGrant (core : Nat) (s : State) : Out :=
  match s.pool core with
  | [] => .next s
  | (p, sl) :: rest =>
    let g := s.group p
    match (g.slot sl).state with
    | .waiting (.reggrow n none) =>
      if s.freeGranules core < n then .next s
      else
        let s := s.setPool core rest
        let x := g.slot sl
        if g.vgran + n > 32 then
          .next ((s.setGroup p (g.setSlot sl { x with state := .live })).raiseAt p sl opnd)
        else
          let fast := g.file = .active || g.file = .movingIn
          let file := if fast && s.fastGranules core + n > 256 then .movingOut else g.file
          let g' := { g with vgran := g.vgran + n, file := file }.zeroV (8 * g.vgran) (8 * n)
          if g.spill = 0 then .next ((s.setGroup p g').resumeSlot p sl)
          else .next (s.setGroup p (g'.setSlot sl { x with state := .waiting (.reggrow n (some g.vgran)) }))
    | _ => .next s

/-- Registers loaded from their spill lines at `.g` (R133): a poisoned memory word is loaded poisoned. -/
def State.loadSpill (s : State) (c : Nat) (us : List (Nat × Trans)) : State :=
  us.foldl (fun s e =>
    let s := s.touchUnit s.cur s.sl.pc .g e.2.loc (s.g.spill.toNat + 128 * e.1) 128 false
    let r := s.readLoc s.cur e.2.loc 128 .g
    let ws := wordsOf r.2
    (List.range 32).foldl (fun s l => s.setG (s.g.setV (8 * c + e.1) l (ws.getD l {}))) r.1) s

/-- The granules of a grant, and where it began. -/
def grantOf (x : Slot) : Option (Nat × Nat) :=
  match x.state with
  | .waiting (.reggrow n (some c)) => some (n, c)
  | _ => none

/-- The loads that follow a grant of the issuing slot finish, or fault (R133, R136). -/
def State.spillLoad (s : State) (n c : Nat) : State :=
  let r := spillUnits s (8 * n) .read
  match spillHold s (.reggrow (BitVec.ofNat 8 n)) r.1 true with
  | some h => s.setG { s.g with hold := some h }
  | none =>
    let t := s.loadSpill c r.1
    match r.2 with
    | some f =>
      ((t.setSl { s.sl with state := .live }).fewerGranules n).raise f
    | none => t.resumeSlot s.cur s.curSlot

/-- `REGGROW_SPILL_LOAD_COMPLETE` (R133, R136). A stop of the group does not keep the loads back (R422). An open `PUBLISH` does
(R242). -/
def execReggrowSpillLoadComplete (p : Nat) (s : State) : Out :=
  let g := s.group p
  if !g.live || g.hold.isSome || s.openPub p then .next s
  else
    match grantOf g.slotA, grantOf g.slotB with
    | some (n, c), _ => .next (s.asSlot p .A (fun s => s.spillLoad n c))
    | none, some (n, c) => .next (s.asSlot p .B (fun s => s.spillLoad n c))
    | none, none => .next s

/-- The request of a slot that waits in `REGGROW` for a grant. -/
def growRequest (x : Slot) : Option Nat :=
  match x.state with
  | .waiting (.reggrow n _) => some n
  | _ => none

/-- Each slot of a group that is not FREE waits in `REGGROW` (R135). -/
def Group.growing (g : Group) : Bool :=
  (g.slotA.state = .free || (growRequest g.slotA).isSome) && (g.slotB.state = .free || (growRequest g.slotB).isSome) &&
    !(g.slotA.state = .free && g.slotB.state = .free)

/-- `REGPOOL_REFUSAL` (R135): the largest queued request, and among equals that of the lowest group slot, is
refused when every resident group that holds granules waits in `REGGROW` and the head cannot be granted. -/
def execRegpoolRefusal (core : Nat) (s : State) : Out :=
  let gs := s.coreGroups core
  let q := s.pool core
  let size := fun (e : Nat × SlotId) => (growRequest ((s.group e.1).slot e.2)).getD 0
  let headFits := match q with
    | [] => true
    | e :: _ => decide (size e ≤ s.freeGranules core)
  let loading := gs.any (fun e => (grantOf e.2.slotA).isSome || (grantOf e.2.slotB).isSome)
  if q.isEmpty || headFits || loading || !gs.all (fun e => e.2.growing) then .next s
  else
    let most := q.foldl (fun m e => max m (size e)) 0
    let top := q.filter (fun e => size e = most)
    let low := top.foldl (fun m e => min m e.1) (2 ^ 30)
    match top.filter (fun e => e.1 = low) with
    | [] => .next s
    | (p, sl) :: _ =>
      let s := s.setPool core (q.filter (fun e => e != (p, sl)))
      let g := s.group p
      let s := s.setGroup p (g.setSlot sl { g.slot sl with state := .live })
      .next (s.raiseAt p sl { fault 0x10 with addr := BitVec.ofNat 64 most })

end Sys2Proof.Machine
end

