-- ==== Sys2Proof/Machine/Zone.lean ====
section
/-! DEFINITION. Landing zones at their core (R186 to R192, R267 to R271): a slot's events, revoking a zone, and
what completes a waiting `LZWAIT`. -/

namespace Sys2Proof.Machine

open Sys2Proof

/-- A zone number of a core. -/
def State.zone (s : State) (core n : Nat) : Zone := s.zones.look (core * 16 + n) {}
/-- The state with a zone number replaced. -/
def State.setZone (s : State) (core n : Nat) (z : Zone) : State := { s with zones := s.zones.put (core * 16 + n) z }
/-- A slot of a zone. -/
def Zone.slot (z : Zone) (i : Nat) : LzSlot := z.slots.look i {}
/-- The bytes of a zone's slots (R186). -/
def Zone.slotBytes (z : Zone) : Nat := 256 * 2 ^ z.sz
/-- The slot is reserved or filling. -/
def LzSlot.busy (x : LzSlot) : Bool := x.state = 1 || x.state = 2
/-- A slot takes a credit of `c` bytes (R269). -/
def LzSlot.credit (x : LzSlot) (c : Nat) : LzSlot :=
  if !x.busy then x
  else if x.pending < c then { x with state := 4, cause := 3 }
  else { x with pending := x.pending - c, state := if x.pending = c then 3 else 2 }
/-- A slot fails: tag failure is cause 1, a lost link cause 2 (R269). -/
def LzSlot.fail (x : LzSlot) (cause : Nat) : LzSlot := if x.busy then { x with state := 4, cause := cause } else x
/-- A slot is revoked (R269). -/
def LzSlot.revoke (x : LzSlot) : LzSlot := if x.busy then { x with state := 5, cause := 4 } else x

/-- The state in which `LZWAIT` need not wait (R192). -/
def LzSlot.settled (x : LzSlot) : Bool := !x.busy

/-- The zone number of a descriptor (R186). -/
def descZone (d : Dword) : Nat := field d.toNat 7 4

/-- An `LZWAIT` completes (R192): on an arrived slot it is an acquire at `.s`. -/
def State.finishLzwait (s : State) (p : Nat) (sl : SlotId) (x : LzSlot) : State :=
  (if x.state = 3 then s.acquire p .s else s).resumeSlot p sl

/-- The slots that wait on a zone of a core go on where their landing slot has settled. -/
def State.wakeZone (s : State) (core n : Nat) : State :=
  (s.coreGroups core).foldl (fun s e =>
    [SlotId.A, SlotId.B].foldl (fun s sl =>
      match ((s.group e.1).slot sl).state with
      | .waiting (.lzwait d i) =>
        let x := (s.zone core n).slot i
        if descZone d = n && x.settled then s.finishLzwait e.1 sl x else s
      | _ => s) s) s

/-- A message that has passed the filter into a zone is not yet settled (R275). -/
def State.landingIn (s : State) (core n : Nat) : Bool :=
  s.landing.any fun m => m.writes.any fun w => w.core = core && w.zone = n

/-- A zone closed or revoked (R187, R269, R274): its generation advances, which its tag remembers (R394), and its cooldown
begins. -/
def State.revokeZone (s : State) (core n : Nat) : State :=
  let z := s.zone core n
  let slots := z.slots.map (fun e => (e.1, e.2.revoke))
  ({ s.setZone core n { z with gen := z.gen + 1, open_ := false, slots := slots, cooling := true, advanced := s.ftime,
                               held := s.landingIn core n } with
     tagTime := s.tagTime.put z.tag.toNat s.ftime } : State).wakeZone core n

/-- Zone numbers that are no longer held: closed, with every message settled (R267, R275). -/
def State.freeZones (s : State) : State :=
  { s with zones := s.zones.map fun e =>
      if e.2.open_ || e.2.opening || s.landingIn (e.1 / 16) (e.1 % 16) then e else (e.1, { e.2 with held := false }) }

/-- A team's zone whose `LZOPEN` is not complete is given up. -/
def State.dropOpening (s : State) (team : Nat) : State :=
  { s with zones := s.zones.map fun e =>
      if e.2.opening && e.2.team = team && e.1 / 16 = team / 16 then (e.1, { e.2 with opening := false, held := false })
      else e }

/-- The zones that a team holds open. -/
def State.teamZones (s : State) (team : Nat) : List Nat :=
  (List.range 16).filter (fun n =>
    let z := s.zone (team / 16) n
    z.open_ && z.team = team)

end Sys2Proof.Machine
end

