-- ==== Sys2Proof/Machine/Stack.lean ====
section
/-! DEFINITION. The divergence stack (R116, R117), `FORK`, `JOIN` and `EXIT` with their repeated decisions
(R118 to R123), and the ends of groups and teams (R215, R217). -/

namespace Sys2Proof.Machine

open Sys2Proof

/-! Ends. -/

/-- A team ends with its last group (R217, R274): its zones are revoked and its pairs discarded. -/
def State.endTeam (s : State) (k : Nat) : State :=
  let s := (s.teamZones k).foldl (fun s n => s.revokeZone (k / 16) n) (s.dropOpening k)
  let t := s.team k
  let c := s.ctx t.ctx
  let s := s.setTeam k { t with ended := true, k := [], kwr := [], tile := [], acc := [], shadows := [], shadow := [] }
  s.setCtx t.ctx { c with finished := c.finished + 1 }

/-- A group ends when both its slots are FREE (R123, R215): its open batch is sealed at `.d`, and the rest of
its work goes on. -/
def State.endGroup (s : State) (p : Nat) : State :=
  let g := s.group p
  let s := if g.openBatch.used && !g.batchesFull then (s.sealBatch p 3).1 else s
  let s := (s.setGroup p { s.group p with ended := true }).releaseViews p
  let t := s.team g.team
  let t := { t with endedGroups := t.endedGroups ++ [p] }
  let s := s.setTeam g.team t
  if t.groups.all (fun q => t.endedGroups.contains q) then s.endTeam g.team else s

/-! The stack. -/

/-- Why a decision at the stack does not come about now: a fault, or a peer's line that must be asked for
first (R147). -/
inductive Stop
  | fault (f : FaultInfo)
  | wait (s : State)

/-- A decision that may read or write the stack. -/
abbrev Dec (α : Type) := Except Stop α

/-- A check as part of a decision. -/
def Chk.dec {α : Type} (c : Chk α) : Dec α :=
  match c with
  | .ok a => .ok a
  | .error f => .error (.fault f)

/-- The decision's state, its fault taken by the issuing slot, or the wait. -/
def State.decided (s : State) (d : Dec State) : State :=
  match d with
  | .ok t => t
  | .error (.fault f) => s.raise f
  | .error (.wait t) => t

/-- `s63`, the next free entry (R116). -/
def State.stackPtr (s : State) : Chk Dword :=
  let r := s.g.getS 63
  if r.poison then .error (poisonOf 1 63) else .ok r.val

/-- `FLT.STACK` (R419). -/
def stackFlt (sp : Dword) : FaultInfo := { fault 0x0F with addr := sp }

/-- A push's check (R116). -/
def pushOk (g : Group) (sp : Dword) : Chk Unit := do
  need (sp.toNat % 16 = 0) { align with addr := sp }
  need (g.dsbase.toNat ≤ sp.toNat && sp.toNat + 16 ≤ g.dslim.toNat && sp.toNat - g.dsbase.toNat < 0x100000) (stackFlt sp)

/-- A pop's or a top's check (R116). -/
def topOk (g : Group) (sp : Dword) : Chk Unit := do
  need (sp.toNat % 16 = 0) { align with addr := sp }
  need (g.dsbase.toNat + 16 ≤ sp.toNat && sp.toNat ≤ g.dslim.toNat) (stackFlt sp)

/-- A stack entry (R117). -/
structure Entry where
  waiting : Bool
  owner : SlotId
  cc : Cond
  addr : Addr
  gm : Word
  mask : Word
  deriving DecidableEq, Repr

/-- The bytes of an entry (R117). -/
def Entry.bytes (e : Entry) : List Byte :=
  bytesOf 8 (oneIf e.waiting * 2 ^ 63 + slotBit e.owner * 2 ^ 62 + oneIf e.cc.z * 2 ^ 61 + oneIf e.cc.n * 2 ^ 60 +
    oneIf e.cc.c * 2 ^ 59 + oneIf e.cc.v * 2 ^ 58 + e.addr.toNat) ++
  bytesOf 8 (e.gm.toNat * 2 ^ 32 + e.mask.toNat)

/-- The entry that bytes hold, if it is valid (R117). -/
def Entry.ofBytes (bs : List Byte) : Option Entry :=
  let d0 := Machine.ofBytes (bs.take 8)
  let d1 := Machine.ofBytes (bs.drop 8)
  let gm := BitVec.ofNat 32 (d1 / 2 ^ 32)
  let mask := BitVec.ofNat 32 d1
  if bitOf d0 57 || d0 % 4 ≠ 0 || mask = 0 || !gmValid gm then none
  else
    some { waiting := bitOf d0 63, owner := if bitOf d0 62 then .B else .A,
           cc := { z := bitOf d0 61, n := bitOf d0 60, c := bitOf d0 59, v := bitOf d0 58 },
           addr := BitVec.ofNat 57 d0, gm := gm, mask := mask }

/-- The place of an entry, asked for of its peer first where it must be (R116, R147). Like every access it waits for an earlier `PUBLISH`
of the group (R242). -/
def State.entryLoc (s : State) (i : Instr) (va : Nat) (k : Need) : Dec Loc :=
  if !s.memReady then .error (.wait s)
  else
  match tlbUnit s va 16 k with
  | .error f => .error (.fault f)
  | .ok t =>
    let u := tlbHold s 0 va 16 t.loc (k != .write)
    if u.waits then
      .error (.wait (s.setG { s.g with hold := some { slot := s.curSlot, instr := i, lanes := s.sl.mask, units := [u] } }))
    else .ok t.loc

/-- The top entry (R116, R117), with the state after its read. A poisoned entry faults; R419 gives that fault
no address (log entry 5). -/
def State.top (s : State) (i : Instr) (sp : Dword) : Dec (State × Entry) := do
  Chk.dec (topOk s.g sp)
  let va := sp.toNat - 16
  let loc ← s.entryLoc i va .read
  let r := (s.touchUnit s.cur s.sl.pc .g loc va 16 false).readLoc s.cur loc 16 .g
  if r.2.any (·.2) then .error (.fault { fault 0x0E with addr := Config.freeWord s.draws })
  else
    match Entry.ofBytes (r.2.map (·.1)) with
    | none => .error (.fault (stackFlt sp))
    | some e => .ok (r.1, e)

/-- An entry written at an address (R116). -/
def State.putEntry (s : State) (i : Instr) (va : Nat) (e : Entry) : Dec State := do
  let loc ← s.entryLoc i va .write
  .ok ((s.touchUnit s.cur s.sl.pc .g loc va 16 true).memWriteAt (coreKey s.cur) (s.anchorOf s.cur) loc e.bytes .g)

/-- `s63` written. -/
def State.setStack (s : State) (sp : Dword) : State := s.setG (s.g.setS 63 sp)

/-- The other slot of the issuing group. -/
def State.other (s : State) : Slot := s.g.slot (otherSlot s.curSlot)
/-- The other slot of the issuing group replaced. -/
def State.setOther (s : State) (y : Slot) : State := s.setG (s.g.setSlot (otherSlot s.curSlot) y)

/-! `FORK`. -/

/-- `FORK` (R118, R122). -/
def State.fork (s : State) (p : BitVec 4) (o : BitVec 20) : Dec State := do
  let w ← Chk.dec (s.g.readP p.toNat)
  let x := s.sl
  let yes := x.mask &&& w
  let no := x.mask &&& ~~~w
  let target := s.branchTarget o
  let both := (yes ++ no : BitVec 64).toNat
  if yes = 0 then .ok (s.traceHere 5 0 both).advance
  else
    Chk.dec (need (s.targetOk s.cur target) (clauseFlt (target.setWidth 64)))
    if no = 0 then
      let s := s.traceHere 5 1 both
      .ok (s.setSl (s.sl.goto target))
    else
      let m ← Chk.dec x.mode
      if s.other.state = .free then
        let s := s.traceHere 5 2 both
        let y : Slot := { state := .live, pc := target, mask := yes, gm := m, cc := x.cc, own := 0 }
        .ok ((s.setOther y).setSl { x.past with mask := no })
      else
        let sp ← Chk.dec s.stackPtr
        Chk.dec (pushOk s.g sp)
        let e : Entry := { waiting := false, owner := s.curSlot, cc := x.cc, addr := x.pc + 4, gm := m, mask := no }
        let s ← s.putEntry (.fork p o) sp.toNat e
        let s := (s.traceHere 5 3 both).setStack (sp + 16)
        .ok (s.setSl { x.goto target with mask := yes, own := x.own + 1 })

/-- `FORK` (R118). -/
def execFork (p : BitVec 4) (o : BitVec 20) (s : State) : Out := .next (s.decided (s.fork p o))

/-! `JOIN` and `EXIT`. -/

/-- The slot waits at a barrier. -/
def atBarrier : SlotState → Bool
  | .waiting (.bar _) => true
  | .waiting (.cbar _) => true
  | _ => false

/-- The slot waits in `PARKED` or `EXITWAIT`, if the group could still arrive (R119, R123, R129). -/
def State.settle (s : State) (st : SlotState) (type sub d1 : Nat) : Dec State :=
  if atBarrier s.other.state then .error (.fault (fault 0x05))
  else if s.sl.state = st then .ok s
  else
    let s := s.traceHere type sub d1
    .ok (s.setSl { s.sl with state := st })

/-- The top entry, if there is one and the issuing slot owns it (R119). -/
def State.ownTop (s : State) (i : Instr) (sp : Dword) : Dec (State × Option Entry) :=
  if s.g.dsbase.toNat < sp.toNat then do
    let r ← s.top i sp
    .ok (r.1, if r.2.owner = s.curSlot then some r.2 else none)
  else .ok (s, none)

/-- The lanes of an entry started in the issuing slot (R119, R123). -/
def Slot.start (x : Slot) (e : Entry) (pc : Addr) : Slot :=
  { x with state := .live, pc := pc, clause := none, left := none, mask := e.mask, gm := e.gm, gmPoison := false, cc := e.cc }

/-- The decision of `JOIN` at its word (R119, R121, R122). An entry starts only at a clause header (R21). A waiting entry
that the slot owns while its count `own` is 0, one that the program wrote itself, leaves the count 0 (log entry 56). -/
def State.join (s : State) : Dec State := do
  let x := s.sl
  let w := x.pc
  let y := s.other
  let sp ← Chk.dec s.stackPtr
  let r ← s.ownTop .join sp
  let s := r.1
  let pass := fun (s : State) (sub : Nat) (m : Word) =>
    (s.traceHere 6 sub m.toNat).setSl { x.past with state := .live, mask := m }
  match r.2 with
  | some e =>
    if !e.waiting then
      Chk.dec (need (s.targetOk s.cur e.addr) (clauseFlt (e.addr.setWidth 64)))
      let gm ← Chk.dec x.mode
      let mine : Entry := { waiting := true, owner := s.curSlot, cc := x.cc, addr := w, gm := gm, mask := x.mask }
      let s ← s.putEntry .join (sp.toNat - 16) mine
      .ok ((s.traceHere 6 3 e.mask.toNat).setSl (x.start e e.addr))
    else if e.addr = w then
      let s := pass s 4 (x.mask ||| e.mask)
      .ok ((s.setSl { s.sl with own := x.own - 1 }).setStack (sp - 16))
    else .error (.fault (fault 0x05))
  | none =>
    if 0 < x.own then
      if sp = s.g.dsbase then .error (.fault (stackFlt sp))
      else s.settle (.parked w) 6 1 x.mask.toNat
    else
      match y.state with
      | .free => .ok (pass s 0 x.mask)
      | .parked v =>
        if v = w then .ok ((pass s 2 (x.mask ||| y.mask)).setOther {})
        else .error (.fault (fault 0x05))
      | _ => s.settle (.parked w) 6 1 x.mask.toNat

/-- `JOIN` (R119). -/
def execJoin (s : State) : Out := .next (s.decided s.join)

/-- The decision of `EXIT` (R123). An entry starts only at a clause header (R21). `ended` are the lanes that end with it: none where it is repeated. -/
def State.exit (s : State) (ended : Word) : Dec State := do
  let x := s.sl
  let sp ← Chk.dec s.stackPtr
  let r ← s.ownTop .exit sp
  let s := r.1
  let packet := fun (s : State) (sub : Nat) (m : Word) => s.traceHere 7 sub (ended.toNat * 2 ^ 32 + m.toNat)
  match r.2 with
  | some e => do
    let pc := if e.waiting then e.addr + 4 else e.addr
    Chk.dec (need (s.targetOk s.cur pc) (clauseFlt (pc.setWidth 64)))
    let s := packet s (if e.waiting then 3 else 2) e.mask
    .ok ((s.setSl { x.start e pc with own := x.own - 1 }).setStack (sp - 16))
  | none =>
    if 0 < x.own then s.settle .exitwait 7 1 (ended.toNat * 2 ^ 32 + x.mask.toNat)
    else
      let s := packet s 0 0
      let s := s.setSl {}
      let y := s.other
      match y.state with
      | .parked _ => .ok (s.setOther { y.past with state := .live })
      | .free => .ok (s.endGroup s.cur)
      | _ => .ok s

/-- `EXIT` (R123, R280). -/
def execExit (s : State) : Out :=
  match notInSection s with
  | .error f => .next (s.raise f)
  | .ok _ => .next (s.decided (s.exit s.sl.mask))

/-! Repeated decisions (R120). -/

/-- A group's parked slots may decide now: no fault, hold or halt stops it. -/
def Group.deciding (g : Group) : Bool :=
  g.live && !g.ended && g.fault.isNone && g.hold.isNone && g.rel.isNone && !g.halted && g.service.isNone

/-- What a slot's decision depends on: `s63`, and the state of the other slot (R120). -/
def Group.view (g : Group) (sl : SlotId) : PDword × SlotState := (g.getS 63, (g.slot (otherSlot sl)).state)

/-- A decision is to be made: `s63` or the other slot's state has changed since the last one, or none was made since the
group was resumed (R120). -/
def Group.due (g : Group) (sl : SlotId) : Bool := g.deciding && (g.slot sl).seen != some (g.view sl)

/-- A slot that still waits has made its decision, unless a peer's line or an open `PUBLISH` keeps it from the stack. -/
def State.sawView (s : State) (p : Nat) (sl : SlotId) (v : PDword × SlotState) : State :=
  let g := s.group p
  if g.hold.isSome || s.openPub p then s else s.setGroup p (g.setSlot sl { g.slot sl with seen := some v })

/-- A slot's decision made again, if it is due (R120, R123). -/
def State.redecide (s : State) (p : Nat) (sl : SlotId) : State :=
  let g := s.group p
  if !g.due sl then s
  else
    match (g.slot sl).state with
    | .parked _ => (s.asSlot p sl fun s => s.decided s.join).sawView p sl (g.view sl)
    | .exitwait => (s.asSlot p sl fun s => s.decided (s.exit 0)).sawView p sl (g.view sl)
    | _ => s

/-- `JOIN_REDECIDE` (R120). -/
def execJoinRedecide (p : Nat) (sl : SlotId) (s : State) : Out :=
  match ((s.group p).slot sl).state with
  | .parked _ => .next (s.redecide p sl)
  | _ => .next s

/-- `EXIT_REDECIDE` (R120, R123). -/
def execExitRedecide (p : Nat) (sl : SlotId) (s : State) : Out :=
  if ((s.group p).slot sl).state = .exitwait then .next (s.redecide p sl) else .next s

/-- The group of a resumption decides at once (R120). -/
def Group.forget (g : Group) : Group :=
  { g with slotA := { g.slotA with seen := none }, slotB := { g.slotB with seen := none } }

end Sys2Proof.Machine
end

