-- ==== Sys2Proof/Machine/Clause.lean ====
section
/-! DEFINITION. Which slot can issue (R208), the fetch and start of a clause (R17 to R22), breakpoints (R440)
and words that name no instruction (R66). -/

namespace Sys2Proof.Machine

open Sys2Proof

/-- The group at a place may issue at all (R147, R208, R209, R348, R422, R442, R404). -/
def State.groupReady (s : State) (p : Nat) : Bool :=
  let g := s.group p
  g.live && !g.ended && g.fault.isNone && g.hold.isNone && g.rel.isNone && !g.halted && g.service.isNone &&
    (isMast p || (g.file = .active && (s.ctx g.ctx).phase = .run)) && !s.stopped

/-- A slot of a group may issue, or start its next clause (R208). A step request names the one slot that may (R443). -/
def State.slotReady (s : State) (p : Nat) (sl : SlotId) : Bool :=
  s.groupReady p && ((s.group p).slot sl).state = .live &&
    (match (s.group p).stepSlot with
      | none => true
      | some x => x = sl)

/-! Clauses. -/

/-- The number of instruction words of a header (R18). -/
def headerWords (h : Word) : Nat := field h.toNat 31 28 + 1
/-- The flags that a header waits on (R18). -/
def headerWaits (h : Word) : List Nat := (List.range 12).filter (fun i => bitOf h.toNat (16 + i))
/-- The header is legal (R19). -/
def headerOk (h : Word) : Bool :=
  let a := field h.toNat 15 12
  let b := field h.toNat 11 8
  !(12 ≤ a && a ≤ 14) && !(12 ≤ b && b ≤ 14) && field h.toNat 5 0 = 0

/-- The words of a clause fetched in order (R20). -/
def fetchWords (s : State) (p : Nat) (a : Addr) : Nat → Chk (List Word)
  | 0 => .ok []
  | n + 1 => do
    let w ← fetchWord s p a
    let r ← fetchWords s p (a + 4) n
    .ok (w :: r)

/-- The structural conditions of R20. -/
def clauseOk (ws : List Word) : Bool :=
  (ws.filter wordIsLong).length ≤ 2 && !(ws.dropLast.any wordTransfers)

/-- The places of code words that may be fetched, with their addresses. -/
def State.codePlaces (s : State) (p : Nat) (a : Addr) (n : Nat) : List (Addr × Loc) :=
  ((List.range n).map fun i => a + BitVec.ofNat 57 (4 * i)).filterMap fun va =>
    (fetchPlace s p va).toOption.map fun l => (va, l)

/-- The hold for code words on peer pages that their home slices do not hold admitted (R20, R147; log entry 55): one
unit for each sector. -/
def State.fetchHold (s : State) (p : Nat) (sl : SlotId) (a : Addr) (n : Nat) : Option Hold :=
  let us := (s.codePlaces p a n).map fun e => tlbHold s 0 e.1.toNat 4 e.2 true
  match (us.filter (·.waits)).foldl (fun l u => if l.any (fun v => v.loc.key / 32 = u.loc.key / 32) then l else l ++ [u]) [] with
  | [] => none
  | u :: r => some { slot := sl, instr := .clauseStart p sl, lanes := 1, units := u :: r }

/-- The lines of fetched code words come into their home slices (R231, R387). -/
def State.touchCode (s : State) (p : Nat) (a : Addr) (n : Nat) : State :=
  (s.codePlaces p a n).foldl (fun s e =>
    let s := s.touchUnit p a .d e.2 e.1.toNat 4 false
    match e.2 with
    | .phys k => if (s.l2Word (k / 4)).valid then s else s.fillL2 (k / 4)
    | _ => s) s

/-- The header of the clause that a word within a clause belongs to, at most seventeen words back (R18, R77). -/
def State.headerOf (s : State) (p : Nat) (va : Addr) : Option Addr :=
  ((List.range 17).map (fun i => va - BitVec.ofNat 57 (4 * (i + 1)))).find? (fun a => s.targetOk p a)

/-- The slot of a group starts its next clause (R20 to R22). A restored slot that stands at a word within a clause goes on
there once its clause is fetched (R346), also after a page or permission fault of that fetch, whose record names this word, as words of the
clause have issued (DESIGN CHOICE, log entry 27). The group is held while a peer's code words are on their way (R147). -/
def State.startClause (s : State) (p : Nat) (sl : SlotId) : State :=
  let g := s.group p
  let x := g.slot sl
  let failAt := fun (pc : Addr) (f : FaultInfo) =>
    (s.setGroup p (g.setSlot sl { x with pc := pc, clause := none, left := none })).raiseAt p sl f
  let bad := clauseFlt (x.pc.setWidth 64)
  let held := fun (h : Hold) => s.setGroup p { g with hold := some h }
  let begin_ := fun (a : Addr) (within : Bool) =>
    match fetchWord s p a, s.fetchHold p sl a 1 with
    | .error f, _ => failAt (if within then x.pc else a) f
    | .ok _, some h => held h
    | .ok h, none =>
      let n := headerWords h
      if !headerOk h then failAt a (clauseFlt (a.setWidth 64))
      else if !within && (headerWaits h).any (fun i => g.flags.look i 0 != 0) then s
      else
        match fetchWords s p (a + 4) n, s.fetchHold p sl (a + 4) n with
        | .error f, _ => failAt (if within then x.pc else a) f
        | .ok _, some h => held h
        | .ok ws, none =>
          let c : Clause := { hdr := a, header := h, words := ws, idx := 0 }
          let i := (x.pc - a).toNat / 4
          if !clauseOk ws then failAt a (clauseFlt (a.setWidth 64))
          else if !within then
            (s.touchCode p a (n + 1)).setGroup p (g.setSlot sl { x with pc := a + 4, clause := some c, left := none })
          else if i ≤ c.words.length then
            (s.touchCode p a (n + 1)).setGroup p (g.setSlot sl { x with clause := some { c with idx := i - 1 }, left := none })
          else if i = c.words.length + 1 then failAt a bad
          else failAt x.pc bad
  if s.targetOk p x.pc then begin_ x.pc false
  else
    match x.left with
    | some h => failAt h bad
    | none =>
      match s.headerOf p x.pc with
      | some a => begin_ a true
      | none => failAt x.pc bad

/-- `CLAUSE_START` (R22). -/
def execClauseStart (p : Nat) (sl : SlotId) (s : State) : Out :=
  if s.slotReady p sl && ((s.group p).slot sl).clause.isNone then .next (s.startClause p sl) else .next s

/-! Breakpoints. -/

/-- The breakpoint that the word at an address of a group matches (R440), the lowest one. -/
def State.breakpoint (s : State) (p : Nat) (pc : Addr) : Option Nat :=
  let o := s.originOf (s.ctx (s.group p).ctx) pc
  if isMast p then none
  else (List.range 4).find? fun n =>
    let b := s.bpaddr.look n 0
    let k := s.bpkid.look n 0
    b.getLsbD 63 && b.setWidth 57 = o.1 && (k = 0 || k = o.2)

/-- A slot is about to issue a word that a breakpoint names, and has not passed it (R440). -/
def State.breakDue (s : State) (p : Nat) (sl : SlotId) : Option Nat :=
  let g := s.group p
  let x := g.slot sl
  if s.slotReady p sl && x.clause.isSome && !g.passBp.contains (sl, x.pc) then s.breakpoint p x.pc else none

/-- `BREAKPOINT_MATCH` (R440). -/
def execBreakpointMatch (p : Nat) (sl : SlotId) (s : State) : Out :=
  match s.breakDue p sl with
  | none => .next s
  | some n =>
    let g := s.group p
    let s := s.setGroup p { g with passBp := (sl, (g.slot sl).pc) :: g.passBp.filter fun e => e.1 != sl }
    .next (s.breakAt p sl { fault 0x13 with num := BitVec.ofNat 16 (0x8000 + n) })

/-! Words that name no instruction. -/

/-- `ILLEGAL_INSTRUCTION_WORD` (R66): the fault that the word's bits give it. A word that meets conditions of both classes
takes `FLT.ILLOP` (DESIGN CHOICE, log entry 62). -/
def execIllegalInstructionWord (w : BitVec 32) (s : State) : Out :=
  match decode w with
  | none => .next (s.raise { fault 0x03 with addr := w.setWidth 64 })
  | some i => if operandBitsOk i then .next s else .next (s.raise opnd)

end Sys2Proof.Machine
end

