-- ==== Sys2Proof/Machine/Copy.lean ====
section
/-! DEFINITION. The copy instructions at issue (R167, R176 to R185, R259): their checks, their transfer
operations, and sealing, waiting for and testing batches. -/

namespace Sys2Proof.Machine

open Sys2Proof

/-! Tiles (R168). -/

/-- A word of a tile. -/
def Team.tileWord (t : Team) (tile w : Nat) : PWord := t.tile.look (tile * 4096 + w) {}
/-- A byte of a tile, with its word's poison. -/
def Team.tileByte (t : Team) (tile b : Nat) : Byte × Bool :=
  let w := t.tileWord tile (b / 4)
  ((bytesOf 4 w.val.toNat).getD (b % 4) 0, w.poison)
/-- Bytes of tiles written, from byte `a` of all the team's tiles: a whole word takes the poison of its bytes,
part of one adds to the word's own (R425). -/
def Team.putTile (t : Team) (a : Nat) (bs : List (Byte × Bool)) : Team :=
  (wordParts a bs.length).foldl (fun t e =>
    let part := (bs.drop e.2.2.1).take e.2.2.2
    let o := t.tile.look e.1 {}
    let p := part.any (·.2)
    { t with tile := t.tile.put e.1 ⟨mergeBytes o.val e.2.1 (part.map (·.1)), if part.length = 4 then p else o.poison || p⟩ }) t

/-! Transfer operations. -/

/-- The node and address of a place, as one number (R260). -/
def State.nodeKey (s : State) (l : Loc) : Nat :=
  match l with
  | .peer n _ a => n.toNat * 2 ^ 90 + a
  | _ => s.node.toNat * 2 ^ 90 + l.key

/-- The place `n` bytes on. -/
def Loc.add (l : Loc) (n : Nat) : Loc :=
  match l with
  | .phys a => .phys (a + n)
  | .desc c o => .desc c (o + n)
  | .spad c o => .spad c (o + n)
  | .peer m k a => .peer m k (a + n)

/-- The issuing group's dirty words in the lines of a source pushed to where the engine reads it (R176): the anchor's first, so that
what the core itself wrote last is what stands there (R253). -/
def State.pushSource (s : State) (l : Loc) (n : Nat) : State :=
  let first := l.key / 128 * 32
  let words := (List.range ((l.key + n + 127) / 128 * 32 - first)).map (first + ·)
  let core := coreKey s.cur
  let anchor := s.anchorOf s.cur
  match l with
  | .phys a =>
    if isHostPa a then words.foldl (fun s w => s.pushHost w) s
    else words.foldl (fun s w => (s.pushWord anchor w .home).pushWord core w .home) s
  | .peer m k a => s.pushUnit .s (.peer m k (a / 128 * 128)) (4 * words.length)
  | _ => s

/-- The operation is a `CPQ`. -/
def Xfer.isCpq (x : Xfer) : Bool :=
  match x.kind with
  | .cpq _ _ _ _ => true
  | _ => false

/-- The words of one tile of a team. -/
def Team.tileWords (t : Team) (n : Nat) : Tab PWord := t.tile.filter fun e => e.1 / 4096 = n

/-- A core's requantising unit starts its oldest `CPQ`, unless it runs it already: the whole source tile is read then
(R266; log entry 19). -/
def State.startCpq (s : State) (core : Nat) : State :=
  match s.xfers.find? fun x => x.isCpq && coreKey x.place = core with
  | none => s
  | some x =>
    match x.kind, x.source with
    | .cpq _ src _ _, none =>
      let y := { x with source := some ((s.team x.team).tileWords src) }
      { s with xfers := s.xfers.map fun z => if z.id = x.id then y else z }
    | _, _ => s

/-! The packets of an operation that is bound for a peer (R260, R265). -/

/-- The bytes of places, each once: what is written last remains. -/
def byteTable {α : Type} (l : List (Nat × List α)) : Tab α :=
  l.foldl (fun t e => t.puts (e.2.zipIdx.map fun b => (e.1 + b.2, b.1))) []

/-- The runs of listed bytes that lie together: first address and bytes. -/
def runsOf (t : Tab Byte) : List (Nat × List Byte) :=
  t.foldl (fun r e =>
    match r.getLast? with
    | some q => if q.1 + q.2.length = e.1 then r.dropLast ++ [(q.1, q.2 ++ [e.2])] else r ++ [(e.1, [e.2])]
    | none => [(e.1, [e.2])]) []

/-- Where a piece goes in a peer or in the slots of a peer: node, key and address. -/
def Move.far (ts : List CplTarget) (m : Move) : Option (BitVec 19 × Word × Nat) :=
  match m.dst, ts with
  | .mem _ (.peer n k a), _ => if m.hidden then none else some (n, k, a)
  | .slot o, t :: _ => some (t.node, t.gen ++ (0 : BitVec 24), o)
  | _, _ => none

/-- Pieces as the packets take them: a `CPG` row by its source lines (R265), any other operation whole. -/
def pieces (kind : XKind) (ms : List Move) : List (List Move) :=
  if kind = .cpg then ((ms.map (·.va / 128)).eraseDups).map fun l => ms.filter fun m => m.va / 128 = l else [ms]

/-- The packets of an operation bound for a peer: one, or one for each run of bytes where what it writes does not lie together (R260;
log entry 20). A packet of a multicast `CPL` names its first slot (R272). -/
def xferParts (own : BitVec 19) (kind : XKind) (ms : List Move) (ts : List CplTarget) : List XPart :=
  (pieces kind ms).flatMap fun ms =>
    let far := ms.filterMap fun m => (m.far ts).map fun f => (f, m.n)
    ((far.map fun f => (f.1.1, f.1.2.1)).eraseDups).flatMap fun k =>
      if k.1 = own then []
      else
        (runsOf (byteTable ((far.filter fun f => (f.1.1, f.1.2.1) = k).map fun f => (f.1.2.2, List.replicate f.2 0)))).map fun r =>
          { node := k.1, die := ((ts.head?).map (·.die)).getD (homeDie r.1), key := k.2, addr := r.1, n := r.2.length }

/-- Operations' packets with their messages (R260): by node and address in ascending order, up to three to a message, never two nodes in
one. -/
def lotsOf (ps : List (Nat × XPart)) : List (Nat × XPart) :=
  let ps := sortBy (fun p => p.2.node.toNat * 2 ^ 52 + p.2.addr) ps
  let lots := ((ps.map (·.2.node)).eraseDups).flatMap fun n => threes (ps.filter (·.2.node = n))
  lots.zipIdx.flatMap fun l => l.1.map fun p => (p.1, { p.2 with lot := l.2 })

/-- The operations of one copy instruction enter the table and the open batch (R176, R259, R262). -/
def State.addXfers (s : State) (kind : XKind) (res : Nat) (ops : List (List Move × List CplTarget)) : State :=
  let g := s.g
  let s := (ops.flatMap (·.1)).foldl (fun s m => s.pushSource m.src m.n) s
  let lots := lotsOf (ops.zipIdx.flatMap fun e => (xferParts s.node kind e.1.1 e.1.2).map fun p => (e.2, p))
  let xs : List Xfer := ops.zipIdx.map fun e =>
    { id := s.nextId + e.2, place := s.cur, tag := g.tag, key := placeKey s.cur g, pc := s.sl.pc, team := g.team, kind := kind,
      moves := e.1.1, targets := e.1.2, shared := decide (res ≤ e.2), inst := s.nextId,
      parts := (lots.filter (·.1 = e.2)).map (·.2) }
  let b := g.openBatch
  let n := ops.length
  let s := s.countHere 8 n
  let s := { s with nextId := s.nextId + n, xfers := s.xfers ++ xs }
  let s := s.setG { s.g with openBatch := { b with used := true, undrained := b.undrained + n, unlanded := b.unlanded + n } }
  (s.startCpq (coreKey s.cur)).txDone

/-- A copy instruction whose checks have passed: nothing for no operation, a wait where the table lacks room. -/
def copyIssue (s : State) (kind : XKind) (ops : List (List Move × List CplTarget)) : State :=
  if ops.isEmpty then s.advance
  else
    match s.txRoom ops.length with
    | none => s.txOffer
    | some r => (s.addXfers kind r ops).advance

/-- A unit of a copy whose virtual address alone must be aligned (R145, R190). -/
def plainUnit (s : State) (x : BitVec 3) (lane off n : Nat) (k : Need) : MUnit :=
  let xr := s.g.getX x.toNat
  { lane := lane, reg := 0, va := xr.base.toNat + off, bytes := n, tr := translateUnit s s.cur xr off n k }

/-- The units of one side of a copy: offset and virtual address must both be aligned (R145, R182, R183). -/
def copyUnit (s : State) (x : BitVec 3) (lane off n : Nat) (k : Need) : MUnit :=
  let xr := s.g.getX x.toNat
  { lane := lane, reg := 0, va := xr.base.toNat + off, bytes := n,
    tr := if xr.valid && off % n ≠ 0 then .error align else translateUnit s s.cur xr off n k }

/-- The checks 2 to 6 of R146 for a copy: poison of its offsets, its translation registers, its units. -/
def copyCheck (s : State) (lanes : Word) (regs : List Nat) (xs : List (BitVec 3)) (us : List MUnit) :
    Chk (List (MUnit × Trans)) := do
  checkPoison s.g lanes regs
  xs.foldl (fun (c : Chk Unit) x => do
    c
    need (!(s.g.getX x.toNat).poison) (poisonOf 4 x.toNat lanes)) (.ok ())
  need (xs.all fun x => (s.g.getX x.toNat).valid) { opnd with lanes := lanes }
  match badUnits us with
  | b :: bs => .error (pickFault (b :: bs))
  | [] => .ok (goodUnits us)

/-- The fault of an instruction that acts for the whole group, which names no lane. -/
def laneless {α : Type} : Chk α → Chk α
  | .error f => .error { f with lanes := 0 }
  | .ok x => .ok x

/-- Every second element, and those between. -/
def halves {α : Type} : List α → List (α × α)
  | a :: b :: r => (a, b) :: halves r
  | _ => []

/-- The moves of pairs of source and destination units. -/
def movesOf (us : List (MUnit × Trans)) : List (Nat × Move) :=
  (halves us).map fun e =>
    (e.1.1.lane, { va := e.1.1.va, src := e.1.2.loc, dst := .mem e.2.1.va e.2.2.loc, n := e.1.1.bytes })

/-- Two pieces write the same bytes, whichever virtual addresses name them. -/
def XDst.same : XDst → XDst → Bool
  | .mem _ a, .mem _ b => a.key = b.key
  | a, b => a = b

/-- A lane's moves, those whose bytes a later one of the list writes as well told from the rest (R149, R176). -/
def overwritten : List (Nat × Move) → List (Nat × Move)
  | [] => []
  | m :: r => (m.1, { m.2 with hidden := r.any fun e => e.2.dst.same m.2.dst }) :: overwritten r

/-- The bytes of a copy size (R182). -/
def copyBytes : CopySize → Nat
  | .b4 => 4 | .b8 => 8 | .b16 => 16

/-- The key of a move's destination line (R259). -/
def Move.line (m : Move) : Nat × Word :=
  match m.dst with
  | .mem _ (.peer n k a) => ((Loc.peer n k a).key / 128, k)
  | .mem _ l => (l.key / 128, 0)
  | .tile b => (b / 128, 0)
  | .slot o => (o / 128, 0)

/-- Moves gathered by destination line, in order of first use. -/
def byLine (ms : List Move) : List (List Move) :=
  (ms.map Move.line).eraseDups.map fun k => ms.filter fun m => m.line = k

/-- The place where an operation's first byte goes, as a number (R260). -/
def State.opKey (s : State) (ms : List Move) : Nat :=
  match ms with
  | { dst := .mem _ l, .. } :: _ => s.nodeKey l
  | { dst := .slot o, .. } :: _ => o
  | _ => 0

/-- A copy's outcome: the state that it issues to, or its fault. -/
def copyOut (s : State) (c : Chk State) : Out :=
  match c with
  | .ok t => .next t
  | .error f => .next (s.raise f)

/-- `CPY` (R182). -/
def execCpy (z : CopySize) (dx sx : BitVec 3) (dv sv : BitVec 8) (s : State) : Out :=
  if !s.memReady then .next s
  else
    copyOut s do
      notInSection s
      let g := s.g
      let a ← g.active s.curSlot
      need (g.vOk dv.toNat && g.vOk sv.toNat) { opnd with lanes := a }
      if a = 0 then .ok s.advance
      else
        let off := fun (r : BitVec 8) (l : Nat) => (g.getV r.toNat l).val.toNat
        let us := (lanesOf a).flatMap fun l =>
          [copyUnit s sx l (off sv l) (copyBytes z) .read, copyUnit s dx l (off dv l) (copyBytes z) .write]
        let ts ← copyCheck s a [dv.toNat, sv.toNat] [sx, dx] us
        let ops := sortBy s.opKey (byLine ((overwritten (movesOf ts)).map (·.2)))
        .ok (copyIssue s .cpy (ops.map fun o => (o, [])))

/-- The row of a lane of `CPG` (R183): source offset, destination offset, length. -/
def cpgRow (g : Group) (dv sv : BitVec 8) (l : Nat) : Nat × Nat × Nat :=
  let w := (g.getV (sv.toNat + 1) l).val.toNat
  (16 * (g.getV sv.toNat l).val.toNat * (w / 2 ^ 16), (g.getV dv.toNat l).val.toNat, w % 2 ^ 16)

/-- `CPG` (R183, R265): one operation a lane; where rows overlap, the highest lane's bytes remain whichever lands last
(R176). -/
def execCpg (dx sx : BitVec 3) (dv sv : BitVec 8) (s : State) : Out :=
  if !s.memReady then .next s
  else
    copyOut s do
      notInSection s
      let g := s.g
      let a ← g.active s.curSlot
      need (operandBitsOk (.cpg dx sx dv sv) && g.vOk dv.toNat && g.spanOk sv.toNat 2) { opnd with lanes := a }
      if a = 0 then .ok s.advance
      else
        let regs := [dv.toNat, sv.toNat, sv.toNat + 1]
        let badLen := (lanesOf a).filter fun l =>
          let n := (cpgRow g dv sv l).2.2
          !(g.getV (sv.toNat + 1) l).poison && (n = 0 || n % 16 ≠ 0)
        need badLen.isEmpty { opnd with lanes := maskOf badLen }
        checkPoison g a regs
        let us := (lanesOf a).flatMap fun l =>
          let r := cpgRow g dv sv l
          (List.range (r.2.2 / 16)).flatMap fun i =>
            [copyUnit s sx l (r.1 + 16 * i) 16 .read, copyUnit s dx l (r.2.1 + 16 * i) 16 .write]
        let ts ← copyCheck s a regs [sx, dx] us
        let ms := overwritten (movesOf ts)
        let rows := (lanesOf a).map fun l => (ms.filter (fun e => e.1 = l)).map (·.2)
        .ok (copyIssue s .cpg ((sortBy s.opKey rows).map fun o => (o, [])))

/-- The instruction acts for the whole group (R167). -/
def wholeGroup (s : State) : Chk Unit := do
  let a ← s.g.active s.curSlot
  need (a = BitVec.allOnes 32) (fault 0x05)

/-- `CPT` (R184, R266). -/
def execCpt (d : BitVec 4) (x : BitVec 3) (b : BitVec 7) (s : State) : Out :=
  if !s.memReady then .next s
  else
    copyOut s do
      notInSection s
      need (d.toNat < s.tm.tiles) opnd
      need (s.sideOk b) opnd
      wholeGroup s
      let v ← s.readSide b
      let n := v.toNat
      let rows := field n 62 56 + 1
      let row := field n 54 48
      let pitch := if field n 47 32 = 0 then 128 else field n 47 32
      let off := field n 31 0
      need (!bitOf n 63 && !bitOf n 55 && row + rows ≤ 128 && pitch % 16 = 0 && 128 ≤ pitch) opnd
      let us := (List.range rows).flatMap fun r =>
        (List.range 8).map fun i => copyUnit s x 0 (off + r * pitch + 16 * i) 16 .read
      let ts ← laneless (copyCheck s 0 [] [x] us)
      let ops := (List.range rows).map fun r =>
        ((ts.drop (8 * r)).take 8).zipIdx.map fun e =>
          ({ va := e.1.1.va, src := e.1.2.loc, dst := .tile (d.toNat * 16384 + (row + r) * 128 + 16 * e.2), n := 16 } : Move)
      .ok (copyIssue s .cpt (ops.map fun o => (o, [])))

/-- The types of `CPQ` (R185). -/
def cpqTy (c : Nat) : Option Ty :=
  match tyOf c with
  | some .e4m3 => some .e4m3
  | some .e5m2 => some .e5m2
  | some .e3m2 => some .e3m2
  | some .e2m3 => some .e2m3
  | some .e2m1 => some .e2m1
  | _ => none

/-- The control of `CPQ` is accepted (R185). -/
def cpqOk (n : Nat) : Bool :=
  n < 2 ^ 16 && (cpqTy (field n 4 0)).isSome && (cpqTy (field n 9 5)).isSome && field n 11 10 ≠ 0 && field n 13 12 ≠ 0

/-- `CPQ` (R185, R266). -/
def execCpq (d a : BitVec 4) (b : BitVec 7) (s : State) : Out :=
  copyOut s do
    notInSection s
    need (d.toNat < s.tm.tiles && a.toNat < s.tm.tiles && s.sideOk b) opnd
    wholeGroup s
    let v ← s.readSide b
    need (d != a && cpqOk v.toNat) opnd
    .ok (copyIssue s (.cpq d.toNat a.toNat v s.sl.gm) [([], [])])

/-! Batches. -/

/-- `SEAL` (R179). -/
def execSeal (d : BitVec 6) (sc : BitVec 8) (s : State) : Out :=
  if s.g.batchesFull then .next s
  else
    issue s fun s => do
      notInSection s
      need (operandBitsOk (.seal d sc)) opnd
      let r := s.sealBatch s.cur sc.toNat
      .ok (r.1.setG (r.1.g.setS d.toNat (BitVec.ofNat 64 r.2)))

/-- `CPWAIT.SRC` (R180). -/
def execCpwaitSrc (n : BitVec 8) (s : State) : Out :=
  transfer s fun s => do
    notInSection s
    need (operandBitsOk (.cpwaitSrc n)) opnd
    .ok (if s.g.srcMet n.toNat then s.advance else s.park (.cpwaitSrc n.toNat))

/-- `CPWAIT.VIS` (R180, R253). -/
def execCpwaitVis (n : BitVec 8) (s : State) : Out :=
  transfer s fun s => do
    notInSection s
    need (operandBitsOk (.cpwaitVis n)) opnd
    .ok (if s.g.visMet n.toNat then (s.acquireBatches s.cur s.g.sealOrder).advance else s.park (.cpwaitVis n.toNat))

/-- The status word of a batch number (R181, R253). -/
def Group.batchStatus (g : Group) (b : Nat) : Nat :=
  let x := g.batch b
  x.nfail * 2 ^ 24 + x.err.toNat * 2 ^ 16 + x.scope * 2 ^ 4 + oneIf (g.outstanding b) * 4 +
    oneIf (!x.used || g.landed b) * 2 + oneIf (!x.used || g.drained b)

/-- `CPTEST` (R181). -/
def execCptest (d : BitVec 6) (n : BitVec 8) (s : State) : Out :=
  issue s fun s => do
    notInSection s
    need (operandBitsOk (.cptest d n)) opnd
    .ok (s.setG (s.g.setS d.toNat (BitVec.ofNat 64 (s.g.batchStatus n.toNat))))

end Sys2Proof.Machine
end

