-- ==== Sys2Proof/Machine/Approx.lean ====
section
/-! DEFINITION. The approximated functions of R96: a reference value far finer than any bound, the bound,
and the result, which is the core's own answer wherever that lies within the bound (log entry 8). -/

namespace Sys2Proof.Machine

open Sys2Proof

/-- The fixed-point scale of the reference values: 2^192. -/
def fixBits : Nat := 192
/-- floor(π × 2^192). -/
def piFix : Nat := 19720096697726538562396133364228268891463450865190089732560
/-- floor(ln 2 × 2^192). -/
def ln2Fix : Nat := 4350955369971217654477563090224794165364344896676135745069

/-- The integer square root, bit by bit from bit `b` down. -/
def isqrtFrom : Nat → Nat → Nat → Nat
  | 0, n, r => if (r + 1) * (r + 1) ≤ n then r + 1 else r
  | b + 1, n, r => isqrtFrom b n (if (r + 2 ^ (b + 1)) * (r + 2 ^ (b + 1)) ≤ n then r + 2 ^ (b + 1) else r)
/-- The integer square root. -/
def isqrt (n : Nat) : Nat := isqrtFrom (Nat.log2 n / 2 + 1) n 0

/-- √(m × 2^e) with a sticky last bit, so that rounding it once rounds the exact root. -/
def sqrtNum (m : Nat) (e : Int) : Num :=
  let s0 := 160 - Nat.log2 m
  let s := if (e - s0) % 2 = 0 then s0 else s0 + 1
  let n := m * 2 ^ s
  let r := isqrt n
  .fin false (2 * r + oneIf (r * r != n)) ((e - s) / 2 - 1)

/-- Σ t^k / k! in fixed point: e^t for 0 ≤ t < 1. -/
def expFix : Nat → Nat → Nat → Nat → Nat
  | 0, _, _, _ => 0
  | n + 1, k, term, t => term + expFix n (k + 1) (term * t / 2 ^ fixBits / (k + 1)) t
/-- 2^f in fixed point for a fixed-point fraction f. -/
def exp2Fix (f : Nat) : Nat := expFix 60 0 (2 ^ fixBits) (f * ln2Fix / 2 ^ fixBits)

/-- The signed fixed-point value of m × 2^e (floor). -/
def toFix (neg : Bool) (m : Nat) (e : Int) : Int :=
  let k := e + fixBits
  let v : Int := ((if 0 ≤ k then m * 2 ^ k.toNat else m / 2 ^ (-k).toNat : Nat) : Int)
  if neg then -v else v

/-- 2^x for a finite x: the integer part scales, the fraction goes through the series. -/
def exp2Num (neg : Bool) (m : Nat) (e : Int) : Num :=
  if 16 ≤ expOf m e then .fin false 1 (if neg then -1000 else 1000)
  else
    let x := toFix neg m e
    let n := x / (2 ^ fixBits : Nat)
    let f := (x - n * (2 ^ fixBits : Nat)).toNat
    .fin false (exp2Fix f) (n - fixBits)

/-- Σ z^(2k+1) / (2k+1) in fixed point. -/
def atanhFix : Nat → Nat → Nat → Nat → Nat
  | 0, _, _, _ => 0
  | n + 1, k, p, z2 => p / (2 * k + 1) + atanhFix n (k + 1) (p * z2 / 2 ^ fixBits) z2
/-- log2 of m × 2^e for m ≠ 0. -/
def log2Num (m : Nat) (e : Int) : Num :=
  let k := Nat.log2 m
  let z := (m - 2 ^ k) * 2 ^ fixBits / (m + 2 ^ k)
  let ln := 2 * atanhFix 130 0 z (z * z / 2 ^ fixBits)
  let v : Int := (e + k) * (2 ^ fixBits : Nat) + (ln * 2 ^ fixBits / ln2Fix : Nat)
  .fin (v < 0) v.natAbs (-(fixBits : Int))

/-- Σ (−1)^k t^(2k) / (2k + j)! from the given term, in fixed point. -/
def sinCosFix : Nat → Nat → Nat → Nat → Int
  | 0, _, _, _ => 0
  | n + 1, j, term, t2 =>
    (term : Int) - sinCosFix n (j + 2) (term * t2 / 2 ^ fixBits / ((j + 1) * (j + 2))) t2
/-- sin(2πf), or cos(2πf), of a fixed-point fraction of a turn, by quarter turns. -/
def turnFix (cosine : Bool) (f : Nat) : Int :=
  let q := f / 2 ^ (fixBits - 2)
  let r := f % 2 ^ (fixBits - 2)
  let t := 2 * piFix * r / 2 ^ fixBits
  let t2 := t * t / 2 ^ fixBits
  let sn := sinCosFix 40 1 t t2
  let cs := sinCosFix 40 0 (2 ^ fixBits) t2
  match (q + oneIf cosine) % 4 with
  | 0 => sn
  | 1 => cs
  | 2 => -sn
  | _ => -cs
/-- The fraction of a turn of m × 2^e, exactly (R96). -/
def turnNum (cosine neg : Bool) (m : Nat) (e : Int) : Num :=
  let x := if 0 ≤ e then 0 else toFix neg (m % 2 ^ (-e).toNat) e
  let v := turnFix cosine (x % (2 ^ fixBits : Nat)).toNat
  .fin (v < 0) v.natAbs (-(fixBits : Int))

/-- tanh of m × 2^e. -/
def tanhNum (neg : Bool) (m : Nat) (e : Int) : Num :=
  if 6 ≤ expOf m e then .fin neg (2 ^ fixBits - 1) (-(fixBits : Int))
  else
    let x := (toFix false m e).toNat
    let y := 2 * x * 2 ^ fixBits / ln2Fix
    let a := exp2Fix (y % 2 ^ fixBits) * 2 ^ (y / 2 ^ fixBits)
    .fin neg ((a - 2 ^ fixBits) * 2 ^ fixBits / (a + 2 ^ fixBits)) (-(fixBits : Int))

/-- The reference value of a function at a finite nonzero operand. -/
def refNum (fn : Fn) (neg : Bool) (m : Nat) (e : Int) : Num :=
  match fn with
  | .rcp => .fin neg (2 ^ fixBits / m) (-e - fixBits)
  | .rsq =>
    match sqrtNum m e with
    | .fin _ r f => .fin false (2 ^ (2 * fixBits) / r) (-f - 2 * fixBits)
    | _ => .nan
  | .sqrt => sqrtNum m e
  | .exp2 => exp2Num neg m e
  | .log2 => log2Num m e
  | .sin => turnNum false neg m e
  | .cos => turnNum true neg m e
  | .tanh => tanhNum neg m e

/-- m × 2^e is an integer multiple of 2^k. -/
def isMultiple (m : Nat) (e k : Int) : Bool := k ≤ e || m % 2 ^ (k - e).toNat = 0

/-- The rows of R96 that are exact at an operand: integers for `FEXP2`, powers of two for `FLOG2`, quarter
turns for `FSIN` and `FCOS`. -/
def isExact (fn : Fn) (m : Nat) (e : Int) : Bool :=
  match fn with
  | .exp2 => isMultiple m e 0
  | .log2 => m = 2 ^ Nat.log2 m
  | .sin | .cos => isMultiple m e (-2)
  | _ => false

/-- 2^k as a value. -/
def pow2 (k : Int) : Num := .fin false 1 k

/-- `n` units in the last place of a type at a reference value. -/
def ulps (t : Ty) (n : Nat) : Num → Num
  | .fin _ m e => if m = 0 then .fin false n (emin t - mbits t) else .fin false n (spacing t m e)
  | x => x

/-- The error bound of R96 at an operand with a reference value. -/
def errBound (fn : Fn) (t : Ty) (m : Nat) (e : Int) (r : Num) : Num :=
  if t != .f32 then ulps t 1 r
  else
    match fn with
    | .rcp | .rsq => ulps t 1 r
    | .exp2 => ulps t 2 r
    | .log2 =>
      if -1 ≤ expOf m e && (expOf m e < 1 || (expOf m e = 1 && m = 2 ^ Nat.log2 m)) then pow2 (-22)
      else ulps t 2 r
    | .sin | .cos => pow2 (-22)
    | .tanh => pow2 (-21)
    | .sqrt => .fin false 0 0

/-- |x − y| ≤ b. -/
def within (x y b : Num) : Bool := !ltNum b (absNum (addNum 0 x (negNum y)))

/-- The exact value at the operands of `isExact`: the reference rounded to the nearest multiple of 1. -/
def exactNum (r : Num) : Num :=
  match r with
  | .fin neg m e => (roundAt 0 0 neg m e 0).1
  | x => x

/-- 2^x at an integer x. -/
def exactExp2 (neg : Bool) (m : Nat) (e : Int) : Num :=
  let x := toFix neg m e / (2 ^ fixBits : Nat)
  if 16 ≤ expOf m e then .fin false 1 (if neg then -1000 else 1000) else pow2 x

/-- The result at a finite nonzero operand (R96): the core's answer where it lies within the bound of the
true value, else the true value rounded; both fitted under sat and fout. -/
def approxFinite (fn : Fn) (t : Ty) (bits : Nat) (sat fout : Bool) (neg : Bool) (m : Nat) (e : Int) : Nat :=
  let exact := isExact fn m e
  let r := if exact then (if fn = .exp2 then exactExp2 neg m e else exactNum (refNum fn neg m e))
    else refNum fn neg m e
  let b := if exact && (fn != .exp2 || (match r with | .fin _ _ k => emin t - mbits t ≤ k | _ => false))
    then .fin false 0 0 else errBound fn t m e r
  let own := Config.approx fn t bits % 2 ^ tyWidth t
  let rounded := (roundF t 0 0 r).1
  let tooBig := match rounded with
    | .fin _ k f => k != 0 && maxBits t < magBits t k f
    | _ => true
  let c := decodeNum t false own
  let ok := !tooBig && (match c with | .fin _ _ _ => within c r b | _ => false)
  encodeNum t sat fout 0 (if ok then c else rounded)

/-- The result of an approximated function for an element (R96). `mode` matters to `FSQRT` only. -/
def approxElem (fn : Fn) (t : Ty) (gm : Word) (bits : Nat) : Nat :=
  let sat := gm.getLsbD 14
  let fout := gm.getLsbD 12
  let rnd := field gm.toNat 17 15
  let enc := encodeNum t sat fout 0
  match decodeNum t (gm.getLsbD 13) bits with
  | .nan => nanBits t
  | .inf neg =>
    match fn with
    | .rcp => enc (.fin neg 0 0)
    | .rsq => if neg then nanBits t else enc (.fin false 0 0)
    | .sqrt => if neg then nanBits t else enc (.inf false)
    | .exp2 => if neg then enc (.fin false 0 0) else enc (.inf false)
    | .log2 => if neg then nanBits t else enc (.inf false)
    | .sin | .cos => nanBits t
    | .tanh => enc (.fin neg 1 0)
  | .fin neg m e =>
    if m = 0 then
      match fn with
      | .rcp | .rsq => enc (.inf neg)
      | .sqrt | .sin | .tanh => enc (.fin neg 0 0)
      | .exp2 | .cos => enc (.fin false 1 0)
      | .log2 => enc (.inf true)
    else
      match fn with
      | .sqrt => if neg then nanBits t else finish t rnd sat fout (sqrtNum m e)
      | .rsq | .log2 => if neg then nanBits t else approxFinite fn t bits sat fout neg m e
      | _ => approxFinite fn t bits sat fout neg m e

end Sys2Proof.Machine
end

