-- ==== Sys2Proof/Machine/Float.lean ====
section
/-! DEFINITION. The floating-point vector instructions, the approximated functions, conversions and
packing: R91 to R98. -/

namespace Sys2Proof.Machine

open Sys2Proof

/-- The arithmetic of R93 on elements: a value of each operand element, rounded and fitted once. -/
def floatElems (t : Ty) (m : Word) (f : Nat → Num) : Word :=
  wordOf t fun i => finish t (gmRnd m) (gmSat m) (gmFout m) (f i)

/-- An element's value with `gm`.fin. -/
def elemNum (t : Ty) (m : Word) (w : Word) (i : Nat) : Num := decodeNum t (gmFin m) (elem w t i)

/-- The rounding mode of an instruction that does not offer stochastic rounding (R37). -/
def plainRnd (m : Word) : Nat := if gmRnd m = 4 then 0 else gmRnd m

/-- `FADD` (R93). -/
def execFadd (d a b : BitVec 8) (s : State) : Out :=
  vec2 s d a b fun m => (floatDtype m).map fun t x y =>
    floatElems t m fun i => addNum (plainRnd m) (elemNum t m x i) (elemNum t m y i)
/-- `FSUB` (R93). -/
def execFsub (d a b : BitVec 8) (s : State) : Out :=
  vec2 s d a b fun m => (floatDtype m).map fun t x y =>
    floatElems t m fun i => addNum (plainRnd m) (elemNum t m x i) (negNum (elemNum t m y i))
/-- `FMUL` (R93). -/
def execFmul (d a b : BitVec 8) (s : State) : Out :=
  vec2 s d a b fun m => (floatDtype m).map fun t x y =>
    floatElems t m fun i => mulNum (elemNum t m x i) (elemNum t m y i)
/-- `FMA`: no intermediate rounding (R93). -/
def execFma (d a b : BitVec 8) (s : State) : Out :=
  vec3 s d a b fun m => (floatDtype m).map fun t z x y =>
    floatElems t m fun i =>
      addNum (plainRnd m) (mulNum (elemNum t m x i) (elemNum t m y i)) (elemNum t m z i)

/-- The element of a value that is not rounded, with `gm`.sat and fout (R92, R94): under sat = 1 an infinity is the
largest finite value (R53; log entry 62). -/
def exactElems (t : Ty) (m : Word) (f : Nat → Num) : Word :=
  wordOf t fun i => encodeNum t (gmSat m) (gmFout m) 0 (f i)

/-- `FMIN` (R94). -/
def execFmin (d a b : BitVec 8) (s : State) : Out :=
  vec2 s d a b fun m => (floatDtype m).map fun t x y =>
    exactElems t m fun i => minNum (elemNum t m x i) (elemNum t m y i)
/-- `FMAX` (R94). -/
def execFmax (d a b : BitVec 8) (s : State) : Out :=
  vec2 s d a b fun m => (floatDtype m).map fun t x y =>
    exactElems t m fun i => maxNum (elemNum t m x i) (elemNum t m y i)
/-- `FABS` (R94). -/
def execFabs (d a : BitVec 8) (s : State) : Out :=
  vec1 s d a fun m => (floatDtype m).map fun t x => exactElems t m fun i => absNum (elemNum t m x i)
/-- `FNEG` (R94). -/
def execFneg (d a : BitVec 8) (s : State) : Out :=
  vec1 s d a fun m => (floatDtype m).map fun t x => exactElems t m fun i => negNum (elemNum t m x i)

/-- A value times a power of two (R95). -/
def scaleNum (j : Int) : Num → Num
  | .fin neg m e => if m = 0 then .fin neg 0 0 else .fin neg m (e + j)
  | x => x
/-- `FSCALE` (R95). -/
def execFscale (d a b : BitVec 8) (s : State) : Out :=
  vec2 s d a b fun m => (floatDtype m).map fun t x y =>
    floatElems t m fun i => scaleNum (signedOf (tyWidth t) (elem y t i)) (elemNum t m x i)

/-- An approximated function: long-latency, its result written when it completes (R25, R96). -/
def execFn (fn : Fn) (d a : BitVec 8) (s : State) : Out :=
  issueLong s fun s => do
    let g := s.g
    let m ← s.sl.mode
    need (g.vOk d.toNat && g.vOk a.toNat) opnd
    let t ← floatDtype m
    let act ← g.active s.curSlot
    checkPoison g act [a.toNat]
    let ws := (lanesOf act).map fun l =>
      let x := (g.getV a.toNat l).val
      RegWrite.v d.toNat l { val := wordOf t fun i => approxElem fn t m (elem x t i) }
    .ok (s, if act = 0 then .empty else .func, ws)

/-- `FRCP` (R96). -/
def execFrcp (d a : BitVec 8) (s : State) : Out := execFn .rcp d a s
/-- `FRSQ` (R96). -/
def execFrsq (d a : BitVec 8) (s : State) : Out := execFn .rsq d a s
/-- `FSQRT` (R96). -/
def execFsqrt (d a : BitVec 8) (s : State) : Out := execFn .sqrt d a s
/-- `FEXP2` (R96). -/
def execFexp2 (d a : BitVec 8) (s : State) : Out := execFn .exp2 d a s
/-- `FLOG2` (R96). -/
def execFlog2 (d a : BitVec 8) (s : State) : Out := execFn .log2 d a s
/-- `FSIN` (R96). -/
def execFsin (d a : BitVec 8) (s : State) : Out := execFn .sin d a s
/-- `FCOS` (R96). -/
def execFcos (d a : BitVec 8) (s : State) : Out := execFn .cos d a s
/-- `FTANH` (R96). -/
def execFtanh (d a : BitVec 8) (s : State) : Out := execFn .tanh d a s

/-- A condition of `FCMP` on two values (R91). -/
def fcondHolds (c : FCond) (x y : Num) : Bool :=
  let un := isNan x || isNan y
  match c with
  | .eq => !un && !ltNum x y && !ltNum y x
  | .ne => un || ltNum x y || ltNum y x
  | .lt => !un && ltNum x y
  | .le => !un && !ltNum y x
  | .gt => !un && ltNum y x
  | .ge => !un && !ltNum x y
  | .un => un
  | .ord => !un

/-- `FCMP`: `f32` only (R91). -/
def execFcmp (c : FCond) (p : BitVec 4) (a b : BitVec 8) (s : State) : Out :=
  predInstr s p [a.toNat, b.toNat] fun g m =>
    if tyOf (gmDtype m) = some .f32 then
      .ok fun l => fcondHolds c (elemNum .f32 m (g.getV a.toNat l).val 0)
        (elemNum .f32 m (g.getV b.toNat l).val 0)
    else .error opnd

/-- Elements converted in ascending order, with the generator state passed along (R52, R97): pairs of
source and destination element. -/
def cvtElems (src dst : Ty) (m : Word) (stoch : Bool) (x : Word) : List (Nat × Nat) → Word → Word → Word × Word
  | [], w, g => (w, g)
  | (i, j) :: r, w, g =>
    let c := cvtBits src dst m stoch (elem x src i) g
    cvtElems src dst m stoch x r (setElem w dst j c.1) c.2

/-- A converting instruction (R97, R98): element pairs by the types, the word that the destination starts
from, and whether stochastic rounding is offered. -/
def convertInstr (s : State) (d a : BitVec 8) (keep : Ty → Ty → Bool) (stoch : Bool)
    (pairs : Ty → Ty → Chk (List (Nat × Nat))) : Out :=
  issueG s fun g => do
    let m ← (g.slot s.curSlot).mode
    need (g.vOk d.toNat && g.vOk a.toNat) opnd
    let dst ← vecDtype m
    let src ← vecStype m
    let ps ← pairs src dst
    let act ← g.active s.curSlot
    checkPoison g act (if keep src dst then [a.toNat, d.toNat] else [a.toNat])
    .ok ((lanesOf act).foldl (fun g' l =>
      let w0 := if keep src dst then (g.getV d.toNat l).val else 0
      let r := cvtElems src dst m stoch (g.getV a.toNat l).val ps w0 (g.rng.look l 0)
      { g'.setV d.toNat l { val := r.1 } with rng := g'.rng.put l r.2 }) g)

/-- `CVT` (R97). -/
def execCvt (d a : BitVec 8) (s : State) : Out :=
  convertInstr s d a (fun _ _ => false) true fun src dst =>
    .ok ((List.range (min (tyCount src) (tyCount dst))).map fun i => (i, i))
/-- `PACK` (R98). -/
def execPack (d a i : BitVec 8) (s : State) : Out :=
  convertInstr s d a (fun src dst => tyCount src < tyCount dst) true fun src dst => do
    need (tyCount src ≤ tyCount dst) opnd
    need ((i.toNat + 1) * tyCount src ≤ tyCount dst) opnd
    .ok ((List.range (tyCount src)).map fun j => (j, i.toNat * tyCount src + j))
/-- `UNPACK`: stochastic rounding is not offered (R98). -/
def execUnpack (d a i : BitVec 8) (s : State) : Out :=
  convertInstr s d a (fun _ _ => false) false fun src dst => do
    need (tyCount dst ≤ tyCount src) opnd
    need ((i.toNat + 1) * tyCount dst ≤ tyCount src) opnd
    .ok ((List.range (tyCount dst)).map fun j => (i.toNat * tyCount dst + j, j))

end Sys2Proof.Machine
end

