-- ==== Sys2Proof/Machine/Engine.lean ====
section
/-! DEFINITION. The copy engines (R177, R178, R253, R263 to R266), writes to twin frames (R164), and the
performing of `PUBLISH` (R163, R254). -/

namespace Sys2Proof.Machine

open Sys2Proof

/-- A transfer operation by its number. -/
def State.xfer? (s : State) (id : Nat) : Option Xfer := s.xfers.find? (fun x => x.id = id)
/-- The state with a transfer operation replaced. -/
def State.setXfer (s : State) (x : Xfer) : State :=
  ({ s with xfers := s.xfers.map (fun y => if y.id = x.id then x else y) } : State).unpinned

/-- The batch record of an operation changed, while its group's records are there. -/
def State.mapBatch (s : State) (x : Xfer) (f : Batch → Batch) : State :=
  let g := s.group x.place
  if !x.isOf x.place g || !g.live then s
  else
    match x.batch with
    | none => s.setGroup x.place { g with openBatch := f g.openBatch }
    | some b => s.setGroup x.place { g with batches := g.batches.put b (f (g.batch b)) }

/-- A sealed batch has drained or landed when none of its operations is left to (R263). -/
def Batch.note (b : Batch) : Batch :=
  if b.out then { b with drained := decide (b.undrained = 0), landed := decide (b.unlanded = 0) } else b

/-- The operation counts as drained (R263). -/
def State.countDrained (s : State) (x : Xfer) : State :=
  s.mapBatch x fun b => { b with undrained := b.undrained - 1 }.note
/-- The operation counts as landed (R263). -/
def State.countLanded (s : State) (x : Xfer) : State :=
  s.mapBatch x fun b => { b with unlanded := b.unlanded - 1 }.note

/-- An operation finished: its entry is free (R261), the core's next `CPQ` may start (R266), and what waits on its batch
goes on. -/
def State.endXfer (s : State) (x : Xfer) : State :=
  let s := ({ s with xfers := s.xfers.filter (fun y => y.id != x.id), spent := s.spent ++ [x] } : State).trimSpent
  let s := s.startCpq (coreKey x.place)
  let g := s.group x.place
  if !x.isOf x.place g then s
  else if g.ended then s.settleViews x.place
  else (s.settleViews x.place).wakeCopies x.place

/-- A batch counts a failure of an operation, and keeps the class of the first; of two in one clock, of the one with the
lower issue order (R263, R264). -/
def Batch.fail (b : Batch) (id : Nat) (now : Dword) (cls : BitVec 8) : Batch :=
  let b := { b with nfail := min (b.nfail + 1) 0xFFFF }
  if b.err = 0 || (b.errClock = now && id < b.errOp) then { b with err := cls, errClock := now, errOp := id } else b

/-- An operation that failed (R178, R263): its batch counts it, with the class of the first failure; one of an
ended group is reported as orphaned (R216). -/
def State.failXfer (s : State) (x : Xfer) (cls : BitVec 8) : State :=
  let g := s.group x.place
  let s := if x.isOf x.place g && !g.ended then s
    else s.orphan x.place x.key cls 0 (x.batch.getD ((g.lastBatch + 1) % 16))
  let s := if x.drained then s else s.countDrained x
  let s := s.mapBatch x fun b => b.fail x.id s.clock cls
  (s.countLanded x).endXfer x

/-! Reading and writing. -/

/-- Bytes that an engine reads of this package's memory or of the host's, with each word's poison. -/
def State.engineRead (s : State) (l : Loc) (n : Nat) : List (Byte × Bool) :=
  match l with
  | .desc c off => (List.range n).map fun i => (ctxDesc (s.ctx c) (off + i), false)
  | _ => (wordParts l.key n).flatMap fun e =>
    let x := if isHostPa (4 * e.1) then s.memWord e.1 else s.homeWord e.1
    (((bytesOf 4 x.val.toNat).drop e.2.1).take e.2.2.2).map fun b => (b, x.poison)

/-- The lines of local memory that an engine reads are filled in their L2 home slices (R231, R387, R435). -/
def State.engineFill (s : State) (x : Xfer) : State :=
  x.moves.foldl (fun s m =>
    match m.src with
    | .phys a =>
      if isHostPa a then s
      else
        let words := (unitSectors a m.n).flatMap fun i => (List.range 8).map (i * 8 + ·)
        (unitSectors a m.n).foldl (fun s i => s.fillL2 (8 * i)) (s.touchLines x.place x.pc m.va words)
    | _ => s) s

/-- Some side of an operation lies in host memory that no port reaches (R404). -/
def State.xferLost (s : State) (x : Xfer) : Bool :=
  !s.hostUp && x.moves.any fun m => isHostPa m.src.key || (match m.dst with
    | .mem _ l => isHostPa l.key
    | _ => false)

/-- A unit of an operation's sources lies in one that an atomic holds between its lanes (R252). -/
def State.readLocked (s : State) (x : Xfer) : Bool := x.moves.any fun m => s.locked m.src.key m.n
/-- The same of its destinations. -/
def State.writeLocked (s : State) (x : Xfer) : Bool :=
  x.moves.any fun m => match m.dst with
    | .mem _ l => s.locked l.key m.n
    | _ => false

/-- The frame that holds the twin of the page of an address now, and the page's entry (R164). -/
def State.twinOf (s : State) (va : Nat) : Option Leaf :=
  match walk s va with
  | .present e => if e.tw && !e.rem then some e else none
  | _ => none

/-- Where an engine write to a destination goes when it is performed (R164, R177). -/
def State.finalLoc (s : State) (va : Nat) (l : Loc) : Loc :=
  match l with
  | .phys _ =>
    match s.twinOf va with
    | some e => .phys (e.twin + va % pageBytes e.psize)
    | none => l
  | _ => l

/-- A destination of an operation aims at a twin frame that a view holds (R164). -/
def State.twinHeld (s : State) (x : Xfer) : Bool :=
  x.moves.any fun m => match m.dst with
    | .mem va (.phys _) =>
      (match s.twinOf va with
        | some e => decide (0 < s.holds.look (frameKey s.node s.node e.twin) 0)
        | none => false)
    | _ => false

/-- A word of a core's L1 brought up to date by a write performed at its home, if it holds a copy. -/
def State.refreshL1 (s : State) (c w off : Nat) (bs : List Byte) : State :=
  let x := s.l1Word c w
  if x.valid then s.setL1 c w { x with val := mergeBytes x.val off bs, dirty := false, mark := false, owed := false } else s

/-- Bytes that an engine writes, word by word, at a scope (R177, R253). Far memory is written at `.s`. An open
batch's operation is performed at `.d` (R263), and the anchor's copies keep up with it, so that the scope sealed
later finds it. The metadata of checked granules is cleared. -/
def State.engineWrite (s : State) (p va : Nat) (l : Loc) (sc : Option Scope) (data : List (Byte × Bool)) : State :=
  let core := coreKey p
  let anchor := s.anchorOf p
  let s := (List.range (data.length / 4)).foldl (fun s i =>
    let c := (data.drop (4 * i)).take 4
    let bs := c.map (·.1)
    let at_ := l.add (4 * i)
    match at_ with
    | .peer _ _ _ => s.updateSlice at_.key bs
    | _ =>
      let scope := if isHostPa at_.key then .s else sc.getD .d
      let s := s.memWriteAt core anchor at_ bs scope (c.any (·.2))
      if sc.isNone then s.refreshL1 anchor (at_.key / 4) 0 bs else s) s
  match l with
  | .phys _ => s.clearMetas va data.length
  | _ => s

/-- The scope that an operation is performed at: none while its batch is open (R263). -/
def State.xferScope (s : State) (x : Xfer) : Option Scope :=
  x.batch.map fun b => scopeAt ((s.group x.place).batch b).scope

/-- An operation's bytes written at its destinations, and its end. -/
def State.landXfer (s : State) (x : Xfer) : State :=
  let sc := s.xferScope x
  let s := (x.moves.filter fun m => !m.hidden).foldl (fun s m =>
    match m.dst with
    | .mem va l => s.engineWrite x.place va (s.finalLoc va l) sc m.data
    | .tile b => s.setTeam x.team ((s.team x.team).putTile b m.data)
    | .slot _ => s) s
  (s.countLanded x).endXfer x

/-- An operation that lands by its own: no `CPQ`, and no `CPL` to this package, whose landing the filter and
the tag decide (R270, R271). -/
def State.landsAlone (s : State) (x : Xfer) : Bool :=
  match x.kind with
  | .cpq _ _ _ _ => false
  | .cpl => x.targets.all fun t => t.node != s.node
  | _ => true

/-- `TWIN_WRITE_PERFORMED` (R164): the frame's count has reached zero. -/
def execTwinWritePerformed (id : Nat) (s : State) : Out :=
  match s.xfer? id with
  | none => .next s
  | some x => if x.twin && !s.twinHeld x then .next (s.landXfer x) else .next s

/-- `EMPTY_BATCH_COMPLETE` (R179). -/
def execEmptyBatchComplete (p b : Nat) (s : State) : Out :=
  let g := s.group p
  let x := g.batch b
  if g.live && x.out && x.undrained = 0 && x.unlanded = 0 && !(x.drained && x.landed) then
    .next ((s.setGroup p { g with batches := g.batches.put b x.note }).wakeCopies p)
  else .next s

/-! Requantisation (R185, R266). -/

/-- An element of a packed row of a tile, with its words' poison (R46, R168). -/
def Team.packed (t : Team) (tile row : Nat) (ty : Ty) (k : Nat) : Nat × Bool :=
  let bit := tyWidth ty * k
  let a := t.tileByte tile (row * 128 + bit / 8)
  let b := if bit / 8 % 128 = 127 then (0, false) else t.tileByte tile (row * 128 + bit / 8 + 1)
  let wide := tyWidth ty + bit % 8
  ((a.1.toNat + 256 * b.1.toNat) / 2 ^ (bit % 8) % 2 ^ tyWidth ty, a.2 || (wide > 8 && b.2))

/-- A number times a scale byte (R43, R56). -/
def scaleBy (x : Num) (e : Byte) : Num := if e = 0xFF then .nan else scaleNum ((e.toNat : Int) - 127) x

/-- The place of the scale of block `b` of row `i` (R185). -/
def scalePlace (i b : Nat) : Nat := (96 + i % 32) * 128 + 32 * (i / 32) + b

/-- emax (R185). -/
def emaxOf : Ty → Int
  | .e4m3 => 8
  | .e5m2 => 15
  | .e3m2 => 4
  | _ => 2

/-- val(i, k) of R185, with the poison of the words it reads. -/
def Team.cpqVal (t : Team) (src : Nat) (ty : Ty) (scaled : Bool) (i k : Nat) : Num × Bool :=
  let e := t.packed src i ty k
  let x := decodeNum ty false e.1
  if scaled then
    let sc := t.tileByte src (scalePlace i (k / 32))
    (scaleBy x sc.1, e.2 || sc.2)
  else (x, e.2)

/-- The exponent E of a destination block (R185). -/
def blockExp (t : Ty) (vs : List Num) : Int :=
  let m := vs.foldl (fun (m : Option Int) v =>
    match v with
    | .fin _ k e => if k = 0 then m else
      (match m with
        | none => some (expOf k e)
        | some b => some (max b (expOf k e)))
    | _ => m) none
  match m with
  | none => 0
  | some x => max (-127) (min 127 (x - emaxOf t))

/-- Packed elements of a type as bytes in ascending order, each poisoned where an element in it is (R46). -/
def packElems (ty : Ty) (es : List (Nat × Bool)) : List (Byte × Bool) :=
  let w := tyWidth ty
  let n := es.foldr (fun e acc => e.1 % 2 ^ w + 2 ^ w * acc) 0
  (List.range (es.length * w / 8)).map fun i =>
    (BitVec.ofNat 8 (n / 256 ^ i), (es.zipIdx).any fun e => e.1.2 && e.2 * w < 8 * i + 8 && 8 * i < e.2 * w + w)

/-- One block of a destination row: its elements, its scale and the generators after its draws (R185, R52). -/
def cpqBlock (gm : Word) (ty : Ty) (ds : Bool) (vs : List (Num × Bool)) (b : Nat) (rng : Tab Word) :
    List (Nat × Bool) × (Byte × Bool) × Tab Word :=
  let e := if ds then blockExp ty (vs.map (·.1)) else 0
  let dirty := ds && vs.any (·.2)
  let r := vs.zipIdx.foldl (fun (st : List (Nat × Bool) × Tab Word) v =>
    let l := (32 * b + v.2) % 32
    let x := scaleNum (-e) v.1.1
    let g := st.2.look l 0
    if gmRnd gm = 4 then
      let r := roundF ty 4 ((nextRand g).toNat / 2 ^ 16) x
      (st.1 ++ [(encodeNum ty (gmSat gm) false 4 r.1, dirty || v.1.2)], if r.2 then st.2.put l (nextRand g) else st.2)
    else
      (st.1 ++ [(encodeNum ty (gmSat gm) false (gmRnd gm) (roundF ty (gmRnd gm) 0 x).1, dirty || v.1.2)], st.2)) ([], rng)
  (r.1, (BitVec.ofNat 8 (e + 127).toNat, dirty), r.2)

/-- The destination tile of a `CPQ` and the generators after its draws, from the source that `read` holds (R185). -/
def cpqRun (read t : Team) (dst src : Nat) (ctl : Dword) (gm : Word) (rng : Tab Word) : Team × Tab Word :=
  let n := ctl.toNat
  match cpqTy (field n 4 0), cpqTy (field n 9 5) with
  | some sty, some dty =>
    let rb := field n 11 10
    let kb := field n 13 12
    let ds := bitOf n 15
    (List.range (32 * kb)).foldl (fun (st : Team × Tab Word) j =>
      let r := (List.range rb).foldl (fun (st : Team × List (Nat × Bool) × Tab Word) b =>
        let vs := (List.range 32).map fun i => read.cpqVal src sty (bitOf n 14) (32 * b + i) j
        let k := cpqBlock gm dty ds vs b st.2.2
        let tm := if ds then st.1.putTile (dst * 16384 + scalePlace j b) [k.2.1] else st.1
        (tm, st.2.1 ++ k.1, k.2.2)) (st.1, [], st.2)
      (r.1.putTile (dst * 16384 + 128 * j) (packElems dty r.2.1), r.2.2)) (t, rng)
  | _, _ => (t, rng)

/-- `CPQ_COMPLETE` (R266): the destination is written from the source as the operation's start read it; it drains and
lands together. -/
def execCpqComplete (id : Nat) (s : State) : Out :=
  match s.xfer? id with
  | none => .next s
  | some x =>
    match x.kind, x.source with
    | .cpq dst src ctl gm, some read =>
      let g := s.group x.place
      let r := cpqRun { s.team x.team with tile := read } (s.team x.team) dst src ctl gm g.rng
      let s := (s.setTeam x.team r.1).setGroup x.place { g with rng := r.2 }
      .next (((s.countDrained x).countLanded x).endXfer x)
    | _, _ => .next s

/-! `PUBLISH` performed. -/

/-- An engine write to the page of an address that was accepted before a number has not landed (R163). -/
def State.writesBefore (s : State) (e : Leaf) (va id : Nat) : Bool :=
  let page := va / pageBytes e.psize
  s.xfers.any fun x => x.id < id && x.moves.any fun m => match m.dst with
    | .mem v (.phys _) => v / pageBytes e.psize = page
    | _ => false

/-- `PUBLISH` finds the entry not present or invalid (R384, R382): its group takes the fault at the word, and the
`PUBLISH` is still to be performed. An ended group takes no fault. -/
def State.publishFault (s : State) (q : Pub) (f : FaultInfo) : State :=
  let g := s.group q.place
  if !g.live || g.ended || g.tag ≠ q.occ || g.fault.isSome then s
  else
    let now := g.slot q.slot
    let t := (s.setGroup q.place (g.setSlot q.slot q.saved)).raiseAt q.place q.slot { f with addr := q.va.setWidth 64 }
    t.setGroup q.place ((t.group q.place).setSlot q.slot now)

/-- An `XLAT` of the group of a `PUBLISH` that issued before it has not completed (R242). -/
def State.xlatBefore (s : State) (q : Pub) : Bool :=
  let g := s.group q.place
  g.tag = q.occ && g.ops.any fun o => o.id < q.id && (match o.kind with
    | .xlat _ _ _ => true
    | _ => false)

/-- `PUBLISH_PERFORMED` (R163, R254, R385): the clean copies of the frame that becomes current are made not
valid, then the frames swap in one write that keeps the access count. -/
def execPublishPerformed (id : Nat) (s : State) : Out :=
  match s.pubs.find? (fun q => q.id = id) with
  | none => .next s
  | some q =>
    match walk s q.va.toNat with
    | .present e =>
      if !e.tw || s.writesBefore e q.va.toNat q.id || s.xlatBefore q then .next s
      else
        let s := s.invalFrame e.twin (pageBytes e.psize)
        let d0 := e.d0.toNat - e.frame + e.twin
        let d1 := e.d1.toNat - e.twin + e.frame
        let s := s.devWrite e.entry (bytesOf 8 d0 ++ bytesOf 8 d1)
        .next { s with pubs := s.pubs.filter (fun x => x.id != id) }
    | .absent _ => .next (s.publishFault q pageFlt)
    | .invalid a => .next (s.publishFault q { prot with badEntries := [a] })

end Sys2Proof.Machine
end

