-- ==== Sys2Proof/Machine/Landing.lean ====
section
/-! DEFINITION. Landing zones (R186 to R192, R267 to R277): opening and closing zones, reserving slots, landing
bytes in them, and what their owner reads. -/

namespace Sys2Proof.Machine

open Sys2Proof

/-! Opening. -/

/-- The bytes of a zone in its team's scratchpad. -/
def Zone.bytes (z : Zone) : Nat := z.slotBytes * (z.cnt + 1)
/-- The zone belongs to a team and is open or being opened. -/
def Zone.isOf (z : Zone) (team : Nat) : Bool := (z.open_ || z.opening) && z.team = team
/-- The lowest zone number that is free on a core (R267). -/
def State.freeZone (s : State) (core : Nat) : Option Nat :=
  (List.range 16).find? fun n =>
    let z := s.zone core n
    !z.held && !z.cooling

/-- The zone that an `LZOPEN` request asks for, if the request is accepted (R186). -/
def zoneRequest (s : State) (v : Dword) : Option Zone :=
  let n := v.toNat
  let core := coreKey s.cur
  let z : Zone := { opening := true, held := true, team := s.g.team, cnt := field n 29 24, sz := field n 23 20, base := field n 19 0 }
  let mine := ((List.range 16).map (s.zone core)).filter (·.isOf s.g.team)
  if n < 2 ^ 30 && z.sz ≤ 8 && z.base % z.slotBytes = 0 && z.base + z.bytes ≤ s.tm.units * 65536 && mine.length < 16 &&
      mine.all (fun y => y.base + y.bytes ≤ z.base || z.base + z.bytes ≤ y.base) then some z
  else none

/-- `LZOPEN` (R186, R267): the checks are made, and the number taken, at issue. -/
def execLzopen (d : BitVec 6) (a : BitVec 7) (s : State) : Out :=
  issueLong s fun s => do
    notInSection s
    let v ← s.readSide a
    let core := coreKey s.cur
    match zoneRequest s v, s.freeZone core with
    | some z, some n => .ok (s.setZone core n { z with gen := (s.zone core n).gen }, .lzopen d.toNat n, [])
    | _, _ => .error opnd

/-- The descriptor of a zone (R186). -/
def Zone.desc (z : Zone) (n : Nat) : Dword :=
  BitVec.ofNat 64 (z.gen.toNat * 2 ^ 56 + z.tag.toNat * 2 ^ 32 + z.cnt * 2 ^ 26 + z.sz * 2 ^ 22 + z.base / 256 * 2 ^ 8 + n * 2 ^ 4)

/-- The packet lifetime in microseconds (R394). -/
def lifetime : Nat := 200

/-- The tag may be issued: no zone that is open or cooling and no region has it, and a lifetime has passed since its generation
advanced (R394). -/
def State.tagFree (s : State) (tag : BitVec 24) : Bool :=
  s.tagTime.all (fun e => e.1 != tag.toNat || e.2 + lifetime ≤ s.ftime) &&
  s.zones.all (fun e => !(e.2.open_ || e.2.cooling) || e.2.tag != tag) && s.regions.all (fun r => r.attr.getLsbD 4 || r.key.setWidth 24 != tag)

/-- An operation of the group at a place ends with a scalar register written (R25). -/
def State.endWith (s : State) (p : Nat) (o : Pend) (d : Nat) (v : Dword) : State :=
  let s := s.applyWrite p (.s d { val := v })
  s.setGroup p ((s.group p).endOp o)

/-- `LZOPEN_COMPLETE` (R186): the zone opens under the tag that is issued to it. -/
def execLzopenComplete (p id : Nat) (tag : BitVec 24) (s : State) : Out :=
  match (s.group p).op? id with
  | none => .next s
  | some o =>
    match o.kind with
    | .lzopen d n =>
      let core := coreKey p
      let z := s.zone core n
      if !(z.opening && z.team = (s.group p).team) then .next (s.setGroup p ((s.group p).endOp o))
      else if !s.tagFree tag then .next s
      else
        let z := { z with opening := false, open_ := true, tag := tag, slots := [] }
        let t := s.team z.team
        let s := s.setTeam z.team { t with zoneDesc := t.zoneDesc.put n (z.desc n) }
        .next ((s.setZone core n z).endWith p o d (z.desc n))
    | _ => .next s

/-! The owner's instructions. -/

/-- The zone of a descriptor that its team uses (R188). R419 names no address for `FLT.LZGONE` here: it is free
(log entry 5). -/
def State.ownZone (s : State) (d : Dword) : Chk (Nat × Zone) := do
  need (field d.toNat 21 20 = 0 && field d.toNat 3 0 = 0) opnd
  let n := descZone d
  let z := s.zone (coreKey s.cur) n
  need (z.open_ && z.team = s.g.team && z.gen.toNat = field d.toNat 63 56 && z.tag.toNat = field d.toNat 55 32)
    { fault 0x0A with addr := Config.freeWord s.draws }
  .ok (n, z)

/-- The zone and the slot that two scalar-side registers name (R188). -/
def State.ownSlot (s : State) (a b : BitVec 7) : Chk (Nat × Zone × Nat × Dword) := do
  notInSection s
  let d ← s.readSide a
  let i ← s.readSide b
  let z ← s.ownZone d
  need (i.toNat ≤ z.2.cnt) opnd
  .ok (z.1, z.2, i.toNat, d)

/-- `LZCLOSE` (R187): every byte that has passed the filter is written. -/
def execLzclose (a : BitVec 7) (s : State) : Out :=
  issue s fun s => do
    notInSection s
    let d ← s.readSide a
    let z ← s.ownZone d
    .ok (s.revokeZone (coreKey s.cur) z.1)

/-- The state word of a slot (R192). -/
def LzSlot.word (x : LzSlot) (gen : BitVec 8) : Dword :=
  BitVec.ofNat 64 (x.state * 2 ^ 61 + x.cause * 2 ^ 56 + gen.toNat * 2 ^ 48 + x.pending)

/-- `LZSTAT` (R192, R277): the state at issue. -/
def execLzstat (d : BitVec 6) (a b : BitVec 7) (s : State) : Out :=
  issueLong s fun s => do
    let z ← s.ownSlot a b
    .ok (s, .lzstat, [RegWrite.s d.toNat { val := (z.2.1.slot z.2.2.1).word z.2.1.gen }])

/-- `LZSTAT_COMPLETE` (R192). -/
def execLzstatComplete (p id : Nat) (s : State) : Out := completeOp s p id (· == .lzstat)

/-- `LZWAIT` (R192). -/
def execLzwait (a b : BitVec 7) (s : State) : Out :=
  transfer s fun s => do
    let z ← s.ownSlot a b
    let x := z.2.1.slot z.2.2.1
    .ok (if x.settled then s.finishLzwait s.cur s.curSlot x else s.park (.lzwait z.2.2.2 z.2.2.1))

/-- `LZFREE` (R192, R269). -/
def execLzfree (a b : BitVec 7) (s : State) : Out :=
  issue s fun s => do
    let z ← s.ownSlot a b
    let x := z.2.1.slot z.2.2.1
    need (!x.busy) opnd
    if x.state = 0 then .ok s
    else .ok (s.setZone (coreKey s.cur) z.1 { z.2.1 with slots := z.2.1.slots.put z.2.2.1 { gen := x.gen } })

/-! Reserving (R189). -/

/-- `LZRES` (R189, R13). -/
def execLzres (d : BitVec 6) (a b : BitVec 7) (s : State) : Out :=
  issueLong s fun s => do
    notInSection s
    let v ← s.readSide a
    let w ← s.readSide b
    need (field v.toNat 21 20 = 0 && field v.toNat 3 0 = 0) opnd
    need (field w.toNat 20 13 < 176) opnd
    .ok (s, .lzres d.toNat v w (placeKey s.cur s.g) none, [])

/-- A handle (R189). -/
def handleOf (gen : BitVec 8) (node : BitVec 19) (die core zone slot sz : Nat) : Dword :=
  BitVec.ofNat 64 (2 ^ 63 + gen.toNat * 2 ^ 48 + node.toNat * 2 ^ 29 + die * 2 ^ 26 + core * 2 ^ 18 + zone * 2 ^ 14 + slot * 2 ^ 8 + sz)
/-- A handle that carries an error only (R189). -/
def badHandle (err : Nat) : Dword := BitVec.ofNat 64 (err * 2 ^ 56)

/-- A reservation at its target (R189, R268): the state and the handle that answers it. -/
def State.reserve (s : State) (r : LzPeerReq) (port : Option Nat) : State × Dword :=
  let core := r.die * 256 + r.core
  let z := s.zone core r.zone
  if !(z.open_ && z.gen = r.gen) then (s, badHandle 0x0A)
  else if z.tag != r.tag then (s, badHandle 0x09)
  else
    match (List.range (z.cnt + 1)).find? (fun i => (z.slot i).state = 0) with
    | none => (s, badHandle 0x7E)
    | some i =>
      let x : LzSlot := { state := 1, pending := z.slotBytes, gen := z.gen, node := r.node, key := r.gkey,
                          link := port, res := s.nextId }
      ({ s.setZone core r.zone { z with slots := z.slots.put i x } with nextId := s.nextId + 1 },
       handleOf z.gen s.node r.die r.core r.zone i z.sz)

/-- The request that an own `LZRES` sends. -/
def lzRequest (node : BitVec 19) (key : BitVec 24) (desc target : Dword) : LzPeerReq :=
  { node := node, gkey := key, die := field target.toNat 23 21, core := field target.toNat 20 13, zone := descZone desc,
    gen := BitVec.ofNat 8 (field desc.toNat 63 56), tag := BitVec.ofNat 24 (field desc.toNat 55 32) }

/-- The packet of a reservation's request, or of its answer with the handle (R189, R397; log entry 64). -/
def lzPacket (r : LzPeerReq) (payload : List Byte) : Packet :=
  { addr := r.core * 2 ^ 44 + r.zone * 2 ^ 40, key := r.gen ++ r.tag, gkey := r.gkey, payload := payload }

/-- An own reservation reaches its target in this package (R189). -/
def State.reserveOwn (s : State) (p id : Nat) : State :=
  match (s.group p).op? id with
  | none => s
  | some o =>
    match o.kind with
    | .lzres d desc target key none =>
      if field target.toNat 42 24 ≠ s.node.toNat then s
      else
        let r := s.reserve (lzRequest s.node key desc target) none
        let g := r.1.group p
        r.1.setGroup p { g with
          ops := g.ops.map fun q => if q.id = id then { q with kind := .lzres d desc target key (some r.2) } else q }
    | _ => s

/-- The answer is one that a peer's target gives to a request (R189). -/
def answerFits (desc target h : Dword) : Bool :=
  let t := target.toNat
  let n := h.toNat
  h = badHandle 0x0A || h = badHandle 0x09 || h = badHandle 0x7E ||
    (field n 13 8 ≤ field desc.toNat 31 26 &&
      h = handleOf (BitVec.ofNat 8 (field desc.toNat 63 56)) (BitVec.ofNat 19 (field t 42 24)) (field t 23 21) (field t 20 13)
        (descZone desc) (field n 13 8) (field desc.toNat 25 22))

/-- A reservation lost with its link (R189, R394). -/
def State.loseLzres (s : State) (p : Nat) (o : Pend) : State :=
  match o.kind with
  | .lzres d _ target _ none =>
    if field target.toNat 42 24 ≠ s.node.toNat then s.endWith p o d (badHandle 0x0B) else s
  | _ => s

/-! `CPL` (R190, R259). -/

/-- A handle is accepted: valid, without an error, with a slot size of R186 and a place of R13. -/
def handleOk (h : Nat) : Bool := bitOf h 63 && field h 62 56 = 0 && field h 3 0 ≤ 8 && field h 25 18 < 176

/-- The cores lie within a rectangle of at most 12 (R190). -/
def rectangleOk (cores : List Nat) : Bool :=
  let rows := cores.map (· / 16)
  let cols := cores.map (· % 16)
  let span := fun (l : List Nat) => l.foldl max 0 - l.foldl min 255 + 1
  span rows * span cols ≤ 12

/-- The slot that a handle names. -/
def handleTarget (h : Nat) : CplTarget :=
  { node := BitVec.ofNat 19 (field h 47 29), die := field h 28 26, core := field h 25 18, zone := field h 17 14,
    gen := BitVec.ofNat 8 (field h 55 48), slot := field h 13 8 }

/-- The handles of a `CPL` read (R190). -/
def State.readHandles (s : State) (h : BitVec 7) : Nat → Chk (List Nat)
  | 0 => .ok []
  | n + 1 => do
    let v ← s.readSide h
    let r ← s.readHandles (h + 1) n
    .ok (v.toNat :: r)

/-- `CPL` (R190, R176, R259). -/
def execCpl (z : CopySize) (h : BitVec 7) (x : BitVec 3) (m : BitVec 4) (a : BitVec 8) (s : State) : Out :=
  if !s.memReady then .next s
  else
    copyOut s do
      notInSection s
      let g := s.g
      let l ← g.active s.curSlot
      need (operandBitsOk (.cpl z h x m a) && g.spanOk a.toNat 2 &&
        (List.range (m.toNat + 1)).all (fun i => s.sideOk (h + BitVec.ofNat 7 i))) { opnd with lanes := l }
      if l = 0 then .ok s.advance
      else
        let hs ← s.readHandles h (m.toNat + 1)
        let ts := hs.map handleTarget
        need (hs.all handleOk && ts.all (fun t => some (t.node, t.die) = ts.head?.map (fun t => (t.node, t.die))) &&
          rectangleOk (ts.map (·.core))) { opnd with lanes := l }
        let b := copyBytes z
        let room := hs.foldl (fun r v => min r (256 * 2 ^ field v 3 0)) 65536
        let off := fun (l : Nat) => (g.getV (a.toNat + 1) l).val.toNat
        let big := (lanesOf l).filter fun l => !(g.getV (a.toNat + 1) l).poison && room < off l + b
        need big.isEmpty { opnd with lanes := maskOf big }
        let us := (lanesOf l).flatMap fun l =>
          [plainUnit s x l (g.getV a.toNat l).val.toNat b .read,
           { lane := l, reg := 1, va := off l, bytes := b,
             tr := if off l % b ≠ 0 then .error align else .ok { loc := .phys 0, rd := true, wr := true, ex := false, rc := false,
                                                                 remote := false, psize := 0, key := 0, leaf := none } }]
        let ok ← copyCheck s l [a.toNat, a.toNat + 1] [x] us
        let ms := (halves ok).map fun e => ({ va := e.1.1.va, src := e.1.2.loc, dst := .slot e.2.1.va, n := b } : Move)
        let ops := sortBy s.opKey (byLine ms)
        .ok (copyIssue s .cpl (ops.map fun o => (o, ts)))

/-! The landing filter (R270). -/

/-- The zone and slot take a packet of a sender. -/
def State.admits (s : State) (core zone : Nat) (gen : BitVec 8) (slot : Nat) (node : BitVec 19) (key : BitVec 24) : Bool :=
  let z := s.zone core zone
  let x := z.slot slot
  z.held && z.gen = gen && slot ≤ z.cnt && x.busy && x.node = node && x.key = key

/-- The first byte of a slot in the flat key space. -/
def State.slotBase (s : State) (core zone slot : Nat) : Nat :=
  let z := s.zone core zone
  (Loc.spad core ((s.team z.team).sbase * 65536 + z.base + slot * z.slotBytes)).key

/-- Landing bytes written to scratchpad, word by word (R270). -/
def State.landBytes (s : State) (a : Nat) (data : List (Byte × Bool)) : State :=
  (List.range (data.length / 4)).foldl (fun s i =>
    let c := (data.drop (4 * i)).take 4
    s.setMemWord (a / 4 + i) { val := BitVec.ofNat 32 (ofBytes (c.map (·.1))), poison := c.any (·.2) }) s

/-- A packet of a message and what it has written, noted for the message's tag check. -/
def State.noteLanding (s : State) (id : Nat) (e : Option Envelope) (q : List LandPacket) (w : Option LandWrite) : State :=
  match s.landing.find? (fun m => m.id = id) with
  | some _ =>
    { s with landing := s.landing.map fun m =>
        if m.id = id then { m with packets := m.packets ++ q, writes := m.writes ++ w.toList } else m }
  | none => { s with landing := s.landing ++ [{ id := id, env := e, packets := q, writes := w.toList }] }

/-- The offsets that moves of a `CPL` write, each once. -/
def movesBytes (ms : List Move) : Nat :=
  ((ms.flatMap fun m => match m.dst with
    | .slot o => (List.range (m.n / 4)).map fun i => o / 4 + i
    | _ => []).eraseDups).length * 4

/-- A packet of an own `CPL` operation at the filter of its `n`-th target (R270, R272). -/
def State.landOwn (s : State) (x : Xfer) (n : Nat) (t : CplTarget) : State :=
  let core := t.die * 256 + t.core
  let mark := fun (y : CplTarget) => ({ x with targets := x.targets.set n y } : Xfer)
  if !s.admits core t.zone t.gen t.slot s.node x.key then
    (s.setXfer (mark { t with result := some false })).noteLanding (2 * x.id) none [] none
  else
    let base := s.slotBase core t.zone t.slot
    let s := x.moves.foldl (fun s m => match m.dst with
      | .slot o => s.landBytes (base + o) m.data
      | _ => s) s
    let runs := x.moves.filterMap fun m => match m.dst with
      | .slot o => some (base + o, m.n)
      | _ => none
    (s.setXfer (mark { t with admitted := true })).noteLanding (2 * x.id) none []
      (some { core := core, zone := t.zone, slot := t.slot, res := ((s.zone core t.zone).slot t.slot).res, runs := runs,
              count := movesBytes x.moves })

/-- A landing packet of a peer is one that R397 lets it send. -/
def landPacketOk (q : LandPacket) : Bool :=
  q.die < 8 && q.core < 176 && q.zone < 16 && q.slot < 64 && q.off % 4 = 0 && q.data.length % 4 = 0 &&
    0 < q.data.length && q.data.length ≤ 128 && q.off + q.data.length ≤ 65536 && q.copies.length < 12 &&
    q.copies.all (fun c => c.1 < 176 && c.2.1 < 16 && c.2.2.2 < 64)

/-- The address field of a landing packet (R397). -/
def slotAddr (core zone slot off : Nat) : Nat := core * 2 ^ 44 + zone * 2 ^ 40 + slot * 2 ^ 34 + off

/-- A landing packet as it travels (R397). The handle of a slot holds no tag, so the key's tag is 0 (log entry 64). -/
def landPacket (q : LandPacket) (payload : List Byte) : Packet :=
  { addr := slotAddr q.core q.zone q.slot q.off, key := q.gen ++ (0 : BitVec 24), gkey := q.gkey,
    payload := payload }

/-- The answer to a landing packet: landed, or the class that its sender's operation fails with (R270, R271, R399). -/
def State.landAnswer (s : State) (e : Envelope) (q : LandPacket) (cls : BitVec 8) : State :=
  s.sendMsg 7 q.node e.sdie e.ddie [landPacket q [cls]]

/-- The packet as it stands for each slot that it goes to (R272). -/
def eachSlot (q : LandPacket) : List LandPacket :=
  { q with copies := [] } :: q.copies.map fun c => { q with core := c.1, zone := c.2.1, gen := c.2.2.1, slot := c.2.2.2, copies := [] }

/-- A packet of a peer's message at the filter of one of its slots (R270): one that is refused writes nothing, and its sender is
told. -/
def State.landSlot (s : State) (msg : Nat) (e : Envelope) (q : LandPacket) : State :=
  let core := q.die * 256 + q.core
  if !s.admits core q.zone q.gen q.slot q.node q.gkey then s.landAnswer e q 0x0A
  else
    let a := s.slotBase core q.zone q.slot + q.off
    (s.landBytes a (q.data.zipIdx.map fun b => (b.1, q.marks.getD b.2 false))).noteLanding (2 * msg + 1) (some e) []
      (some { core := core, zone := q.zone, slot := q.slot, res := ((s.zone core q.zone).slot q.slot).res,
              runs := [(a, q.data.length)], count := q.data.length, packet := some q })

/-- A packet of a peer's message at the filter of every slot that the gateway copies it to (R270, R272). -/
def State.landPeer (s : State) (msg : Nat) (e : Envelope) (q : LandPacket) : State :=
  (eachSlot q).foldl (fun s q => s.landSlot msg e q) (s.noteLanding (2 * msg + 1) (some e) [q] none)

/-- A further packet fits the message that has begun to arrive (R260, R397): at most three, from one instruction of one group. -/
def LandMsg.takes (m : LandMsg) (e : Envelope) (q : LandPacket) : Bool :=
  m.env = some e && m.packets.length < 3 && m.packets.all fun y => y.node = q.node && y.gkey = q.gkey

/-- The packet travels the link that the slot recorded, where its filter would take it (R268). -/
def State.byLink (s : State) (e : Envelope) (q : LandPacket) : Bool :=
  let core := q.die * 256 + q.core
  !s.admits core q.zone q.gen q.slot q.node q.gkey || ((s.zone core q.zone).slot q.slot).link = some e.port

/-- A landing packet of a peer arrives (R268, R270, R394): the first of a message too old discards it. -/
def State.landArrives (s : State) (msg : Nat) (e : Envelope) (q : LandPacket) : State :=
  if !(landPacketOk q && s.mayArrive e q.node && e.ddie = q.die && (eachSlot q).all (s.byLink e)) then s
  else
    match s.landing.find? (fun m => m.id = 2 * msg + 1) with
    | some m => if m.takes e q then s.landPeer msg e q else s
    | none => if lifetime < s.ageOf e then s.expireAt e.port else s.landPeer msg e q

/-- `LANDING_PACKET_ARRIVAL` (R270). -/
def execLandingPacketArrival (a : LandArrival) (s : State) : Out :=
  match a with
  | .peer msg e q => .next (s.landArrives msg e q)
  | .own op n =>
    match s.xfer? op with
    | none => .next s
    | some x =>
      match x.targets[n]? with
      | none => .next s
      | some t =>
        if x.kind = .cpl && x.drained && !s.landsAlone x && !t.admitted && t.result.isNone then .next (s.landOwn x n t)
        else .next s

/-! Settling a message (R271). -/

/-- The slots that a message wrote, with the bytes that it credits each. -/
def LandMsg.credits (m : LandMsg) : List (LandWrite × Nat) :=
  let same := fun (a b : LandWrite) => a.core = b.core && a.zone = b.zone && a.slot = b.slot && a.res = b.res
  m.writes.foldl (fun l w =>
    if l.any (fun e => same e.1 w) then l.map (fun e => if same e.1 w then (e.1, e.2 + w.count) else e) else l ++ [(w, w.count)]) []

/-- An event of a slot's landing unit, while its reservation is the one that the message was admitted under
(R269). -/
def State.slotEvent (s : State) (w : LandWrite) (f : LzSlot → LzSlot) : State :=
  let z := s.zone w.core w.zone
  let x := z.slot w.slot
  if x.res != w.res || !x.busy then s
  else (s.setZone w.core w.zone { z with slots := z.slots.put w.slot (f x) }).wakeZone w.core w.zone

/-- The words that a message wrote are poisoned (R271, R273). -/
def State.poisonRuns (s : State) (m : LandMsg) : State :=
  (m.writes.flatMap (·.runs)).foldl (fun s r =>
    (List.range (r.2 / 4)).foldl (fun s i => s.setWordPoison (r.1 / 4 + i) true) s) s

/-- The message is settled, and zones that waited for it may be free (R275). -/
def State.dropMsg (s : State) (id : Nat) : State := ({ s with landing := s.landing.filter fun m => m.id != id }).freeZones

/-- A message whose tag passes: each slot takes its credit (R271). -/
def State.passMsg (s : State) (m : LandMsg) : State :=
  (m.credits.foldl (fun s e => s.slotEvent e.1 (·.credit e.2)) s).dropMsg m.id
/-- A message whose tag fails: its words are poisoned and each slot fails (R271). -/
def State.failMsg (s : State) (m : LandMsg) : State :=
  (m.credits.foldl (fun s e => s.slotEvent e.1 (·.fail 1)) (s.poisonRuns m)).dropMsg m.id

/-- The slot of a write went to cause 3 with its message's credit: it was busy before and is failed so after (R269). -/
def LandWrite.broke (w : LandWrite) (before after : State) : Bool :=
  let old := (before.zone w.core w.zone).slot w.slot
  let new := (after.zone w.core w.zone).slot w.slot
  old.res = w.res && old.busy && new.res = w.res && new.state = 4 && new.cause = 3

/-- The own `CPL` operation of a message that has passed: landed, or failed with `FLT.LZGONE` (R271, R263). -/
def State.ackOwn (before after : State) (x : Xfer) (m : LandMsg) : State :=
  let broken := m.writes.any (·.broke before after)
  if broken || x.targets.any (fun t => t.result = some false) then after.failXfer x 0x0A
  else (after.countLanded x).endXfer x

/-- The answers to the packets of a peer's message that were admitted: landed, or failed with `FLT.LZGONE` for a slot that went to
cause 3; with `FLT.LINK` where the tag failed (R271). -/
def State.ackPeer (before after : State) (e : Envelope) (m : LandMsg) (pass : Bool) : State :=
  m.writes.foldl (fun s w => match w.packet with
    | some q => s.landAnswer e q (if !pass then 0x0B else if w.broke before after then 0x0A else 0)
    | none => s) after

/-- Every target of an operation has admitted or refused its packet. -/
def Xfer.arrived (x : Xfer) : Bool := x.targets.all fun t => t.admitted || t.result.isSome

/-! Cooldown. -/

/-- `ZONE_NUMBER_COOLDOWN_END` (R267): the packet lifetime has passed since the number's generation advanced. -/
def execZoneNumberCooldownEnd (core zone : Nat) (s : State) : Out :=
  let z := s.zone core zone
  if z.cooling && zone < 16 && z.advanced + lifetime ≤ s.ftime then .next (s.setZone core zone { z with cooling := false }) else .next s

end Sys2Proof.Machine
end

