-- ==== Sys2Proof/Machine/Matrix.lean ====
section
/-! DEFINITION. Matrix operations (R39, R40, R56 to R58, R167 to R175): their issue into the team's queue in
matrix order, and how each is performed. -/

namespace Sys2Proof.Machine

open Sys2Proof

/-! Operand types (R170). -/

/-- The 8-, 6- and 4-bit floating-point types. -/
def isMx : Ty → Bool
  | .e4m3 | .e5m2 | .e3m2 | .e2m3 | .e2m1 => true
  | _ => false
/-- The integer operand types. -/
def isMatInt : Ty → Bool
  | .s8 | .n8 => true
  | t => tyBp t
/-- bits(T) of R170. -/
def matBits (t : Ty) : Nat := if isMx t then tyWidth t else tyPlace t
/-- A legal pair of operand types (R170). -/
def pairOk (a b : Ty) : Bool :=
  (isMx a && isMx b) || (a = .f16 && b = .f16) || (a = .bf16 && b = .bf16) || (isMatInt a && isMatInt b)
/-- K / 32 on a byte budget (R170). -/
def matBlocks (q : Nat) (a b : Ty) : Nat := min (8 * q / (32 * matBits a)) (8 * q / (32 * matBits b))

/-! Reading operands (R168). -/

/-- A data byte of an operand row. -/
def Team.rowByte (t : Team) (tile i q : Nat) : Byte × Bool := t.tileByte tile ((32 * (q / 128) + i) * 128 + q % 128)
/-- An element of an operand row, with its words' poison (R46, R50). -/
def Team.rowElem (t : Team) (tile i : Nat) (ty : Ty) (k : Nat) : Nat × Bool :=
  let bit := matBits ty * k
  let lo := t.rowByte tile i (bit / 8)
  let two := 8 < matBits ty + bit % 8
  let hi := if two then t.rowByte tile i (bit / 8 + 1) else (0, false)
  ((lo.1.toNat + 256 * hi.1.toNat) / 2 ^ (bit % 8) % 2 ^ tyWidth ty, lo.2 || hi.2)
/-- The first elements of an operand row, block by block. -/
def Team.rowBlocks (t : Team) (tile i : Nat) (ty : Ty) (kblk : Nat) : List (List (Nat × Bool)) :=
  (List.range kblk).map fun b => (List.range 32).map fun k => t.rowElem tile i ty (32 * b + k)

/-! Sums (R56 to R58). -/

/-- What a matrix operation multiplies: its types, its rows by block with each block's scale, and its plane
shift. -/
structure MatArgs where
  ta : Ty
  tb : Ty
  a : List (List (List (Nat × Bool) × (Byte × Bool)))
  b : List (List (List (Nat × Bool) × (Byte × Bool)))
  shift : Nat

/-- The exact sum of a block's products (R56, R57). It starts from +0, so that a block of zero products, or one whose
products cancel, gives +0, and with an accumulator of -0 the result is +0 (DESIGN CHOICE, log entry 62). -/
def blockSum (ta tb : Ty) (x y : List (Nat × Bool)) : Num :=
  (x.zip y).foldl (fun s e => addNum 0 s (mulNum (decodeNum ta false e.1.1) (decodeNum tb false e.2.1))) (.fin false 0 0)
/-- One block of a floating-point sum added to an accumulator element (R56). -/
def floatBlock (ta tb : Ty) (c : Nat) (x y : List (Nat × Bool) × (Byte × Bool)) : Nat :=
  let s := scaleBy (scaleBy (blockSum ta tb x.1 y.1) x.2.1) y.2.1
  finish .f32 0 false false (addNum 0 (decodeNum .f32 false c) s)
/-- One block of an integer sum added to an accumulator element (R58). -/
def intBlock (ta tb : Ty) (shift c : Nat) (x y : List (Nat × Bool)) : Nat :=
  let s := ((x.zip y).map fun e => intOf ta e.1.1 * intOf tb e.2.1).sum
  wrapTo 32 ((c : Int) + s * (2 ^ shift : Nat))
/-- The words that a row of blocks read are poisoned. -/
def rowPoison (r : List (List (Nat × Bool) × (Byte × Bool))) : Bool := r.any fun b => b.2.2 || b.1.any (·.2)
/-- An accumulator element after an operation (R56, R58, R425). -/
def matElem (m : MatArgs) (c : PWord) (i j : Nat) : PWord :=
  let x := m.a.getD i []
  let y := m.b.getD j []
  { val := BitVec.ofNat 32 ((x.zip y).foldl (fun c e =>
      if isMatInt m.ta then intBlock m.ta m.tb m.shift c e.1.1 e.2.1 else floatBlock m.ta m.tb c e.1 e.2) c.val.toNat),
    poison := c.poison || rowPoison x || rowPoison y }
/-- All 1024 elements of an operation on elements that `c` gives, as table entries from `base` on. -/
def matAll (m : MatArgs) (base : Nat) (c : Nat → PWord) : List (Nat × PWord) :=
  (List.range 1024).map fun e => (base + e, matElem m (c e) (e / 32) (e % 32))

/-- An element of an accumulator. -/
def Team.accElem (t : Team) (n e : Nat) : PWord := t.acc.look (n * 1024 + e) {}
/-- An element of a shadow accumulator. -/
def Team.shadowElem (t : Team) (m e : Nat) : PWord := t.shadow.look (m * 1024 + e) {}

/-! Issue. -/

/-- An accumulator of the issuing team is busy (R39). -/
def State.accBusy (s : State) (n : Nat) : Bool := s.tm.busy.look n false

/-- An operation enters the team's queue (R207). -/
def State.enqueue (s : State) (m : MatOp) : State := s.setTm { s.tm with mq := s.tm.mq ++ [m] }
/-- An operation of the issuing group. -/
def State.matOp (s : State) (i : Instr) : MatOp := { place := s.cur, tag := s.g.tag, pc := s.sl.pc, instr := i, gm := s.sl.gm }
/-- The busy bit of an accumulator set. -/
def State.setBusy (s : State) (n : Nat) : State := s.setTm { s.tm with busy := s.tm.busy.put n true }

/-- Data bytes of a shape, and whether it is scaled (R171). -/
def matShape (sh : BitVec 2) : Nat × Bool :=
  match sh.toNat with
  | 0 => (128, false) | 1 => (512, false) | 2 => (128, true) | _ => (384, true)

/-- The types of an `MMA` (R171). -/
def mmaTypes (gm : Word) (scaled : Bool) : Chk (Ty × Ty) :=
  match tyOf (gmDtype gm), tyOf (gmStype gm) with
  | some a, some b => if pairOk a b && (!scaled || (isMx a && isMx b)) then .ok (a, b) else .error opnd
  | _, _ => .error opnd

/-- `MMA` (R171, R39). -/
def execMma (sh : BitVec 2) (d : BitVec 5) (a b : BitVec 4) (s : State) : Out :=
  if s.accBusy d.toNat then .next s
  else
    issue s fun s => do
      notInSection s
      need (d.toNat < s.tm.accs && a.toNat < s.tm.tiles && b.toNat < s.tm.tiles) opnd
      wholeGroup s
      let m ← s.sl.mode
      let _ ← mmaTypes m (matShape sh).2
      .ok ((s.enqueue (s.matOp (.mma sh d a b))).setBusy d.toNat)

/-- `AZERO` (R175). -/
def execAzero (d : BitVec 5) (s : State) : Out :=
  if s.accBusy d.toNat then .next s
  else
    issue s fun s => do
      notInSection s
      need (d.toNat < s.tm.accs) opnd
      wholeGroup s
      .ok ((s.enqueue (s.matOp (.azero d))).setBusy d.toNat)

/-- The operand block's fields (R173). -/
structure MatBlock where
  ta : Ty
  tb : Ty
  atile : Nat
  btile : Nat
  shift : Nat
  ascale : Option Nat
  bscale : Option Nat
  kblk : Nat

/-- A plane shift is accepted for a type (R173). -/
def shiftOk (t : Ty) (n : Nat) : Bool := if tyBp t then n ≤ 8 - tyWidth t else n = 0

/-- The operand block that four dwords hold, if it is accepted (R173). -/
def matBlock (tiles : Nat) (ds : List Dword) : Option MatBlock :=
  let d0 := (ds.getD 0 0).toNat
  let d1 := (ds.getD 1 0).toNat
  let d2 := (ds.getD 2 0).toNat
  match tyOf (field d0 63 59), tyOf (field d0 58 54) with
  | some a, some b =>
    let at_ := field d0 51 48
    let bt := field d0 47 44
    let sa := field d0 43 41
    let sb := field d0 40 38
    let as := bitOf d0 37
    let bs := bitOf d0 36
    let k := field d0 31 24
    if pairOk a b && k ≠ 0 && 32 * k * matBits a ≤ 4096 && 32 * k * matBits b ≤ 4096 && (!as || isMx a) && (!bs || isMx b) &&
        shiftOk a sa && shiftOk b sb && at_ < tiles && bt < tiles && field d0 53 52 = 0 && field d0 35 32 = 0 &&
        field d0 23 0 = 0 && d1 < 2 ^ 57 && d2 < 2 ^ 57 && ds.getD 3 0 = 0 then
      some { ta := a, tb := b, atile := at_, btile := bt, shift := sa + sb, ascale := if as then some d1 else none,
             bscale := if bs then some d2 else none, kblk := k }
    else none
  | _, _ => none

/-- The runs of a scale range by its 64 KiB pages, each translated (R172). -/
def scaleRuns (s : State) (base n : Nat) : Chk (List (ScaleRun × HoldUnit)) :=
  (List.range 3).foldl (fun (c : Chk (List (ScaleRun × HoldUnit))) i => do
    let l ← c
    let lo := max base ((base / 65536 + i) * 65536)
    let hi := min (base + n) ((base / 65536 + i + 1) * 65536)
    if hi ≤ lo then .ok l
    else
      let t ← tlbUnit s lo 1 .read
      .ok (l ++ [({ va := lo, n := hi - lo, loc := t.loc }, tlbHold s 0 lo (hi - lo) t.loc true)])) (.ok [])

/-- The units of a range that a peer must answer, line by line. -/
def peerLines (s : State) (u : HoldUnit) : List HoldUnit :=
  match u.loc with
  | .peer _ _ _ =>
    let first := u.loc.key / 128
    (List.range ((u.loc.key + u.bytes + 127) / 128 - first)).map fun i =>
      let lo := max u.loc.key ((first + i) * 128)
      let hi := min (u.loc.key + u.bytes) ((first + i + 1) * 128)
      tlbHold s 0 (u.va + (lo - u.loc.key)) (hi - lo) (u.loc.add (lo - u.loc.key)) true
  | _ => []

/-- A run with its bytes, where they come from a peer's lines in the slice. -/
def State.peerScales (s : State) (r : ScaleRun) : ScaleRun :=
  match r.loc with
  | .peer _ _ _ => { r with data := (s.readLoc s.cur r.loc r.n .g).2 }
  | _ => r

/-- The shadow that an `MMAQS` uses: that of its pair, else the lowest free one (R174). -/
def Team.shadowFor (t : Team) (id acc : Nat) : Option Nat :=
  let get := fun m => t.shadows.look m {}
  match (List.range 8).find? (fun m => (get m).held && !(get m).settling && (get m).id = id && (get m).acc = acc) with
  | some m => some m
  | none => (List.range 8).find? (fun m => !(get m).held)

/-- A matrix operation with an operand block (R172 to R174). `spec` is the speculation id. -/
def mmaqIssue (s : State) (i : Instr) (d a : Nat) (spec : Option Nat) : Out :=
  if s.accBusy d || s.flagFull || !s.memReady then .next s
  else
    copyOut s do
      notInSection s
      need (d < s.tm.accs && s.sideOk (BitVec.ofNat 7 a)) opnd
      wholeGroup s
      need (operandBitsOk i) opnd
      let v ← s.readSide (BitVec.ofNat 7 a)
      let t ← tlbUnit s v.toNat 32 .read
      let u := tlbHold s 0 v.toNat 32 t.loc true
      let hold := fun (us : List HoldUnit) =>
        s.setG { s.g with hold := some { slot := s.curSlot, instr := i, lanes := BitVec.allOnes 32, units := us } }
      if u.waits then .ok (hold [u])
      else
        let r := (s.touchUnit s.cur s.sl.pc .g t.loc v.toNat 32 false).readLoc s.cur t.loc 32 .g
        need (!r.2.any (·.2)) { fault 0x0E with addr := v }
        let bs := r.2.map (·.1)
        let ds := (List.range 4).map fun j => BitVec.ofNat 64 (ofBytes ((bs.drop (8 * j)).take 8))
        match matBlock s.tm.tiles ds with
        | none => .error opnd
        | some b =>
          let ra ← match b.ascale with
            | some x => scaleRuns s x (32 * b.kblk)
            | none => .ok []
          let rb ← match b.bscale with
            | some x => scaleRuns s x (32 * b.kblk)
            | none => .ok []
          let waits := ((ra ++ rb).flatMap (fun e => peerLines s e.2)).filter (·.waits)
          if !waits.isEmpty then .ok (hold waits)
          else
            let s := r.1
            let op := some s.nextId
            let m : MatOp := { s.matOp i with op := op, block := ds, scaleA := ra.map (fun e => s.peerScales e.1),
                                              scaleB := rb.map (fun e => s.peerScales e.1) }
            match spec with
            | none => .ok ((s.enqueue m).startLong .matrix []).advance
            | some id =>
              match s.tm.shadowFor id d with
              | none => .ok s
              | some k =>
                let t := s.tm
                let x := t.shadows.look k {}
                let x := if x.held then x else { held := true, id := id, acc := d }
                .ok (((s.setTm { t with shadows := t.shadows.put k x }).enqueue { m with shadows := [k] }).startLong .matrix []).advance

/-- `MMAQ` (R172). -/
def execMmaq (d : BitVec 5) (a : BitVec 7) (s : State) : Out := mmaqIssue s (.mmaq d a) d.toNat a.toNat none
/-- `MMAQS` (R174). -/
def execMmaqs (d : BitVec 5) (a : BitVec 7) (m : BitVec 8) (s : State) : Out :=
  mmaqIssue s (.mmaqs d a m) d.toNat a.toNat (some m.toNat)

/-- The shadows held for an id, in ascending accumulator (R174). -/
def Team.pairsOf (t : Team) (id : Nat) : List Nat :=
  sortBy (fun m => (t.shadows.look m {}).acc) ((List.range 8).filter fun m =>
    let x := t.shadows.look m {}
    x.held && !x.settling && x.id = id)

/-- An instruction that settles the pairs of an id (R174): they serve the id no longer, and are free once it is
performed. -/
def settleIssue (s : State) (i : Instr) (id : Nat) : Out :=
  issue s fun s => do
    notInSection s
    need (operandBitsOk i) opnd
    wholeGroup s
    let t := s.tm
    let ms := t.pairsOf id
    let sh := ms.foldl (fun sh m => sh.put m { sh.look m {} with settling := true }) t.shadows
    .ok ((s.setTm { t with shadows := sh }).enqueue { s.matOp i with shadows := ms })

/-- An accumulator that an id's pairs would be copied into is busy (R39). -/
def State.pairBusy (s : State) (id : Nat) : Bool := (s.tm.pairsOf id).any fun m => s.accBusy (s.tm.shadows.look m {}).acc

/-- `ACOMMIT` (R174): it writes the accumulators of its pairs. -/
def execAcommit (m : BitVec 8) (s : State) : Out :=
  if s.pairBusy m.toNat then .next s else settleIssue s (.acommit m) m.toNat
/-- `ADISCARD` (R174): it names no accumulator (R39). -/
def execAdiscard (m : BitVec 8) (s : State) : Out := settleIssue s (.adiscard m) m.toNat

/-! `AMOV` and `ACVT` (R175). -/

/-- The shadows that queued `ACOMMIT`s will copy into an accumulator, and that no `MMAQS` is still to change, in matrix order. -/
def Team.committing (t : Team) (n : Nat) : List Nat :=
  t.mq.flatMap fun m =>
    match m.instr with
    | .acommit _ => m.shadows.filter fun k => (t.shadows.look k {}).acc = n && !t.mq.any fun o => (match o.instr with
        | .mmaqs _ _ _ => true
        | _ => false) && o.shadows.contains k
    | _ => []

/-- An element of an accumulator as `AMOV` and `ACVT` read it: after an `ACOMMIT` that has issued the committed one, though the copy
itself is still to be performed (R174); the read waits for nothing but a busy bit (R39). -/
def Team.readElem (t : Team) (n e : Nat) : PWord :=
  match (t.committing n).getLast? with
  | some k => t.shadowElem k e
  | none => t.accElem n e

/-- No element of an accumulator that active lanes read is poisoned (R425). -/
def checkAcc (t : Team) (n : Nat) (lanes : Word) (rows : List Nat) : Chk Unit :=
  match (lanesOf lanes).filter (fun l => rows.any fun r => (t.readElem n (r * 32 + l)).poison) with
  | [] => .ok ()
  | ls => .error (poisonOf 6 n (maskOf ls))

/-- `AMOV` (R175). -/
def execAmov (d : BitVec 8) (a : BitVec 5) (i : BitVec 8) (s : State) : Out :=
  if s.accBusy a.toNat then .next s
  else
    issue s fun s => do
      notInSection s
      let g := s.g
      let t := s.tm
      need (operandBitsOk (.amov d a i) && g.vOk d.toNat && a.toNat < t.accs) opnd
      let l ← g.active s.curSlot
      checkAcc t a.toNat l [i.toNat]
      .ok (s.setG (g.setVs d.toNat ((lanesOf l).map fun l => (l, (t.readElem a.toNat (i.toNat * 32 + l)).val))))

/-- The elements of a lane of `ACVT`, drawn in ascending order (R175, R52). -/
def acvtElems (src dst : Ty) (m : Word) (c : Nat → Word) : List Nat → Word → Word → Word × Word
  | [], w, r => (w, r)
  | i :: is, w, r =>
    let x := cvtBits src dst m true (c i).toNat r
    acvtElems src dst m c is (setElem w dst i x.1) x.2

/-- `ACVT` (R175). -/
def execAcvt (d : BitVec 8) (a : BitVec 5) (i : BitVec 8) (s : State) : Out :=
  if s.accBusy a.toNat then .next s
  else
    issue s fun s => do
      notInSection s
      let g := s.g
      let t := s.tm
      let m ← s.sl.mode
      need (operandBitsOk (.acvt d a i) && g.vOk d.toNat && a.toNat < t.accs) opnd
      let dst ← vecDtype m
      let src ← vecStype m
      need (src = .f32 || src = .s32) opnd
      let n := tyCount dst
      need (i.toNat + n ≤ 32) opnd
      let l ← g.active s.curSlot
      checkAcc t a.toNat l ((List.range n).map (i.toNat + ·))
      .ok (s.setG ((lanesOf l).foldl (fun g' l =>
        let r := acvtElems src dst m (fun k => (t.readElem a.toNat ((i.toNat + k) * 32 + l)).val) (List.range n) 0 (g.rng.look l 0)
        { g'.setV d.toNat l { val := r.1 } with rng := g'.rng.put l r.2 }) g))

/-! Performing, in matrix order (R40). -/

/-- The head of a team's queue. -/
def State.matHead (s : State) (k : Nat) : Option MatOp := (s.team k).mq.head?

/-- The head of a team's queue is performed and its outstanding operation, if it is one, completes (R25). -/
def State.popMat (s : State) (k : Nat) (m : MatOp) : State :=
  let t := s.team k
  let s := s.setTeam k { t with mq := t.mq.drop 1 }
  match m.op.bind (s.group m.place).op? with
  | some o => s.setGroup m.place ((s.group m.place).endOp o)
  | none => s

/-- The rows of an operand with the scales that `f` gives for row and block. -/
def matRows (t : Team) (tile : Nat) (ty : Ty) (kblk : Nat) (f : Nat → Nat → Byte × Bool) :
    List (List (List (Nat × Bool) × (Byte × Bool))) :=
  (List.range 32).map fun i => (t.rowBlocks tile i ty kblk).zipIdx.map fun e => (e.1, f i e.2)

/-- The scale 1. -/
def noScale : Nat → Nat → Byte × Bool := fun _ _ => (0x7F, false)

/-- An accumulator written, and its busy bit cleared (R39). -/
def Team.putAcc (t : Team) (n : Nat) (es : List (Nat × PWord)) : Team :=
  { t with acc := t.acc.puts es, busy := t.busy.put n false }

/-- `MMA_PERFORMED` (R171). -/
def execMmaPerformed (team : Nat) (s : State) : Out :=
  match s.matHead team with
  | some m =>
    match m.instr with
    | .mma sh d a b =>
      let t := s.team team
      let q := matShape sh
      let s' := match mmaTypes m.gm q.2 with
        | .ok (ta, tb) =>
          let k := matBlocks q.1 ta tb
          let scale := fun (tile : BitVec 4) i b => if q.2 then t.tileByte tile.toNat ((96 + i) * 128 + b) else (0x7F, false)
          let args : MatArgs := { ta := ta, tb := tb, a := matRows t a.toNat ta k (scale a), b := matRows t b.toNat tb k (scale b), shift := 0 }
          s.setTeam team (t.putAcc d.toNat (matAll args (d.toNat * 1024) (t.accElem d.toNat)))
        | .error _ => s
      .next (s'.popMat team m)
    | _ => .next s
  | none => .next s

/-- `AZERO_PERFORMED` (R175). -/
def execAzeroPerformed (team : Nat) (s : State) : Out :=
  match s.matHead team with
  | some m =>
    match m.instr with
    | .azero d =>
      let t := s.team team
      let n := d.toNat
      let t := { t with acc := t.acc.dropIf (fun k => k / 1024 = n), busy := t.busy.put n false }
      .next ((s.setTeam team t).popMat team m)
    | _ => .next s
  | none => .next s

/-- The bytes of scale runs at the operation's start (R172), through the core's L1. -/
def State.readScales (s : State) (p : Nat) (pc : Addr) (rs : List ScaleRun) : State × List (Byte × Bool) :=
  rs.foldl (fun (st : State × List (Byte × Bool)) r =>
    if r.data.isEmpty then
      let x := (st.1.touchUnit p pc .g r.loc r.va r.n false).readLoc p r.loc r.n .g
      (x.1, st.2 ++ x.2)
    else (st.1, st.2 ++ r.data)) (s, [])

/-- What an operation with an operand block multiplies, with the state after its scale reads. -/
def State.blockArgs (s : State) (k : Nat) (m : MatOp) : State × Option MatArgs :=
  match matBlock (s.team k).tiles m.block with
  | none => (s, none)
  | some b =>
    let x := s.readScales m.place m.pc m.scaleA
    let y := x.1.readScales m.place m.pc m.scaleB
    let t := y.1.team k
    let f := fun (l : List (Byte × Bool)) i j => if l.isEmpty then (0x7F, false) else l.getD (i * b.kblk + j) (0x7F, false)
    (y.1, some { ta := b.ta, tb := b.tb, a := matRows t b.atile b.ta b.kblk (f x.2), b := matRows t b.btile b.tb b.kblk (f y.2),
                 shift := b.shift })

/-- `MMAQ_PERFORMED` (R172). The model changes every element of the accumulator in this one step: of the runs that R27
allows, an element of which is read new while another is read old before the flag clears, it has none (DESIGN CHOICE, log
entry 13). -/
def execMmaqPerformed (team : Nat) (s : State) : Out :=
  match s.matHead team with
  | some m =>
    match m.instr with
    | .mmaq d _ =>
      let r := s.blockArgs team m
      let s' := match r.2 with
        | some args =>
          let t := r.1.team team
          r.1.setTeam team { t with acc := t.acc.puts (matAll args (d.toNat * 1024) (t.accElem d.toNat)) }
        | none => r.1
      .next (s'.popMat team m)
    | _ => .next s
  | none => .next s

/-- `MMAQS_PERFORMED` (R174): a pair's first operation loads its shadow. All elements change in this one step, as for
`MMAQ` (log entry 13). -/
def execMmaqsPerformed (team : Nat) (s : State) : Out :=
  match s.matHead team with
  | some m =>
    match m.instr with
    | .mmaqs d _ _ =>
      let k := m.shadows.headD 0
      let r := s.blockArgs team m
      let s' := match r.2 with
        | some args =>
          let t := r.1.team team
          let x := t.shadows.look k {}
          let c := fun e => if x.loaded then t.shadowElem k e else t.accElem d.toNat e
          r.1.setTeam team { t with shadow := t.shadow.puts (matAll args (k * 1024) c), shadows := t.shadows.put k { x with loaded := true } }
        | none => r.1
      .next (s'.popMat team m)
    | _ => .next s
  | none => .next s

/-- A settled shadow is free. -/
def Team.freeShadow (t : Team) (k : Nat) : Team :=
  { t with shadows := t.shadows.drop k, shadow := t.shadow.dropIf (fun e => e / 1024 = k) }
/-- A shadow copied into its accumulator (R174). -/
def Team.commitShadow (t : Team) (k : Nat) : Team :=
  let x := t.shadows.look k {}
  let es := (List.range 1024).map fun e => (x.acc * 1024 + e, if x.loaded then t.shadowElem k e else t.accElem x.acc e)
  { t with acc := t.acc.puts es }.freeShadow k

/-- `ACOMMIT_PERFORMED` (R174). -/
def execAcommitPerformed (team : Nat) (s : State) : Out :=
  match s.matHead team with
  | some m =>
    match m.instr with
    | .acommit _ => .next ((s.setTeam team (m.shadows.foldl (fun t k => t.commitShadow k) (s.team team))).popMat team m)
    | _ => .next s
  | none => .next s

/-- `ADISCARD_PERFORMED` (R174). -/
def execAdiscardPerformed (team : Nat) (s : State) : Out :=
  match s.matHead team with
  | some m =>
    match m.instr with
    | .adiscard _ => .next ((s.setTeam team (m.shadows.foldl (fun t k => t.freeShadow k) (s.team team))).popMat team m)
    | _ => .next s
  | none => .next s

end Sys2Proof.Machine
end

