-- ==== Sys2Proof/Machine/Ship.lean ====
section
/-! DEFINITION. Shipped sections (R193 to R196, R278 to R297): sending hoists, their homes, sections, and what
comes back to the sender. -/

namespace Sys2Proof.Machine

open Sys2Proof

/-! Sending (R193, R283, R285). -/

/-- A token of a lane. -/
def Group.token (g : Group) (t l : Nat) : TokLane := g.tokens.look (t * 32 + l) .idle
/-- The lanes of a mask whose token is pending. -/
def Group.pendingLanes (g : Group) (t : Nat) (m : Word) : List Nat := (lanesOf m).filter fun l => g.token t l = .pending

/-- The argument count of a ship descriptor (R63). -/
def shipNa (d : Dword) : Nat := field d.toNat 63 60
/-- The result count of a ship descriptor (R63). -/
def shipNr (d : Dword) : Nat := field d.toNat 59 57
/-- The section entry of a ship descriptor (R63). -/
def shipEntry (d : Dword) : Addr := d.setWidth 57

/-- The home of a lock, as die * 32 + mast core (R285). -/
def homeOf (a : Nat) : Nat :=
  field a 14 7 ^^^ field a 22 15 ^^^ field a 30 23 ^^^ field a 38 31 ^^^ field a 46 39 ^^^ field a 51 47

/-- The lock unit of a lane: a scratchpad window is refused (R193). -/
def lockUnit (s : State) (x : BitVec 3) (a l : Nat) : MUnit :=
  let u := copyUnit s x l (s.g.getV a l).val.toNat 8 .both
  match u.tr with
  | .ok t => (match t.loc with
    | .spad _ _ => { u with tr := .error prot }
    | _ => u)
  | .error _ => u

/-- A watchdog as it is read (R283): 0 as 100, and what is above 1,000,000 as 1,000,000. -/
def wdogOf (w : Word) : Word := if w = 0 then 100 else if 1000000 < w.toNat then 1000000 else w

/-- The watchdog that a request of the issuing group carries (R283): in a fused context that of the part whose code
issues it (R369). -/
def State.hoistWdog (s : State) : Word :=
  let c := s.ctx s.g.ctx
  wdogOf (match s.g.sect with
    | some x => x.req.wdog
    | none => if c.fused && (s.originEntry c s.sl.pc).1 then c.kernel2.wdog else c.kernel.wdog)

/-- The request of a lane (R283). -/
def hoistReq (s : State) (a : Nat) (tok : Option Nat) (desc : Dword) (u : MUnit) (t : Trans) : HoistReq :=
  { desc := desc, lockpa := (match t.loc with
      | .peer _ _ pa => pa
      | l => l.key),
    lockva := BitVec.ofNat 57 u.va, mast := isMast s.cur, wait := tok.isNone, tok := BitVec.ofNat 3 (tok.getD 0), lane := u.lane,
    node := s.node, gkey := placeKey s.cur s.g, key := t.key, wdog := s.hoistWdog, seq := 0,
    args := (List.range (shipNa desc)).map fun i => (s.g.getV (a + 1 + i) u.lane).val }

/-- A lane's hoist sent (R289). -/
def State.sendHoist (s : State) (a : Nat) (tok : Option Nat) (desc : Dword) (u : MUnit) (t : Trans) : State :=
  let r := hoistReq s a tok desc u t
  let h : Hoist := { id := s.nextId, req := r, own := true, place := s.cur, tag := s.g.tag, ctx := s.g.ctx, reg := a,
                     home := (match t.loc with
                       | .peer _ _ _ => none
                       | _ => some (homeOf r.lockpa)),
                     peer := (match t.loc with
                       | .peer n _ _ => n
                       | _ => 0) }
  { s with nextId := s.nextId + 1, hoists := s.hoists ++ [h] }

/-- The lanes of a `SHIP` noted at the sender: outstanding for `SHIP.W`, pending for `SHIP.T` (R194). -/
def Group.noteShip (g : Group) (tok : Option Nat) (l : Word) (vas : List (Nat × Addr)) : Group :=
  match tok with
  | none =>
    { g with shipOut := g.shipOut ||| l, shipFail := g.shipFail &&& ~~~l, shipDone := g.shipDone &&& ~~~l,
             shipFar := g.shipFar &&& ~~~l, lockVa := g.lockVa.puts vas }
  | some t =>
    { g with tokens := g.tokens.puts ((lanesOf l).map fun i => (t * 32 + i, .pending)),
             lockVa := g.lockVa.puts (vas.map fun e => (32 * (t + 1) + e.1, e.2)) }

/-- The registers of a `SHIP` lie in the allotment, whatever lanes are active (R34, R193): those that its descriptor names, or the first where it
is poisoned. -/
def State.shipSpan (s : State) (a : BitVec 8) : Option Dword → Bool
  | some d => s.g.spanOk a.toNat (1 + max (shipNa d) (shipNr d - 1))
  | none => s.g.vOk a.toNat

/-- `SHIP.W` and `SHIP.T` (R193, R194). -/
def shipIssue (s : State) (a : BitVec 8) (e : BitVec 7) (x : BitVec 3) (tok : Option Nat) : Out :=
  match s.g.active s.curSlot with
  | .error f => .next (s.raise f)
  | .ok l =>
    if !s.memReady || (match tok with
        | some t => !(s.g.pendingLanes t l).isEmpty
        | none => false) then .next s
    else
      copyOut s do
        let bad : FaultInfo := { opnd with lanes := l }
        need (tok.isSome || !isMast s.cur) opnd
        need (s.sideOk e) bad
        need (s.shipSpan a (s.readSide e).toOption) bad
        if l = 0 then .ok s.advance
        else
          let d ← s.readSide e
          let na := shipNa d
          need (na ≤ 8 && shipNr d ≤ 4 && (shipEntry d).toNat % 4 = 0) bad
          let ts ← copyCheck s l ((List.range (na + 1)).map (a.toNat + ·)) [x] ((lanesOf l).map (lockUnit s x a.toNat))
          let s := ts.foldl (fun s u => s.sendHoist a.toNat tok d u.1 u.2) (s.countHere 7 ts.length)
          let g := s.g.noteShip tok l (ts.map fun u => (u.1.lane, BitVec.ofNat 57 u.1.va))
          .ok (match tok with
            | none => (s.setG g).park .shipW
            | some _ => (s.setG g).advance)

/-- `SHIP.W` (R193, R194). -/
def execShipW (a : BitVec 8) (e : BitVec 7) (x : BitVec 3) (s : State) : Out := shipIssue s a e x none
/-- `SHIP.T` (R193, R194). -/
def execShipT (a : BitVec 8) (e : BitVec 7) (x t : BitVec 3) (s : State) : Out := shipIssue s a e x (some t.toNat)

/-! What comes back (R194, R195). -/

/-- The fault of lanes whose hoists failed: the class of the lowest, its lanes and its lock address. An address
that a restored group no longer has is free (log entry 5). Of a `WAITK` R324 has the mask of the lowest lane alone, where R195 has every
lane of the class: it is one of the two, and the model leaves open which (log entry 61). -/
def State.hoistFault (s : State) (p base : Nat) (fails : List (Nat × BitVec 8)) : FaultInfo :=
  let g := s.group p
  match fails with
  | [] => opnd
  | (l, c) :: _ =>
    let all := maskOf ((fails.filter fun e => e.2 = c).map (·.1))
    { cls := c, lanes := if base ≠ 0 && (Config.freeWord s.draws).getLsbD 0 then BitVec.twoPow 32 l else all, next := true,
      addr := (g.lockVa.look (base + l) ((Config.freeWord s.draws).setWidth 57)).setWidth 64 }

/-- The scope of the acquire for lanes that are done (R247). -/
def doneScope (near far : Bool) : Option Scope := if far then some .s else if near then some .d else none

/-- An acquire, if there is a scope for it. -/
def State.acquireAt (s : State) (p : Nat) (sc : Option Scope) : State :=
  match sc with
  | some sc' => s.acquire p sc'
  | none => s

/-- A `SHIP.W` completes (R194, R247). -/
def State.finishShip (s : State) (p : Nat) (sl : SlotId) : State :=
  let g := s.group p
  let x := g.slot sl
  let fails := (lanesOf (g.shipFail &&& x.mask)).map fun l => (l, g.shipCls.look l 0)
  let sc := doneScope ((g.shipDone &&& x.mask) != 0) ((g.shipFar &&& x.mask) != 0)
  let s := s.acquireAt p sc
  let g := s.group p
  let s := s.setGroup p { g with shipFail := g.shipFail &&& ~~~x.mask, shipDone := g.shipDone &&& ~~~x.mask,
                                 shipFar := g.shipFar &&& ~~~x.mask }
  if fails.isEmpty then s.resumeSlot p sl
  else
    let f := s.hoistFault p 0 fails
    (s.setGroup p ((s.group p).setSlot sl { x with state := .live })).raiseAt p sl f

/-- The tokens of lanes made idle: their errors, and the scope of the acquire (R195, R247). -/
def Group.takeTokens (g : Group) (t : Nat) (lanes : Word) : Group × List (Nat × BitVec 8) × Option Scope :=
  let ls := lanesOf lanes
  let errs := ls.filterMap fun l => match g.token t l with
    | .error c => some (l, c)
    | _ => none
  let far := ls.any fun l => g.token t l = .done true
  let near := ls.any fun l => g.token t l = .done false
  ({ g with tokens := g.tokens.puts (ls.map fun l => (t * 32 + l, .idle)) }, errs, doneScope near far)

/-- `WAITK` completes (R195): with an error it faults after its tokens are idle, without one it acquires. -/
def State.finishWaitk (s : State) (p : Nat) (sl : SlotId) (t : Nat) (lanes : Word) : State :=
  let r := (s.group p).takeTokens t lanes
  let s := s.setGroup p (r.1.setSlot sl { r.1.slot sl with state := .live })
  match r.2.1 with
  | [] => (s.acquireAt p r.2.2).resumeSlot p sl
  | es => ({ s with draws := s.draws + 1 } : State).raiseAt p sl (s.hoistFault p (32 * (t + 1)) es)

/-- A slot of a group that waits for hoists goes on, or faults, where its condition is met (R194, R195). Under a stop the wait ends as
well (R442), but for one that ends with a fault, which is held (R423). -/
def State.wakeSlot (s : State) (p : Nat) (sl : SlotId) : State :=
  let g := s.group p
  let x := g.slot sl
  match x.state with
  | .waiting .shipW =>
    if g.shipOut &&& x.mask != 0 || (s.stoppedAt p && g.shipFail &&& x.mask != 0) then s else s.finishShip p sl
  | .waiting (.waitk t lanes) =>
    if !(g.pendingLanes t lanes).isEmpty || (s.stoppedAt p && !(g.takeTokens t lanes).2.1.isEmpty) then s
    else s.finishWaitk p sl t lanes
  | _ => s

/-- The slots of a group that wait for hoists, slot A first (R423). -/
def State.wakeShip (s : State) (p : Nat) : State := [SlotId.A, SlotId.B].foldl (fun s sl => s.wakeSlot p sl) s

/-- `WAITK` (R195, R196). -/
def execWaitk (k : BitVec 8) (s : State) : Out :=
  transfer s fun s => do
    notInSection s
    need (operandBitsOk (.waitk k)) opnd
    let l ← s.g.active s.curSlot
    .ok (if (s.g.pendingLanes k.toNat l).isEmpty then s.finishWaitk s.cur s.curSlot k.toNat l else s.park (.waitk k.toNat l))

/-- `TESTK` (R195). -/
def execTestk (d : BitVec 4) (k : BitVec 8) (s : State) : Out :=
  issueG s fun g => do
    need (operandBitsOk (.testk d k)) opnd
    let l ← g.active s.curSlot
    .ok (g.setPBits d.toNat l (l &&& ~~~(maskOf (g.pendingLanes k.toNat l))))

/-- A hoist's answer at its sender (R194, R284): the results, and the lane's token or its part of the `SHIP.W`. -/
def Group.takeAnswer (g : Group) (h : Hoist) (cls : BitVec 8) (results : List PWord) : Group :=
  let l := h.req.lane
  let bit := BitVec.twoPow 32 l
  let far := h.home.isNone
  let g := if cls != 0 then g
    else results.zipIdx.foldl (fun g e => if h.reg + e.2 < 8 * g.vgran then g.setV (h.reg + e.2) l e.1 else g) g
  if h.req.wait then
    let g := { g with shipOut := g.shipOut &&& ~~~bit }
    if cls = 0 then { g with shipDone := g.shipDone ||| bit, shipFar := if far then g.shipFar ||| bit else g.shipFar }
    else { g with shipFail := g.shipFail ||| bit, shipCls := g.shipCls.put l cls }
  else { g with tokens := g.tokens.put (h.req.tok.toNat * 32 + l) (if cls = 0 then .done far else .error cls) }

/-- The occupant that sent a hoist is there and has not ended. -/
def State.senderThere (s : State) (h : Hoist) : Bool :=
  let g := s.group h.place
  g.live && !g.ended && g.tag = h.tag

/-- A hoist ends with a class and results at its sender; for an ended one an error is an orphaned completion
(R216, R284, R295). -/
def State.endHoist (s : State) (h : Hoist) (cls : BitVec 8) (results : List PWord) : State :=
  let s := s.dropHoist h.id
  if s.senderThere h then (s.setGroup h.place ((s.group h.place).takeAnswer h cls results)).wakeShip h.place
  else if cls = 0 then s
  else s.orphan h.place h.req.gkey cls (if h.req.mast then 4 else 1) h.req.tok.toNat

/-- The answer that an event brings is one that the hoist's home gives (R284): the class and the results. -/
def hoistAnswer (h : Hoist) (a : HoistAns) : Option (BitVec 8 × List PWord) :=
  match a, h.at_ with
  | .own, .answered c r => some (c, r)
  | .peer _ c r, .sent =>
    if h.home.isNone && !h.mute && (c = 0 || c = 0x09 || c = 0x0B || c = 0x0C || c = 0x11) && r.length = (if c = 0 then shipNr h.req.desc else 0) then
      some (c, r.map fun e => ⟨e.1, e.2⟩)
    else none
  | _, _ => none

/-- The sender of a hoist was saved to an image whose context has not completed (R345). -/
def State.savedTag (s : State) (tag : Nat) : Option SavedGroup := s.saved.find? fun g => g.tag = tag && g.image != 0

/-! The home (R287 to R290). -/

/-- The bytes of a request (R283). -/
def hoistBytes (r : HoistReq) : List Byte :=
  bytesOfDwords (hoistDwords r ++ [0, 0]) ++ (List.range 8).flatMap (fun i => bytesOf 4 (r.args.getD i 0).toNat) ++ List.replicate 32 0

/-- A region whose key a peer's request carries (R392). -/
def State.regionOf (s : State) (key : Word) : Option Region :=
  s.regions.find? fun r => !r.attr.getLsbD 4 && r.key = key && key != 0

/-- A hoist's key is accepted (R287, R392). -/
def State.hoistKeyOk (s : State) (r : HoistReq) : Bool :=
  match s.regionOf r.key with
  | some g => g.attr.getLsbD 0 && g.attr.getLsbD 1 && g.attr.getLsbD 2 && g.base ≤ r.lockpa && r.lockpa + 8 ≤ g.base + g.len
  | none => false

/-- The entries of a spill ring (R299). -/
def Mast.entries (m : Mast) : Nat := 2 ^ (16 + field m.ringCtl.toNat 55 52)
/-- A request enters the on-chip queue (R288). -/
def Mast.onChip (m : Mast) : Bool := m.ring.isEmpty && m.queue.length < 4096
/-- The home accepts requests (R288). -/
def Mast.accepts (m : Mast) : Bool := m.onChip || (m.ringCtl.getLsbD 63 && m.ring.length < m.entries && !m.stuck)
/-- A lock of a mast core is broken (R292). -/
def Mast.isBroken (m : Mast) (lock : Nat) : Bool := m.allbroken || m.broken.contains lock

/-- The on-chip queue refilled from the ring's head (R288). -/
def Mast.refill (m : Mast) : Mast :=
  let n := 4096 - m.queue.length
  { m with queue := m.queue ++ m.ring.take n, ring := m.ring.drop n, stuck := m.stuck && (n = 0 || m.ring.isEmpty) }

/-- The address of the next entry of a mast core's ring (R299). -/
def Mast.ringPlace (m : Mast) : Nat := field m.ringCtl.toNat 51 0 + 128 * (m.ringTail % m.entries)

/-- The write of a request in the ring fails (R288): its place cannot be written, or it fails for a cause that the spec does not give,
which is open for every write (log entry 41). -/
def State.ringFails (s : State) (m : Nat) : Bool :=
  !s.writable (s.mast m).ringPlace 128 || (Config.freeWord s.draws).getLsbD 0

/-- A ring write has failed: F3 is told, and the home stops accepting until the ring would have room again (R288; log entry
41). -/
def State.ringFailed (s : State) (m : Nat) : State :=
  (s.setMast m { s.mast m with stuck := true }).post .ringFailed 3 (coreSource (2 ^ 18 + 4 * m)) 0
    (BitVec.ofNat 64 (s.mast m).ringPlace)

/-- A request is queued in the ring when it arrives: R287 does not refuse it, and the on-chip queue does not take it (R288). -/
def State.toRing (s : State) (h : Hoist) (m : Nat) : Bool :=
  !(!h.own && !s.hoistKeyOk h.req) && !(s.mast m).isBroken h.req.lockpa && !(s.mast m).onChip

/-- A request arrives at its home, which accepts it (R287, R288); a peer's is acknowledged (R399). -/
def State.arrive (s : State) (h : Hoist) (m : Nat) : State :=
  let x := s.mast m
  let seq := x.seq + 1
  let s := (s.setMast m { x with seq := seq }).toSender h 7 [0]
  let s := s.mapHoist h.id fun h => { h with req := { h.req with seq := seq.toNat } }
  let r := { h.req with seq := seq.toNat }
  let x := s.mast m
  if !h.own && !s.hoistKeyOk r then s.answerHoist h.id 0x09 []
  else if x.isBroken r.lockpa then s.answerHoist h.id 0x0C []
  else if x.onChip then (s.setMast m { x with queue := x.queue ++ [h.id] }).mapHoist h.id fun h => { h with at_ := .queued }
  else
    let s := s.devWrite x.ringPlace (hoistBytes r)
    (s.setMast m { x with ring := x.ring ++ [h.id], ringTail := x.ringTail + 1 }.refill).mapHoist h.id fun h => { h with at_ := .ring }

/-- No earlier hoist of the same sender to the same lock is still on its way, and, from a peer, none to the same home
(R286). -/
def State.firstOfLock (s : State) (h : Hoist) : Bool :=
  !s.hoists.any fun o => o.id < h.id && o.own = h.own && (!h.own || o.req.lockpa = h.req.lockpa) && o.home = h.home &&
    (if h.own then o.place = h.place && o.tag = h.tag else o.req.node = h.req.node && o.req.gkey = h.req.gkey) &&
    (o.at_ = .sent || o.at_ = .heldBack)

/-- A hoist on its way to a home of this package, or held in the network before it, arrives if it may. -/
def State.tryArrive (s : State) (id : Nat) : State :=
  match s.hoist? id with
  | none => s
  | some h =>
    match h.home with
    | none => s
    | some m =>
      if (h.at_ = .sent || h.at_ = .heldBack) && s.firstOfLock h && (s.mast m).accepts then
        if !s.toRing h m then s.arrive h m
        else
          let t : State := { s with draws := s.draws + 1 }
          if s.ringFails m then (t.ringFailed m).mapHoist id fun h => { h with at_ := .heldBack } else t.arrive h m
      else s

/-- The gateway pair of a peer's hoist, as a number (R397, R402). -/
def gatePair (r : HoistReq) : Nat := (r.node.toNat * 8 + r.gkey.toNat / 2 ^ 21) * 8 + homeOf r.lockpa / 32

/-- The message of a peer's hoist is performed (R401). -/
def State.noteHoist (s : State) (h : Hoist) : State :=
  match h.env with
  | some e => s.noteSeq e h.req.node
  | none => s

/-- The gateway delivers a peer's hoist (R392, R402): it is refused in place of the acknowledgment (R399), or goes on to its
home. -/
def State.passGate (s : State) (h : Hoist) : State :=
  let pair := gatePair h.req
  let s := ({ s with delivered := s.delivered.put pair ((h.hseq + 1) % 2 ^ 16) } : State).noteHoist h
  if !s.hoistKeyOk h.req then (s.toSender h 7 [0x09]).dropHoist h.id
  else (s.mapHoist h.id fun h => { h with at_ := .heldBack }).tryArrive h.id

/-- The gateway delivers the waiting hoists of a pair that follow without a gap (R402). -/
def State.runGate (s : State) (pair : Nat) : Nat → State
  | 0 => s
  | n + 1 =>
    match s.hoists.find? fun h => h.at_ = .gateway && gatePair h.req = pair && h.hseq = s.delivered.look pair 0 with
    | none => s
    | some h => (s.passGate h).runGate pair n

/-- A peer's request is one that R283 lets it send. -/
def hoistReqOk (own : BitVec 19) (r : HoistReq) : Bool :=
  r.node != own && r.lockpa % 8 = 0 && r.lockpa < 2 ^ 52 && r.lane < 32 && shipNa r.desc ≤ 8 && shipNr r.desc ≤ 4 &&
    (shipEntry r.desc).toNat % 4 = 0 && r.args.length = shipNa r.desc && !(r.mast && r.wait)

/-- A peer's hoist reaches the gateway of its home's die (R399, R402). -/
def State.gateHoist (s : State) (e : Envelope) (r : HoistReq) : State :=
  let x : Hoist := { id := s.nextId, req := { r with seq := 0 }, own := false, place := 0, tag := 0, ctx := 2 ^ 30, reg := 0,
                     home := some (homeOf r.lockpa), port := e.port, hseq := e.hseq, at_ := .gateway, env := some e }
  let s := { s with nextId := s.nextId + 1, hoists := s.hoists ++ [x] }
  s.runGate (gatePair r) s.hoists.length

/-- The gateway passes the gap before the first waiting hoist of a pair (R402). -/
def State.passGap (s : State) (pair : Nat) : State :=
  let waits := s.hoists.filter fun h => h.at_ = .gateway && gatePair h.req = pair
  let next := s.delivered.look pair 0
  match sortBy (fun h => (h.hseq + 2 ^ 16 - next) % 2 ^ 16) waits with
  | [] => s
  | h :: _ => ({ s with delivered := s.delivered.put pair h.hseq }).runGate pair waits.length

/-- `HSEQ_GAP_TIMEOUT` (R402). -/
def execHseqGapTimeout (port : Nat) (node : BitVec 19) (s : State) : Out :=
  match s.hoists.find? fun h => h.at_ = .gateway && h.port = port && h.req.node = node with
  | some h => .next (s.passGap (gatePair h.req))
  | none => .next s

/-- The place of a context of a mast core. -/
def mastPlace (m ctx : Nat) : Nat := 2 ^ 18 + m * 4 + ctx

/-- The locks that a mast core's sections hold (R290). -/
def State.heldLocks (s : State) (m : Nat) : List Nat :=
  (List.range 4).filterMap fun c => (s.group (mastPlace m c)).sect.map (·.req.lockpa)

/-- The group that a section starts as (R196, R279). A section has no team: its number names none. Its generator state is
that of a free seed, as no rule gives it one (R52; log entry 5). -/
def sectionGroup (h : Hoist) (tag : Nat) (seed : Word) : Group :=
  let r := h.req
  let s : Tab PDword := [(0, { val := r.lockva.setWidth 64 }), (1, { val := BitVec.ofNat 64 (r.node.toNat * 2 ^ 24 + r.gkey.toNat) }),
    (2, { val := BitVec.ofNat 64 r.lane }), (3, { val := BitVec.ofNat 64 (shipNr r.desc) })]
  { live := true, tag := tag, team := 2 ^ 30, ctx := h.ctx, s := s,
    v := r.args.zipIdx.map fun e => (e.2 * 32, ({ val := e.1 } : PWord)),
    vgran := 8, slotA := { state := .live, pc := shipEntry r.desc, mask := 1 }, file := .active, rng := seedStates seed,
    sect := some { hoist := h.id, req := r, own := h.own } }

/-- `SECTION_START` (R290, R196): the entry's acquire leaves the private cache as it is (R281). -/
def execSectionStart (m c : Nat) (s : State) : Out :=
  let p := mastPlace m c
  if m ≥ 256 || c ≥ 4 || (s.group p).live || s.stopped then .next s
  else
    let x := s.mast m
    let held := s.heldLocks m
    match (x.queue ++ x.ring).find? fun id => !held.contains (s.lockOf id) with
    | none => .next s
    | some id =>
      match s.hoist? id with
      | none => .next s
      | some h =>
        let x := { x with queue := x.queue.filter (· != id), ring := x.ring.filter (· != id) }.refill
        let s := (s.setMast m x).mapHoist id fun h => { h with at_ := .running p }
        .next { s.setGroup p (sectionGroup h s.nextId ((Config.freeWord s.draws).setWidth 32)) with
                nextId := s.nextId + 1, draws := s.draws + 1 }

/-- `SRET` (R196, R281, R284, R295). -/
def execSret (s : State) : Out :=
  match s.g.sect with
  | none => .next (s.raise opnd)
  | some x =>
    let p := s.cur
    let results := (List.range (shipNr x.req.desc)).map fun i => s.g.getV i 0
    let s := s.pushMast (coreKey p)
    let s := (s.releaseViews p).setGroup p {}
    .next (s.answerHoist x.hoist 0 results)

/-- `WATCHDOG_EXPIRY` (R292). -/
def execWatchdogExpiry (p : Nat) (s : State) : Out :=
  let g := s.group p
  if isMast p && g.live && g.sect.isSome && !s.stoppedAt p then
    let rec' := faultRecord s p .A (fault 0x11) false
    .next ({ s with err := { s.err with fseq := s.err.fseq + 1 } }.killSection p rec' 0x11)
  else .next s

end Sys2Proof.Machine
end

