-- ==== Sys2Proof/Machine/Fabric.lean ====
section
/-! DEFINITION. The fabric's ports and the host links (R147, R160, R273, R296, R395, R400, R404): what is lost with a port, ports
that go down and come up, the host's answers, and evictions. -/

namespace Sys2Proof.Machine

open Sys2Proof

/-! What is in flight (R273). -/

/-- An own hoist that its home in another package has not answered. -/
def Hoist.abroad (h : Hoist) : Bool := h.own && h.home.isNone && h.at_ = .sent

/-- The messages of a transfer operation that are still to be answered: those that read its sources, and once it has drained those that
carry its bytes (R263, R394). -/
def Xfer.unanswered (x : Xfer) : List Nat := if x.drained then x.told.map (·.2) else x.asked.getD []

/-- A message went by a port. -/
def State.sentBy (s : State) (port : Nat) (num : Nat) : Bool := s.outbox.any fun m => m.num = num && m.sent && m.port = port

/-! Losing what is in flight (R147, R178, R189, R273, R296, R394). -/

/-- A lost write-back: an orphaned completion of source 2 (R147, R427). No group sent it: the key that the entry
names is free (log entry 5). -/
def State.orphanWrite (s : State) (w : PeerWrite) (cls : BitVec 8) : State :=
  let s := { s with peerWrites := s.peerWrites.filter fun x => x.id != w.id }
  let key := (Config.freeWord s.draws).toNat % 2 ^ 24
  ({ s with draws := s.draws + 1 }).report 4 (homeDie w.addr)
    [BitVec.ofNat 64 (cls.toNat * 2 ^ 56 + s.node.toNat * 2 ^ 24 + key), BitVec.ofNat 64 (2 * 2 ^ 60)]

/-- A hoist abroad lost with its link (R296): a saved sender's answer waits to be recorded (R345). -/
def State.loseHoist (s : State) (h : Hoist) : State :=
  if (s.savedTag h.tag).isSome then s.mapHoist h.id fun h => { h with at_ := .answered 0x0B [] }
  else s.endHoist h 0x0B []

/-- A group's unanswered units whose messages are lost fail (R147). -/
def State.loseUnits (s : State) (p : Nat) (lost : Nat → Bool) : State :=
  match (s.group p).hold with
  | none => s
  | some h => (h.units.zipIdx).foldl (fun s e => if e.1.msg.any lost then s.answerUnit p e.2 .link else s) s

/-- What waits for an answer to messages that are lost fails (R273, R296). -/
def State.loseMessages (s : State) (lost : Nat → Bool) : State :=
  let s := (s.xfers.filter fun x => x.unanswered.any lost).foldl (fun s x => s.failXfer x 0x0B) s
  let s := (s.groups.map (·.1)).foldl (fun s p => s.loseUnits p lost) s
  let s := s.groups.foldl (fun s e => (e.2.ops.filter (·.msg.any lost)).foldl (fun s o => s.loseLzres e.1 o) s) s
  let s := (s.hoists.filter fun h => h.abroad && h.msg.any lost).foldl (fun s h => s.loseHoist h) s
  (s.peerWrites.filter (·.msg.any lost)).foldl (fun s w => s.orphanWrite w 0x0B) s

/-- The landing slots that recorded a port fail (R269, R273). -/
def State.loseSlots (s : State) (port : Nat) : State :=
  s.zones.foldl (fun s e =>
    let z := s.zone (e.1 / 16) (e.1 % 16)
    let slots := z.slots.map fun x => (x.1, if x.2.link = some port then x.2.fail 2 else x.2)
    (s.setZone (e.1 / 16) (e.1 % 16) { z with slots := slots }).wakeZone (e.1 / 16) (e.1 % 16)) s

/-- Deliveries that wait for a gap by a port pass it (R402). -/
def State.passGaps (s : State) (port : Nat) : Nat → State
  | 0 => s
  | n + 1 =>
    match s.hoists.find? fun h => h.at_ = .gateway && h.port = port with
    | none => s
    | some h => (s.passGap (gatePair h.req)).passGaps port n

/-- F4 declares a port lost (R400, R273, R296): what has left by it unacknowledged fails, messages still arriving are
poisoned, slots that recorded it fail, and its routes move, with what was still queued there. -/
def State.losePort (s : State) (port : Nat) : State :=
  let lost := s.sentBy port
  let s := s.setLink port { s.link port with lost := true, fails := 0 }
  let s := { s with routes := s.routes.filter fun e => e.2 != port }
  let s := s.loseMessages lost
  let s : State := { s with outbox := s.outbox.map fun m => if m.port = port && !m.sent then { m with port := 16 } else m }
  let s := (s.landing.filter fun m => m.env.any fun e => e.port = port).foldl (fun s m => (s.poisonRuns m).dropMsg m.id) s
  (s.loseSlots port).passGaps port s.hoists.length

/-- A message arrives at a port and its tag fails: it is counted, and the eighth in a row loses the port (R398,
R400). -/
def State.tagFails (s : State) (port : Nat) : State :=
  let x := s.link port
  let s := s.setLink port { x with tagfail := sat16 x.tagfail, fails := x.fails + 1 }
  if x.fails + 1 ≥ 8 then s.losePort port else s
/-- A message arrives at a port and its tag passes. -/
def State.tagPasses (s : State) (port : Nat) : State := s.setLink port { s.link port with fails := 0 }

/-- `LINK_DOWN` (R400, R396). -/
def execLinkDown (port : Nat) (s : State) : Out :=
  if port < 16 && (s.link port).up then
    .next ((s.losePort port).setLink port { (s.losePort port).link port with up := false })
  else .next s

/-- `LINK_UP` (R396). -/
def execLinkUp (port : Nat) (s : State) : Out :=
  if port < 16 && !(s.link port).up then .next (s.setLink port { s.link port with up := true, fails := 0 }) else .next s

/-- `UCIE_LINK_FAILURE` (R395, R427). -/
def execUcieLinkFailure (dieA dieB : Nat) (s : State) : Out :=
  if dieA < 8 && dieB < 8 && dieA != dieB then .next (s.report 7 dieA [1]) else .next s

/-! Releases at `.s` (R401, R404). -/

/-- A release at `.s` that waits loses some of what it waits for. -/
def Group.mapRel (g : Group) (f : RelWait → RelWait) : Group :=
  match g.rel with
  | none => g
  | some r =>
    let r := f r
    { g with rel := if r.nodes.isEmpty && r.ports.isEmpty then none else some r }

/-- `RELEASE_READ_COMPLETION` (R404). -/
def execReleaseReadCompletion (p port : Nat) (s : State) : Out :=
  if s.pcieDown.look port false then .next s
  else .next (s.setGroup p ((s.group p).mapRel fun r => { r with ports := r.ports.filter (· != port) }))

/-! The host links (R160, R404). -/

/-- The completion status as R419 records it: PCI Express calls Unsupported Request 1 and Completer Abort 4. -/
def pcieCode : PcieStatus → BitVec 16
  | .success => 0
  | .unsupported => 1
  | .abort => 4

/-- The host unit of a one-at-a-time atomic whose AtomicOp is outstanding (R160, R405). -/
def Hold.atomicOut (h : Hold) : Option HoldUnit :=
  match h.units[h.done]? with
  | some u => if h.sequenced && h.fall.isNone && isHostPa u.loc.key then some u else none
  | none => none

/-- `HOST_ATOMICOP_COMPLETION` (R160, R405), which comes for no unit that another atomic holds between its lanes (R161, R252). -/
def execHostAtomicopCompletion (p : Nat) (st : PcieStatus) (s : State) : Out :=
  match (s.group p).hold with
  | none => .next s
  | some h =>
    match h.atomicOut with
    | none => .next s
    | some u =>
      if s.mustYield p h then .next s
      else
        .next (s.asHeld p h fun s =>
          match atomOf h.instr, atomTy s.sl.gm (((atomOf h.instr).map (·.1)).getD .add) with
          | some (op, _, _), some t =>
            if st = .success then
              let r := s.atomUnit p s.sl.pc .s op t u
              r.1.nextSeq h (.data r.2)
            else s.refuseLane h u op t (pcieCode st)
          | _, _ => s)

/-- A transfer operation has host requests outstanding on a port (R404): reads until it is drained, writes until
it has landed. -/
def State.usesPort (s : State) (port : Nat) (x : Xfer) : Bool :=
  x.moves.any fun m =>
    (!x.drained && isHostPa m.src.key && s.hostPort m.src.key = port) ||
      (x.drained && (match m.dst with
        | .mem _ l => isHostPa l.key && s.hostPort l.key = port
        | _ => false))

/-- The outstanding requests of a group on a PCI Express port fail (R404): its AtomicOp, or the closing read of
its release, which faults at the fence. -/
def State.losePcie (s : State) (port p : Nat) : State :=
  let g := s.group p
  match g.hold, g.rel with
  | some h, _ =>
    (match h.atomicOut with
      | some u => if s.hostPort u.loc.key = port then s.asHeld p h fun s => s.stopSeq h h.done (fault 0x0B) else s
      | none => s)
  | none, some r =>
    if r.ports.contains port then
      let g := { g with rel := none, relNodes := (g.relNodes ++ r.nodes).eraseDups }
      (s.setGroup p (g.setSlot r.slot r.saved)).raiseAt p r.slot (fault 0x0B)
    else s
  | none, none => s

/-- `PCIE_PORT_DOWN` (R404). -/
def execPciePortDown (port : Nat) (s : State) : Out :=
  if 2 ≤ port || s.pcieDown.look port false then .next s
  else
    let t := (s.xfers.filter fun x => s.usesPort port x).foldl (fun s x => s.failXfer x 0x0B) s
    let t := (t.groups.map (·.1)).foldl (fun s p => s.losePcie port p) t
    .next { t with pcieDown := t.pcieDown.put port true }

/-- `PCIE_PORT_UP` (R404). -/
def execPciePortUp (port : Nat) (s : State) : Out :=
  if port < 2 && s.pcieDown.look port false then .next { s with pcieDown := s.pcieDown.put port false } else .next s

/-! Evictions (R147, R231). -/

/-- `L1_EVICTION` (R231) of words of a line, all of them or some: the dirty ones go to their L2 home, and the words leave. Which words an eviction
carries is not promised (R229), and R318 has each word of a line end by itself (log entry 15). -/
def execL1Eviction (core : Nat) (words : Nat × Word) (s : State) : Out :=
  if (lineWords (s.l1.look core []) words.1).isEmpty then .next s else .next (s.evictWords core words.1 words.2)

/-- `L2_WRITE_BACK` (R231, R147). -/
def execL2WriteBack (line : Nat) (s : State) : Out :=
  if (s.l2line.look line {}).dirty = 0 then .next s else .next (s.writeBack line)

/-- `L2_EVICTION` (R147): the line's copy is gone, and with it its admission. -/
def execL2Eviction (line : Nat) (s : State) : Out := .next (s.evictL2 line)

end Sys2Proof.Machine
end

