-- ==== Sys2Proof/Machine/Arrive.lean ====
section
/-! DEFINITION. Fabric messages between this package and its peers (R147, R189, R260, R271, R392, R394, R397 to R402): what arrives,
what answers it, what expires, and the messages that the work of this package forms (log entry 64). -/

namespace Sys2Proof.Machine

open Sys2Proof

/-! Receiving (R394, R398, R400). -/

/-- A message arrives: one too old is discarded, one of a reserved kind or whose tag fails is dropped, and either is counted; else it
is received (R394, R397, R398, R400). -/
def State.receive (s : State) (e : Envelope) (kind : Nat) (node : BitVec 19) (ps : List Packet) : State × Bool :=
  if !s.mayArrive e node then (s, false)
  else if lifetime < s.ageOf e then (s.expireAt e.port, false)
  else if s.tagOk e kind node ps then (s.tagPasses e.port, true)
  else (s.tagFails e.port, false)

/-- A message received, and what it then does. -/
def State.onReceipt (s : State) (e : Envelope) (kind : Nat) (node : BitVec 19) (ps : List Packet) (f : State → State) : Out :=
  let r := s.receive e kind node ps
  .next (if r.2 then f r.1 else r.1)

/-- An answer of a peer received: it is performed with what it brings (R401). -/
def State.hear (s : State) (e : Envelope) (kind : Nat) (node : BitVec 19) (ps : List Packet) : State × Bool :=
  let r := s.receive e kind node ps
  if r.2 then (r.1.noteSeq e node, true) else r

/-- An answer of a peer, and what it then does. -/
def State.onAnswer (s : State) (e : Envelope) (kind : Nat) (node : BitVec 19) (ps : List Packet) (f : State → State) : Out :=
  let r := s.hear e kind node ps
  .next (if r.2 then f r.1 else r.1)

/-! Peers' requests (R392, R399). -/

/-- The element type of a peer's atomic (R158). -/
def peerTy (c : BitVec 5) (op : AtomOp) : Option Ty := atomTy (BitVec.ofNat 32 (c.toNat * 2 ^ 23)) op

/-- The bytes of a peer's request (R397). -/
def peerBytesOf (r : PeerReq) : Nat :=
  match r.op with
  | .read n => n
  | .write d => d.length
  | .atomic op t _ _ => ((peerTy t op).map atomWidth).getD 4
  | .reserved _ => 0

/-- The kind of a peer's message (R397). -/
def peerKind : PeerOp → Nat
  | .read _ => 2
  | .write _ => 0
  | .atomic _ _ _ _ => 4
  | .reserved k => k

/-- A request that R397 lets a peer send; one of a reserved kind says nothing that any rule reads. -/
def peerReqOk (own : BitVec 19) (r : PeerReq) : Bool :=
  r.node != own && r.addr < 2 ^ 52 && (peerBytesOf r) ≤ 128 &&
    (match r.op with
      | .read _ => true
      | .write d => 0 < d.length
      | .atomic op t _ _ => (peerTy t op).isSome && r.addr % (peerBytesOf r) = 0
      | .reserved k => 11 ≤ k && k < 16)

/-- The payload of an atomic: the operand, and the compare value of CAS after it (log entry 64). -/
def atomPayload (op : AtomOp) (w : Nat) (operand compare : Nat) : List Byte :=
  bytesOf w operand ++ (if op = .cas then bytesOf w compare else [])

/-- The packet of a peer's request (R397). -/
def peerPacket (r : PeerReq) : Packet :=
  let p : Packet := { addr := r.addr, key := r.key, gkey := r.gkey }
  match r.op with
  | .write d => { p with payload := d, marks := r.marks }
  | .atomic op _ y c => { p with op := op.code.toNat, payload := atomPayload op (peerBytesOf r) y.toNat c.toNat }
  | _ => p

/-- The gateway admits a request (R392). -/
def State.admitReq (s : State) (r : PeerReq) : Bool :=
  match s.regionOf r.key with
  | none => false
  | some g =>
    g.base ≤ r.addr && r.addr + (peerBytesOf r) ≤ g.base + g.len &&
      (match r.op with
        | .read _ => g.attr.getLsbD 0
        | .write _ => g.attr.getLsbD 1
        | .atomic _ _ _ _ => g.attr.getLsbD 0 && g.attr.getLsbD 1 && g.attr.getLsbD 2
        | .reserved _ => false)

/-- A peer's request performed at its line's L2 home, with the data that answer it (R399). A poisoned target of an atomic stays
(R151). -/
def State.performReq (s : State) (r : PeerReq) : State × Option (List (Byte × Bool)) :=
  match r.op with
  | .read n => (s, some (s.devReadP r.addr n))
  | .write d => ((s.devWrite r.addr d).markPoison r.addr r.marks, none)
  | .atomic op t y c =>
    (match peerTy t op with
      | none => (s, none)
      | some ty =>
        let w := atomWidth ty
        let old := s.devReadP r.addr w
        if old.any (·.2) then (s, some old)
        else
          (s.devWrite r.addr (bytesOf w (atomNew op ty (ofBytes (old.map (·.1))) (y.toNat % 2 ^ (8 * w)) (c.toNat % 2 ^ (8 * w)))), some old))
  | .reserved _ => (s, none)

/-- The answer to a packet goes back to its gateway: data as kind 3, an acknowledgment or a refusal's class as kind 7 (R399). -/
def State.answerPacket (s : State) (e : Envelope) (node : BitVec 19) (q : Packet) (data : Option (List (Byte × Bool))) (cls : BitVec 8) : State :=
  match data with
  | some d => s.sendMsg 3 node e.sdie e.ddie [{ q with op := 0, payload := d.map (·.1), marks := d.map (·.2) }]
  | none => s.sendMsg 7 node e.sdie e.ddie [{ q with op := 0, payload := [cls], marks := [] }]

/-- One packet of a peer's message served: admitted, performed and answered, or refused (R392, R399). -/
def State.serve (s : State) (e : Envelope) (r : PeerReq) : State :=
  if s.admitReq r then
    let t := s.performReq r
    t.1.answerPacket e r.node (peerPacket r) t.2 0
  else s.answerPacket e r.node (peerPacket r) none 0x09

/-- The packets make one message (R260, R397). -/
def oneMessage (rs : List PeerReq) : Bool :=
  match rs with
  | [] => false
  | r :: q => q.length < 3 && q.all fun x => x.node = r.node && x.gkey = r.gkey && peerKind x.op = peerKind r.op

/-- `REMOTE_REQUEST_ARRIVAL` (R392, R397 to R399): the packets of one message, performed in its order. -/
def execRemoteRequestArrival (m : PeerMsg) (s : State) : Out :=
  match m.reqs with
  | [] => .next s
  | r :: _ =>
    if !(oneMessage m.reqs && m.reqs.all (peerReqOk s.node)) then .next s
    else
      s.onReceipt m.env (peerKind r.op) r.node (m.reqs.map peerPacket) fun s =>
        (m.reqs.foldl (fun s r => s.serve m.env r) s).noteSeq m.env r.node

/-! Answers of peers (R147, R399). -/

/-- The kind of an answer's message and its payload (R399). -/
def carriedBy : RemAns → Nat × List Byte
  | .data d => (3, d.map (·.1))
  | .ack => (7, [0])
  | .rkey => (7, [0x09])
  | .link => (7, [0x0B])

/-- `REMOTE_ANSWER` (R147, R399): to a unit, or to a write-back, whose refusal is an orphaned completion. -/
def execRemoteAnswer (t : AnsTo) (m : Envelope × RemAns) (s : State) : Out :=
  let e := m.1
  let a := m.2
  if a = .link then .next s
  else
    match t with
    | .unit p u =>
      (match ((s.group p).hold.bind fun h => h.units[u]?) with
        | some x =>
          (match x.loc with
            | .peer n k b =>
              if !s.awayOpt x.msg then .next s
              else s.onAnswer e (carriedBy a).1 n
                [{ addr := b, key := k, gkey := placeKey p (s.group p), payload := (carriedBy a).2 }] fun s => s.answerUnit p u a
            | _ => .next s)
        | none => .next s)
    | .wb id =>
      match s.peerWrites.find? (fun w => w.id = id) with
      | none => .next s
      | some w =>
        let q : Packet := { addr := w.addr, key := w.key, payload := (carriedBy a).2 }
        if !s.awayOpt w.msg then .next s
        else
          match a with
          | .ack => s.onAnswer e 7 w.node [q] fun s => { s with peerWrites := s.peerWrites.filter fun x => x.id != w.id }
          | .rkey => s.onAnswer e 7 w.node [q] fun s => s.orphanWrite w 0x09
          | _ => .next s

/-! Reservations (R189). -/

/-- `LZRES_REQUEST_ARRIVAL` (R189): the answer to a peer is queued at the fabric. -/
def execLzresRequestArrival (a : LzArrival) (s : State) : Out :=
  match a with
  | .peer e r =>
    if !(r.die = e.ddie && r.core < 176 && r.zone < 16) then .next s
    else
      s.onReceipt e 9 r.node [lzPacket r []] fun s =>
        let t := s.reserve r (some e.port)
        (t.1.sendMsg 10 r.node e.sdie e.ddie [lzPacket r (bytesOf 8 t.2.toNat)]).noteSeq e r.node
  | .own p id => .next (s.reserveOwn p id)

/-- `LZRES_ANSWER` (R189): the answer of this package's target, or a peer's. -/
def execLzresAnswer (p id : Nat) (a : Option (Envelope × Dword)) (s : State) : Out :=
  match (s.group p).op? id with
  | none => .next s
  | some o =>
    match o.kind, a with
    | .lzres d _ _ _ (some h), none => .next (s.endWith p o d h)
    | .lzres d desc target key none, some (e, h) =>
      let r := lzRequest s.node key desc target
      if field target.toNat 42 24 ≠ s.node.toNat && answerFits desc target h && s.awayOpt o.msg then
        s.onAnswer e 10 (BitVec.ofNat 19 (field target.toNat 42 24)) [lzPacket r (bytesOf 8 h.toNat)] fun s => s.endWith p o d h
      else .next s
    | _, _ => .next s

/-! Hoists (R284, R287, R399, R402). -/

/-- `HOIST_ARRIVAL` (R287, R399, R402): of a hoist on its way or held in the network, or of a peer's at the
gateway. -/
def execHoistArrival (h : HoistIn) (s : State) : Out :=
  match h with
  | .own id => .next (s.tryArrive id)
  | .peer e r =>
    if !(hoistReqOk s.node r && e.ddie = homeOf r.lockpa / 32) then .next s
    else s.onReceipt e 5 r.node [hoistPacket r (hoistBytes { r with seq := 0 })] fun s => s.gateHoist e r

/-- The answer that an event brings to an own hoist, received if a peer sends it: a response of kind 6, or the gateway's refusal of
kind 7 (R284, R399). -/
def State.hearHoist (s : State) (h : Hoist) (a : HoistAns) : State × Option (BitVec 8 × List PWord) :=
  match hoistAnswer h a, a with
  | some r, .own => (s, some r)
  | some r, .peer e c ws =>
    if !s.awayOpt h.msg then (s, none)
    else
      let refusal := [hoistPacket h.req [c]]
      let isRefusal := c = 0x09 && s.tagOk e 7 h.peer refusal
      let t := s.hear e (if isRefusal then 7 else 6) h.peer
        (if isRefusal then refusal else [hoistPacket h.req (hoistResponse h.req c (ws.map (·.1)))])
      (t.1, if t.2 then some r else none)
  | none, _ => (s, none)

/-- `HOIST_RESPONSE_ARRIVAL` (R194). A saved group's response is recorded in its image instead (R345). -/
def execHoistResponseArrival (id : Nat) (a : HoistAns) (s : State) : Out :=
  match s.hoist? id with
  | none => .next s
  | some h =>
    if !(h.own && (s.savedTag h.tag).isNone) then .next s
    else
      match s.hearHoist h a with
      | (s, some r) => .next (s.endHoist h r.1 r.2)
      | (s, none) => .next s

/-- `HOIST_ACKNOWLEDGMENT_ARRIVAL` (R399). -/
def execHoistAcknowledgmentArrival (a : Envelope × Nat) (s : State) : Out :=
  match s.hoist? a.2 with
  | some h =>
    if !(h.own && h.home.isNone && s.awayOpt h.msg) then .next s
    else s.onAnswer a.1 7 h.peer [hoistPacket h.req [0]] fun s => s.mapHoist a.2 fun h => { h with acked := true }
  | none => .next s

/-! Landing (R271). -/

/-- A peer's landing message has arrived whole: its slots take their credits, or its words are poisoned, and its sender is told (R271,
R398, R400). -/
def State.settleLanding (s : State) (e : Envelope) (m : LandMsg) (tag : Dword) : State :=
  match m.packets with
  | [] => s.dropMsg m.id
  | q :: _ =>
    if s.tagOk { e with tag := tag } 1 q.node (m.packets.map fun q => landPacket q q.data) then
      ((s.ackPeer (s.passMsg m) e m true).tagPasses e.port).noteSeq e q.node
    else (s.ackPeer (s.failMsg m) e m false).tagFails e.port

/-- `LANDING_TAG_CHECK` (R271): `tag` is what the tail flit of a peer's message holds; an own operation's message passes once every target has had its packet. -/
def execLandingTagCheck (msg : Nat) (tag : Dword) (s : State) : Out :=
  match s.landing.find? (fun m => m.id = msg) with
  | none => .next s
  | some m =>
    match m.env with
    | some e => .next (s.settleLanding e m tag)
    | none =>
      match s.xfer? (msg / 2) with
      | none => .next s
      | some x => if x.arrived then .next (s.ackOwn (s.passMsg m) x m) else .next s

/-! Fence markers (R401). -/

/-- The packet of a fence marker or of its acknowledgment (log entry 64). -/
def markerPacket (gkey : BitVec 24) (payload : List Byte) : Packet := { gkey := gkey, payload := payload }

/-- `FENCE_MARKER_ARRIVAL` (R401): the marker waits at the gateway until it may be acknowledged. -/
def execFenceMarkerArrival (node : BitVec 19) (gkey : BitVec 24) (e : Envelope) (s : State) : Out :=
  s.onReceipt e 8 node [markerPacket gkey []] fun s => { s with marks := s.marks ++ [{ env := e, node := node, gkey := gkey }] }

/-- An arrived message of a marker's gateway pair with a lower number, which is still to be performed. -/
def MarkIn.behind (m : MarkIn) (node : BitVec 19) (e : Envelope) : Bool :=
  node = m.node && e.sdie = m.env.sdie && e.ddie = m.env.ddie && (m.env.seq + 2 ^ 16 - e.seq) % 2 ^ 16 < 2 ^ 15

/-- A marker may be acknowledged (R401): every lower message is performed, or those that never arrived are older than the packet
lifetime and so discarded (R394). -/
def State.markReady (s : State) (m : MarkIn) : Bool :=
  (s.seqIn.look (pairOf m.node m.env.sdie m.env.ddie) {}).reached m.env.seq ||
    (lifetime < s.ageOf m.env &&
      !s.hoists.any (fun h => !h.own && h.at_ = .gateway && h.env.any (m.behind h.req.node)) &&
      !s.landing.any (fun l => l.env.any fun e => (l.packets.head?).any fun q => m.behind q.node e))

/-- A marker acknowledged. -/
def State.ackMark (s : State) (m : MarkIn) : State :=
  let pair := pairOf m.node m.env.sdie m.env.ddie
  let x := s.seqIn.look pair {}
  let x := if x.reached m.env.seq then x else { x with low := m.env.seq }
  let s := { s with seqIn := s.seqIn.put pair (x.note m.env.seq) }
  s.sendMsg 7 m.node m.env.sdie m.env.ddie [markerPacket m.gkey [0]]

/-- The markers that may be acknowledged are. -/
def State.ackMarks (s : State) : State :=
  let ready := s.marks.filter s.markReady
  if ready.isEmpty then s
  else ready.foldl (fun s m => s.ackMark m) { s with marks := s.marks.filter fun m => !s.markReady m }

/-- `FENCE_MARKER_ACK_ARRIVAL` (R401). -/
def execFenceMarkerAckArrival (n : Envelope × BitVec 19) (p : Nat) (s : State) : Out :=
  let e := n.1
  let node := n.2
  match (s.group p).rel with
  | none => .next s
  | some r =>
    if !(r.msgs.any fun m => m.1 = node && m.2.1 = e.sdie && s.away m.2.2) then .next s
    else
      s.onAnswer e 7 node [markerPacket (placeKey p (s.group p)) [0]] fun s =>
        s.setGroup p ((s.group p).mapRel fun r =>
          let left := r.msgs.filter fun m => !(m.1 = node && m.2.1 = e.sdie)
          { r with msgs := left, nodes := r.nodes.filter fun n => n != node || left.any (·.1 = node) })

/-! Expiry and timeouts (R394). -/

/-- The messages of this package that carry something. -/
def State.messagesOf (s : State) : MsgOf → List Nat
  | .xfer id => (s.xfers.filter fun x => x.id = id).flatMap (·.unanswered)
  | .unit p u => ((s.group p).hold.bind fun h => (h.units[u]?).bind (·.msg)).toList
  | .hoist id => (s.hoists.filter fun h => h.id = id).filterMap (·.msg)
  | .response _ => []
  | .reserve p id => (((s.group p).op? id).bind (·.msg)).toList
  | .wb id => (s.peerWrites.filter fun w => w.id = id).filterMap (·.msg)
  | .out n => [n]

/-- The message is older than a time in microseconds, and not yet discarded. -/
def State.olderThan (s : State) (us n : Nat) : Bool := s.outbox.any fun m => m.num = n && !m.gone && m.born + us < s.ftime

/-- `MESSAGE_EXPIRY` (R394): counted at the port of its route. Nothing answers a message that is gone; a peer's response that is gone
never comes. -/
def execMessageExpiry (m : MsgOf) (s : State) : Out :=
  match m with
  | .response id =>
    (match s.hoist? id with
      | some h =>
        if h.abroad && !h.mute && s.routeTo h.peer < 16 && lifetime < s.ftime then
          .next ((s.mapHoist id fun h => { h with mute := true }).expireAt (s.routeTo h.peer))
        else .next s
      | none => .next s)
  | m =>
    match s.outbox.find? fun x => (s.messagesOf m).contains x.num && s.olderThan lifetime x.num with
    | some x =>
      let t := s.mapOut x.num fun x => { x with gone := true, left := if x.sent then x.left else s.ftime }
      .next (if x.port < 16 then t.expireAt x.port else t)
    | none => .next s

/-- What is carried has had no acknowledgment 400 microseconds after it was sent, or discarded unsent (R394). -/
def State.unanswered (s : State) (m : MsgOf) : Bool :=
  (s.messagesOf m).any fun n => s.outbox.any fun x => x.num = n && (x.sent || x.gone) && x.left + 400 ≤ s.ftime

/-- `ACK_TIMEOUT` (R394): a lost write-back is an orphaned completion (R147). -/
def execAckTimeout (a : AckOf) (s : State) : Out :=
  match a with
  | .xfer id =>
    (match s.xfer? id with
      | some x => if s.unanswered (.xfer id) then .next (s.failXfer x 0x0B) else .next s
      | none => .next s)
  | .unit p u => if s.unanswered (.unit p u) then .next (s.answerUnit p u .link) else .next s
  | .hoist id =>
    (match s.hoist? id with
      | some h => if h.abroad && !h.acked && s.unanswered (.hoist id) then .next (s.loseHoist h) else .next s
      | none => .next s)
  | .reserve p id =>
    (match (s.group p).op? id with
      | some o => if s.unanswered (.reserve p id) then .next (s.loseLzres p o) else .next s
      | none => .next s)
  | .wb id =>
    match s.peerWrites.find? fun w => w.id = id with
    | some w => if s.unanswered (.wb id) then .next (s.orphanWrite w 0x0B) else .next s
    | none => .next s

/-! The messages that this package's work forms (R259, R260, R397). -/

/-- What some access of an instruction needs of a peer: node, key, address, bytes, and to whom it belongs. -/
structure PeerPart where
  node : BitVec 19
  key : Word
  addr : Nat
  n : Nat
  data : List Byte
  owner : Nat

/-- A parcel, and all that its packet serves. -/
abbrev Shared := List Nat × Parcel

/-- Reads: one packet for each line of a node under a key (R259). -/
def readParcels (gkey : BitVec 24) (ps : List PeerPart) : List Shared :=
  ((ps.map fun p => (p.node, p.key, p.addr / 128)).eraseDups).map fun k =>
    let mine := ps.filter fun p => p.node = k.1 && p.key = k.2.1 && p.addr / 128 = k.2.2
    let a := mine.foldl (fun a p => min a p.addr) (k.2.2 * 128 + 127)
    (mine.map (·.owner), { node := k.1, die := homeDie a, kind := 2, owner := 0, packet := { addr := a, key := k.2.1, gkey := gkey } })

/-- Writes: one packet for each run of bytes in a line; where lanes write the same bytes, the highest one's go (R149, R259). -/
def writeParcels (gkey : BitVec 24) (ps : List PeerPart) : List Shared :=
  ((ps.map fun p => (p.node, p.key, p.addr / 128)).eraseDups).flatMap fun k =>
    let mine := ps.filter fun p => p.node = k.1 && p.key = k.2.1 && p.addr / 128 = k.2.2
    (runsOf (byteTable (mine.map fun p => (p.addr, p.data)))).map fun r =>
      ((mine.filter fun p => p.addr < r.1 + r.2.length && r.1 < p.addr + p.data.length).map (·.owner),
       { node := k.1, die := homeDie r.1, kind := 0, owner := 0, packet := { addr := r.1, key := k.2.1, gkey := gkey, payload := r.2 } })

/-- Atomics: one packet each (R397). -/
def atomParcels (gkey : BitVec 24) (op : AtomOp) (ps : List PeerPart) : List Shared :=
  ps.map fun p =>
    ([p.owner], { node := p.node, die := homeDie p.addr, kind := 4, owner := 0,
                  packet := { op := op.code.toNat, addr := p.addr, key := p.key, gkey := gkey, payload := p.data } })

/-- Parcels sent in order of node and address (R260): what each serves, with the number of its message. -/
def State.sendShared (s : State) (sdie : Nat) (l : List Shared) : State × List (Nat × Nat) :=
  let l := sortBy (fun e => e.2.node.toNat * 2 ^ 52 + e.2.packet.addr) l
  let r := s.sendParcels sdie (l.zipIdx.map fun e => { e.1.2 with owner := e.2 })
  (r.1, r.2.flatMap fun e => ((l[e.1]?).map (·.1)).getD [] |>.map fun o => (o, e.2))

/-- Some of a peer's bytes are still on their way there in a write-back (R147). -/
def State.pushing (s : State) (l : Loc) (n : Nat) : Bool :=
  match l with
  | .peer m _ a => s.peerWrites.any fun w => w.node = m && w.addr < a + n && a < w.addr + w.data.length
  | _ => false

/-- A unit is asked only after those of earlier registers have answered, where an instruction goes register by register (R153). -/
def Hold.inTurn (h : Hold) (u : HoldUnit) : Bool := !h.stepwise || h.units.all fun v => v.settled || u.reg ≤ v.reg

/-- The units of a hold that are still to be asked of their peers, once what the package has sent there before is acknowledged (R150). -/
def State.unasked (s : State) (h : Hold) : List PeerPart :=
  h.units.zipIdx.filterMap fun e =>
    match e.1.loc with
    | .peer n k a =>
      if e.1.waits && e.1.answer.isNone && e.1.msg.isNone && (!h.sequenced || e.2 = h.done) && h.inTurn e.1 && !s.pushing e.1.loc e.1.bytes then
        some { node := n, key := k, addr := a, n := e.1.bytes, data := e.1.data, owner := e.2 }
      else none
    | _ => none

/-- The parcels of a hold's units: at `.s` stores and atomics go as they are, all else reads, with no bytes asked for where an
admission alone is (R147). -/
def Hold.parcels (h : Hold) (gkey : BitVec 24) (ps : List PeerPart) : List Shared :=
  let k := memScope h.instr
  if k.1 != .s then readParcels gkey ps
  else if k.2 then writeParcels gkey ps
  else
    match atomOf h.instr with
    | some (op, _, _) =>
      atomParcels gkey op (ps.map fun p =>
        { p with data := atomPayload op p.n (ofBytes p.data) (((h.units[p.owner]?).map fun u => ofBytes u.compare).getD 0) })
    | none => readParcels gkey ps

/-- A unit of an `STN` at `.s` that writes nothing: a higher lane has written the same bytes for a lower register (R149). -/
def Hold.buried (h : Hold) (u : HoldUnit) : Bool :=
  h.stepwise && u.waits && u.answer.isNone && h.inTurn u && h.units.any fun v => u.lane < v.lane && v.reg < u.reg && v.loc = u.loc

/-- The units of a hold that write nothing count as answered. -/
def State.skipBuried (s : State) (p : Nat) : State :=
  match (s.group p).hold with
  | none => s
  | some h => h.units.zipIdx.foldl (fun s e => if h.buried e.1 then s.answerUnit p e.2 .ack else s) s

/-- The slice's dirty copies of what a held instruction is still to reach at `.s` are pushed ahead of it (R150). -/
def State.pushHeld (s : State) (p : Nat) : State :=
  match (s.group p).hold with
  | none => s
  | some h => (h.units.filter fun u => u.waits && u.answer.isNone && u.msg.isNone).foldl
      (fun s u => s.pushUnit (memScope h.instr).1 u.loc u.bytes) s

/-- The messages of a held instruction are formed. -/
def State.formHold (s : State) (p : Nat) : State :=
  let s := s.skipBuried p
  match (s.group p).hold with
  | none => s
  | some h =>
    let ps := s.unasked h
    if ps.isEmpty then s
    else
      let r := s.sendShared (placeDie p) (h.parcels (placeKey p (s.group p)) ps)
      let g := r.1.group p
      let units := h.units.zipIdx.map fun e =>
        match r.2.find? fun m => m.1 = e.2 with
        | some m => { e.1 with msg := some m.2 }
        | none => e.1
      r.1.setGroup p { g with hold := some { h with units := units } }

/-- The sources of an operation that lie in peers. -/
def Xfer.sources (x : Xfer) : List PeerPart :=
  x.moves.filterMap fun m =>
    match m.src with
    | .peer n k a => some { node := n, key := k, addr := a, n := m.n, data := [], owner := x.id }
    | _ => none

/-- The packets that read an operation's sources in peers, in the order that they are sent (R259, R260). -/
def Xfer.reads (x : Xfer) : List Parcel :=
  sortBy (fun q => q.node.toNat * 2 ^ 52 + q.packet.addr) ((readParcels x.key x.sources).map (·.2))

/-- The reads of a copy instruction's sources are formed, once what the package has sent there before is acknowledged (R176). -/
def State.formReads (s : State) (inst : Nat) : State :=
  let xs := s.xfers.filter fun x => x.inst = inst && !x.drained && x.asked.isNone && !x.sources.isEmpty &&
    !x.moves.any (fun m => s.pushing m.src m.n)
  match xs with
  | [] => s
  | x :: _ =>
    let r := s.sendShared (placeDie x.place) (xs.flatMap fun y => y.reads.map fun q => ([y.id], q))
    { r.1 with xfers := r.1.xfers.map fun y =>
        if xs.any (·.id = y.id) then { y with asked := some ((r.2.filter (·.1 = y.id)).map (·.2)) } else y }

/-- The bytes that a packet of a drained operation carries, each with its poison (R425): of pieces that write the same byte, the last one's
(R149). -/
def Xfer.payload (x : Xfer) (q : XPart) : List (Byte × Bool) :=
  let t := byteTable (x.moves.filterMap fun m => (m.far x.targets).bind fun f =>
    if f.1 = q.node && f.2.1 = q.key && f.2.2 < q.addr + q.n && q.addr < f.2.2 + m.n then some (f.2.2, m.data) else none)
  (List.range q.n).map fun i => t.look (q.addr + i) (0, false)

/-- The address that a packet's header names: that of a `CPL` its first slot's (R272, R397). -/
def Xfer.partAddr (x : Xfer) (q : XPart) : Nat :=
  match x.targets with
  | t :: _ => slotAddr t.core t.zone t.slot q.addr
  | [] => q.addr

/-- A packet of a drained operation (R397). -/
def Xfer.packet (x : Xfer) (q : XPart) : Packet :=
  { addr := x.partAddr q, key := q.key, gkey := x.key, payload := (x.payload q).map (·.1), marks := (x.payload q).map (·.2) }

/-- A message of a copy instruction is formed when every operation with a packet in it has drained (R260). -/
def State.formLot (s : State) (inst lot : Nat) : State :=
  let xs := s.xfers.filter fun x => x.inst = inst && x.parts.any (·.lot = lot)
  let ps := sortBy (fun q => q.1.addr) (xs.flatMap fun x => (x.parts.filter (·.lot = lot)).map fun q => (q, x.packet q))
  match xs, ps with
  | x :: _, q :: _ =>
    if !xs.all (·.drained) || xs.any (fun x => x.told.any (·.1 = lot)) then s
    else
      let t := s.sendMsg (if x.kind = .cpl then 1 else 0) q.1.node q.1.die (placeDie x.place) (ps.map (·.2))
      { t with xfers := t.xfers.map fun y => if xs.any (·.id = y.id) then { y with told := y.told ++ [(lot, s.nextId)] } else y }
  | _, _ => s

/-- The messages that carry a drained operation's bytes are formed. -/
def State.formWrites (s : State) (id : Nat) : State :=
  match s.xfers.find? fun x => x.id = id && x.drained with
  | none => s
  | some x => ((x.parts.map (·.lot)).eraseDups.filter fun l => !x.told.any (·.1 = l)).foldl (fun s l => s.formLot x.inst l) s

/-- The request of an own hoist to a peer is formed (R283). -/
def State.formHoist (s : State) (h : Hoist) : State :=
  let t := s.sendMsg 5 h.peer (homeOf h.req.lockpa / 32) (placeDie h.place) [hoistPacket h.req (hoistBytes h.req)]
  t.mapHoist h.id fun h => { h with msg := some s.nextId }

/-- The request of a reservation in a peer is formed (R189). -/
def State.formReserve (s : State) (p : Nat) (o : Pend) : State :=
  match o.kind with
  | .lzres _ desc target key none =>
    let r := lzRequest s.node key desc target
    if o.msg.isSome || field target.toNat 42 24 = s.node.toNat then s
    else
      let t := s.sendMsg 9 (BitVec.ofNat 19 (field target.toNat 42 24)) r.die (placeDie p) [lzPacket r []]
      let g := t.group p
      t.setGroup p { g with ops := g.ops.map fun q => if q.id = o.id then { q with msg := some s.nextId } else q }
  | _ => s

/-- A write-back to a peer is formed (R147). -/
def State.formWriteBack (s : State) (w : PeerWrite) : State :=
  let t := s.sendMsg 0 w.node (homeDie w.addr) (homeDie w.addr) [{ addr := w.addr, key := w.key, payload := w.data }]
  { t with peerWrites := t.peerWrites.map fun x => if x.id = w.id then { x with msg := some s.nextId } else x }

/-- The dies of a node that the gateway of a die has sent to, or die 0. -/
def State.diesOf (s : State) (node : BitVec 19) (sdie : Nat) : List Nat :=
  match (List.range 8).filter fun d => s.seqOut.any fun e => e.1 = pairOf node d sdie with
  | [] => [0]
  | l => l

/-- The fence markers of a release are formed (R401): one to each gateway of a node. -/
def State.formMarkers (s : State) (p : Nat) : State :=
  match (s.group p).rel with
  | none => s
  | some r =>
    (r.nodes.filter fun n => !r.msgs.any (·.1 = n)).foldl (fun s n =>
      (s.diesOf n (placeDie p)).foldl (fun s d =>
        let t := s.sendMsg 8 n d (placeDie p) [markerPacket (placeKey p (s.group p)) []]
        let g := t.group p
        t.setGroup p { g with rel := g.rel.map fun r => { r with msgs := r.msgs ++ [(n, d, s.nextId)] } }) s) s

/-- The messages whose answers are awaited. -/
def State.awaited (s : State) : List Nat :=
  s.xfers.flatMap (fun x => x.asked.getD [] ++ x.told.map (·.2)) ++ s.hoists.filterMap (·.msg) ++ s.peerWrites.filterMap (·.msg) ++
    s.groups.flatMap fun e =>
      (match e.2.hold with
        | some h => h.units.filterMap (·.msg)
        | none => []) ++ e.2.ops.filterMap (·.msg) ++
      (match e.2.rel with
        | some r => r.msgs.map (·.2.2)
        | none => [])

/-- Messages that have left or are gone are kept no longer than an answer is awaited. -/
def State.trimOut (s : State) : State :=
  if s.outbox.isEmpty then s
  else
    let w := s.awaited
    { s with outbox := s.outbox.filter fun m => w.contains m.num || !(m.sent || m.gone) }

/-- The messages that the last step's work asks for are formed: write-backs first, and markers last, behind all that they follow
(R401). -/
def State.formMessages (s : State) : State :=
  let places := (s.groups.filter fun e => e.2.hold.isSome || !e.2.ops.isEmpty || e.2.rel.isSome).map (·.1)
  let s := places.foldl (fun s p => s.pushHeld p) s
  let s := (s.peerWrites.filter (·.msg.isNone)).foldl (fun s w => s.formWriteBack w) s
  let s := places.foldl (fun s p => s.formHold p) s
  let s := ((s.xfers.map (·.inst)).eraseDups).foldl (fun s i => s.formReads i) s
  let s := (s.xfers.map (·.id)).foldl (fun s i => s.formWrites i) s
  let s := (s.hoists.filter fun h => h.abroad && h.msg.isNone).foldl (fun s h => s.formHoist h) s
  let s := places.foldl (fun s p => (s.group p).ops.foldl (fun s o => s.formReserve p o) s) s
  (places.foldl (fun s p => s.formMarkers p) s).ackMarks.trimOut

end Sys2Proof.Machine
end

