-- ==== Sys2Proof/Machine/Stall.lean ====
section
/-! DEFINITION. Which slots can issue (R208): what keeps a slot's next word from issuing (R23, R39, R174, R179, R194, R262),
and the rotation in which a scheduler's slots take their turns (R124, R208). -/

namespace Sys2Proof.Machine

open Sys2Proof

/-! The next word of a slot. -/

/-- The words of a clause that a slot has still to issue begin with this one. -/
def Slot.word? (x : Slot) : Option Word := x.clause.bind fun c => c.words[c.idx]?

/-- The instruction that a word stands for at issue: a word that names none, or that breaks its row's rules, is itself an
event (R66). A register span past `v255` that the word's bits show is such a word even where active(g) is empty, for which
R146 has no span check (DESIGN CHOICE, log entry 62). -/
def instrOf (w : Word) : Instr :=
  match decode w with
  | some i => if operandBitsOk i then i else .illegalInstructionWord w
  | none => .illegalInstructionWord w

/-- The state in which a slot issues. -/
def State.focus (s : State) (p : Nat) (sl : SlotId) : State := { s with cur := p, curSlot := sl }

/-- The slot of a group has issued its word: it has moved on, or the group is held by it. -/
def issued (s t : State) (p : Nat) (sl : SlotId) : Bool :=
  let g := s.group p
  let h := t.group p
  decide (g.slot sl ≠ h.slot sl) || (g.hold.isNone && h.hold.isSome) || (g.rel.isNone && h.rel.isSome)

/-! What keeps a word from issuing. -/

/-- The instructions that may find that they do not issue yet, for a slot that is ready. -/
def mayStall (i : Instr) : Option (State → Out) :=
  match i with
  | .frcp d a => some (execFrcp d a)
  | .frsq d a => some (execFrsq d a)
  | .fsqrt d a => some (execFsqrt d a)
  | .fexp2 d a => some (execFexp2 d a)
  | .flog2 d a => some (execFlog2 d a)
  | .fsin d a => some (execFsin d a)
  | .fcos d a => some (execFcos d a)
  | .ftanh d a => some (execFtanh d a)
  | .kld d a i => some (execKld d a i)
  | .fork p o => some (execFork p o)
  | .join => some execJoin
  | .exit => some execExit
  | .sread d n => some (execSread d n)
  | .regshrink n => some (execRegshrink n)
  | .ld sc z d x o => some (execLd sc z d x o)
  | .st sc z d x o => some (execSt sc z d x o)
  | .ldn sc n d x o => some (execLdn sc n d x o)
  | .stn sc n d x o => some (execStn sc n d x o)
  | .ldp p z d x o => some (execLdp p z d x o)
  | .atom sc op x d o => some (execAtom sc op x d o)
  | .atomr sc op r x o => some (execAtomr sc op r x o)
  | .rcmark x o => some (execRcmark x o)
  | .fenceAcq sc => some (execFenceAcq sc)
  | .fenceRel sc => some (execFenceRel sc)
  | .fenceAr sc => some (execFenceAr sc)
  | .xlat d a b => some (execXlat d a b)
  | .publish a => some (execPublish a)
  | .mma sh d a b => some (execMma sh d a b)
  | .azero d => some (execAzero d)
  | .mmaq d a => some (execMmaq d a)
  | .mmaqs d a m => some (execMmaqs d a m)
  | .acommit m => some (execAcommit m)
  | .amov d a i => some (execAmov d a i)
  | .acvt d a i => some (execAcvt d a i)
  | .cpy z dx sx dv sv => some (execCpy z dx sx dv sv)
  | .cpg dx sx dv sv => some (execCpg dx sx dv sv)
  | .cpt d x b => some (execCpt d x b)
  | .cpq d a b => some (execCpq d a b)
  | .cpl z h x m a => some (execCpl z h x m a)
  | .seal d sc => some (execSeal d sc)
  | .lzopen d a => some (execLzopen d a)
  | .lzres d a b => some (execLzres d a b)
  | .lzstat d a b => some (execLzstat d a b)
  | .shipW a e x => some (execShipW a e x)
  | .shipT a e x t => some (execShipT a e x t)
  | _ => none

/-- An accumulator that an instruction of the issuing slot names keeps it from issuing (R39, R174). -/
def State.accStall (s : State) (i : Instr) : Bool :=
  match i with
  | .mma _ d _ _ => s.accBusy d.toNat
  | .azero d => s.accBusy d.toNat
  | .mmaq d _ => s.accBusy d.toNat
  | .mmaqs d _ _ => s.accBusy d.toNat
  | .amov _ a _ => s.accBusy a.toNat
  | .acvt _ a _ => s.accBusy a.toNat
  | .acommit m => s.pairBusy m.toNat
  | _ => false

/-- The instruction is a fence. -/
def isFence (i : Instr) : Bool :=
  match i with
  | .fenceAcq _ => true
  | .fenceRel _ => true
  | .fenceAr _ => true
  | _ => false

/-- The code of R434 for a word of the issuing slot that does not issue: the lowest that applies. `t` is the state that its
attempt leaves. -/
def State.stallReason (s t : State) (w : Word) : Nat :=
  let i := instrOf w
  if wordIsLong w && s.flagFull then 21
  else if s.accStall i then 22
  else if (t.txq.look (coreKey s.cur) []).contains (s.cur, s.curSlot) || (isFence i && s.memReady && !s.growLoads s.cur) then 23
  else
    match i with
    | .seal _ _ => 24
    | .shipT _ _ _ k =>
      (match s.g.active s.curSlot with
        | .ok l => if (s.g.pendingLanes k.toNat l).isEmpty then 31 else 25
        | .error _ => 31)
    | .mmaqs d _ m => if (s.tm.shadowFor m.toNat d.toNat).isNone then 26 else 31
    | _ => 31

/-- Why a ready slot does not issue: the flags of its next clause, or what its next word waits for (R208, R434). -/
def State.stalled (s : State) (p : Nat) (sl : SlotId) : Option Nat :=
  let s := s.focus p sl
  match (s.group p).slot sl |>.word? with
  | none => if issued s (s.startClause p sl) p sl || ((s.startClause p sl).group p).fault.isSome then none else some 20
  | some w =>
    match mayStall (instrOf w) with
    | none => none
    | some f =>
      match f s with
      | .next t => if issued s t p sl || (t.group p).fault.isSome then none else some (s.stallReason t w)
      | _ => none

/-- A slot can issue (R208). -/
def State.canIssue (s : State) (p : Nat) (sl : SlotId) : Bool := s.slotReady p sl && (s.stalled p sl).isNone

/-! The rotation of a scheduler (R206, R208). -/

/-- The slots of a scheduler's groups, lowest first. -/
def State.schedSlots (s : State) (k : Nat) : List (Nat × SlotId) :=
  (sortBy id ((s.groups.filter fun e => e.2.live && !isMast e.1 && schedOf e.1 = k).map (·.1))).flatMap fun p => [(p, .A), (p, .B)]

/-- The slots of a scheduler in the order of its rotation: those that have not issued first, the lowest of them first, then the others in
the order in which they last issued; a new group takes the places of the one that had its slot before. Where R208 has a slot stand
that has not issued, it does not say (DESIGN CHOICE, log entry 67). -/
def State.rotation (s : State) (k : Nat) : List (Nat × SlotId) :=
  let r := s.rot.look k []
  ((s.schedSlots k).filter fun e => !r.contains e) ++ r.filter fun e => (s.schedSlots k).contains e

/-- The limit of one clock that a word counts for (R206): 1 memory, 2 copy and ship, 3 matrix, 0 none. -/
def limitOf (w : Word) : Nat :=
  let op := field w.toNat 31 26
  if (0x2B ≤ op && op ≤ 0x33) || (match decode w with
      | some (.kld _ _ _) => true
      | _ => false) then 1
  else if 0x37 ≤ op then 2
  else if 0x34 ≤ op then 3
  else 0

/-- The last issues of a scheduler's slots, the latest first. -/
def State.issuesOf (s : State) (k : Nat) : List IssueNote := s.lastIssue.look k []

/-- The issues of a group's slots in this clock. -/
def State.issuedNow (s : State) (p : Nat) : List IssueNote :=
  (s.issuesOf (schedOf p)).filter fun n => n.place = p && n.clock = s.clock

/-- A word may be kept from issuing in the clock of the scheduler's last issue (R28, R113, R206): it is of the same group,
or counts for the same limit. -/
def State.limited (s : State) (e : Nat × SlotId) : Bool :=
  match (s.issuesOf (schedOf e.1)).head? with
  | none => false
  | some l => l.place = e.1 || (match ((s.group e.1).slot e.2).word? with
    | some w => limitOf w ≠ 0 && limitOf w = limitOf l.word
    | none => false)

/-- A word of R113, which reads or changes what both slots of a group share. -/
def sharesSlots (w : Word) : Bool :=
  match decode w with
  | some (.fork _ _) | some .join | some .exit | some .yield | some (.yieldc _ _) | some (.trap _) | some (.bar _) | some (.cbar _)
  | some (.reggrow _) | some (.regshrink _) => true
  | _ => false

/-- The next word of a slot is one of R113. -/
def State.holdsShared (s : State) (p : Nat) (sl : SlotId) : Bool := (((s.group p).slot sl).word?).any sharesSlots

/-- R113 keeps a slot's word from issuing now: slot A holds such a word as well, ready in the same clock, or one of the group has issued in
this clock. -/
def State.sharedHeld (s : State) (p : Nat) (sl : SlotId) : Bool :=
  s.holdsShared p sl &&
    ((sl = .B && s.holdsShared p .A && s.canIssue p .A) ||
      (s.issuedNow p).any fun n => sharesSlots n.word)

/-- A scheduler has given its sample of this clock, so nothing issues there any more in it (R433). -/
def State.sampledNow (s : State) (p : Nat) : Bool := s.samp.at_ = s.clock && schedOf p < s.samp.taken

/-- It is a slot's turn to issue (R124, R208): R113 does not keep it back, and no slot before it in the rotation can issue, but for one that
the limits of one clock keep back while they do not keep this one back. Once the scheduler has given its sample of a clock it issues no
more in it. Slot B before slot A of its group does not keep A back: the two
may issue as a pair, as though A had issued first (R28, R113). A mast core has no such rotation. -/
def State.turnOf (s : State) (p : Nat) (sl : SlotId) : Bool :=
  isMast p || (!s.sharedHeld p sl && !s.sampledNow p && ((s.rotation (schedOf p)).takeWhile fun e => e != (p, sl)).all fun e =>
    (s.limited e && !s.limited (p, sl)) || (sl = .A && e = (p, .B)) || !s.canIssue e.1 e.2 || s.sharedHeld e.1 e.2)

/-- A slot that has issued, as `x` stood then, takes the last place, also where its clause carried yhint or its word was a `YIELD` (R124, R208). -/
def State.rotate (s : State) (p : Nat) (sl : SlotId) (x : Slot) : State :=
  if isMast p then s
  else
    let k := schedOf p
    let old := (s.issuesOf k).filter fun n => (n.place != p || n.slot != sl) && (s.clock - n.clock).toNat < 4
    let new : IssueNote := { place := p, slot := sl, pc := x.pc, word := x.word?.getD 0, clock := s.clock }
    { s with rot := s.rot.put k ((s.rot.look k []).filter (fun e => e != (p, sl)) ++ [(p, sl)]),
             lastIssue := s.lastIssue.put k (new :: old) }

/-- A slot comes first in the rotation of its scheduler. -/
def State.putFirst (s : State) (p : Nat) (sl : SlotId) : State :=
  let k := schedOf p
  let r := s.rotation k
  { s with rot := s.rot.put k ((p, sl) :: r.filter fun e => e != (p, sl)) }

end Sys2Proof.Machine
end

