-- ==== Sys2Proof/Machine/Record.lean ====
section
/-! DEFINITION. The records of a saved group and team (R341 to R343): their words as the device writes them, and
what it reads back from them. -/

namespace Sys2Proof.Machine

open Sys2Proof

/-! Words of a record. -/

/-- One word of a record. -/
def recWord (v : Nat) (poison : Bool := false) : PWord := { val := BitVec.ofNat 32 v, poison := poison }
/-- A dword of a record. -/
def recDword (v : Nat) (poison : Bool := false) : List PWord := [recWord v poison, recWord (v / 2 ^ 32) poison]
/-- Words of zero. -/
def recZeros (n : Nat) : List PWord := List.replicate n {}
/-- Bytes as words. -/
def recBytes (n : Nat) (f : Nat → Nat) : List PWord :=
  (List.range (n / 4)).map fun i => recWord (f (4 * i) + f (4 * i + 1) * 2 ^ 8 + f (4 * i + 2) * 2 ^ 16 + f (4 * i + 3) * 2 ^ 24)

/-- A word written by physical address at `.s`, with its poison (R342). -/
def State.devPut (s : State) (a : Nat) (w : PWord) : State :=
  let s := s.devWrite a (bytesOf 4 w.val.toNat)
  if w.poison then s.poisonWord (a / 4) else s
/-- Words written by physical address, one after another. -/
def State.devPuts (s : State) (a : Nat) (ws : List PWord) : State :=
  ws.zipIdx.foldl (fun s e => s.devPut (a + 4 * e.2) e.1) s

/-- A word read by physical address at `.s`, with its poison. -/
def State.devWord (s : State) (a : Nat) : PWord :=
  let r := s.devRead a 4
  { val := BitVec.ofNat 32 (ofBytes r.1), poison := r.2 }
/-- Bytes read by physical address as a number. -/
def State.devNat (s : State) (a n : Nat) : Nat := ofBytes (s.devRead a n).1
/-- A dword read by physical address, poisoned where a word of it is. -/
def State.devPdword (s : State) (a : Nat) : PDword :=
  let lo := s.devWord a
  let hi := s.devWord (a + 4)
  { val := hi.val ++ lo.val, poison := lo.poison || hi.poison }

/-! Translation registers (R141). -/

/-- A translation register's dwords. -/
def XReg.words (x : XReg) : List PWord :=
  [oneIf x.valid * 2 ^ 63 + oneIf x.wr * 2 ^ 62 + oneIf x.rd * 2 ^ 61 + oneIf x.remote * 2 ^ 60 + oneIf x.rc * 2 ^ 59 + x.base.toNat,
   x.psize.toNat * 2 ^ 52 + x.pa.toNat, x.node.toNat * 2 ^ 33 + x.limit.toNat, x.key.toNat].flatMap fun d => recDword d x.poison

/-- A translation register read from its dwords. A view of memory still holds its frame (R144, R344). -/
def State.readX (s : State) (a : Nat) : XReg :=
  let d := (List.range 4).map fun i => s.devPdword (a + 8 * i)
  let n := fun (i : Nat) => (d.getD i {}).val.toNat
  { valid := bitOf (n 0) 63, wr := bitOf (n 0) 62, rd := bitOf (n 0) 61, remote := bitOf (n 0) 60, rc := bitOf (n 0) 59,
    base := BitVec.ofNat 57 (n 0), psize := BitVec.ofNat 2 (field (n 1) 53 52), pa := BitVec.ofNat 52 (n 1),
    node := BitVec.ofNat 19 (field (n 2) 51 33), limit := BitVec.ofNat 33 (n 2), key := BitVec.ofNat 32 (n 3),
    poison := d.any (·.poison),
    held := bitOf (n 0) 63 && field (n 0) 62 61 != 0 && field (n 1) 53 52 != 3 && 0x10000 ≤ field (n 0) 56 0 }

/-! Slots (R343). -/

/-- The code of a wait (R343). -/
def waitCode : SlotState → Nat
  | .waiting .shipW => 1
  | .waiting (.waitk _ _) => 2
  | .waiting (.cpwaitSrc _) => 3
  | .waiting (.cpwaitVis _) => 4
  | .waiting (.lzwait _ _) => 5
  | .waiting (.bar _) => 6
  | .waiting (.cbar _) => 7
  | .waiting (.reggrow _ _) => 8
  | .waiting (.yieldc _ _) => 9
  | .waiting .trap => 10
  | _ => 0

/-- The condition bits as a nibble (R343). -/
def Cond.code (c : Cond) : Nat := oneIf c.z * 8 + oneIf c.n * 4 + oneIf c.c * 2 + oneIf c.v
/-- The condition bits of a nibble. -/
def condOf (n : Nat) : Cond := { z := bitOf n 3, n := bitOf n 2, c := bitOf n 1, v := bitOf n 0 }

/-- The address that a slot is saved with: the word at which a faulting slot restarts, the word that a slot waits
at, or the next word of a slot that is LIVE (R343, R422). -/
def State.savedPc (s : State) (p : Nat) (sl : SlotId) : Addr :=
  let g := s.group p
  let x := g.slot sl
  match g.fault with
  | some f => if f.slot = sl then f.restart else s.nextWord p x
  | none => s.nextWord p x

/-- A slot's record (R343). -/
def State.slotRecord (s : State) (p : Nat) (sl : SlotId) : List PWord :=
  let x := (s.group p).slot sl
  [recWord (stateCode x.state + waitCode x.state * 2 ^ 8 + x.cc.code * 2 ^ 16), recWord x.own] ++
    recDword (s.savedPc p sl).toNat ++ [recWord x.gm.toNat x.gmPoison, recWord x.mask.toNat] ++ recZeros 10

/-- A slot read from its record, with the code of its wait. A slot that waits stands LIVE at the word that it waited
at until its wait is taken up (R346). Reserved fields of the record are ignored (DESIGN CHOICE, log entry 60). -/
def State.readSlot (s : State) (a : Nat) : Slot × Nat :=
  let h := s.devNat a 4
  let pc := BitVec.ofNat 57 (s.devNat (a + 8) 8)
  let gm := s.devWord (a + 16)
  ({ state := (match h % 256 with
       | 0 => .free
       | 2 => .parked pc
       | 3 => .exitwait
       | _ => .live),
     pc := pc, own := s.devNat (a + 4) 4, gm := gm.val, gmPoison := gm.poison, mask := (s.devWord (a + 20)).val,
     cc := condOf (field h 19 16) }, if h % 256 = 4 then field h 15 8 else 0)

/-! Groups (R342). -/

/-- The hoists of a group that are not answered (R342). -/
def State.hoistsOut (s : State) (tag : Nat) : Nat := (s.hoists.filter fun h => h.own && h.tag = tag).length

/-- The service word (R342). -/
def serviceWord : Option Service → Nat
  | none => 0
  | some v =>
    v.seq % 2 ^ 32 + (match v.state with
      | .waitingRoom => 2 ^ 62
      | .awaiting => 2 ^ 62
      | .answered _ => 2 * 2 ^ 62
      | .failed c => 3 * 2 ^ 62 + c.toNat * 2 ^ 32)

/-- The code of a token's lane (R342). -/
def TokLane.code : TokLane → Nat
  | .idle => 0
  | .pending => 1
  | .done _ => 2
  | .error _ => 3

/-- An entry of the foreign store or the pending list (R342). -/
def knowWord (e : Option (BitVec 24 × BitVec 20)) : Nat :=
  match e with
  | some (k, c) => 2 ^ 63 + k.toNat * 2 ^ 20 + c.toNat
  | none => 0

/-- The answer words of a service call, lane by lane. -/
def answerWords : Option Service → List PWord
  | some v =>
    (match v.state with
      | .answered w => (List.range 128).map fun i => w.look i {}
      | _ => recZeros 128)
  | none => recZeros 128

/-- A group's record (R342). -/
def State.groupRecord (s : State) (p : Nat) : List PWord :=
  let g := s.group p
  recDword (s.gkeyReg p) ++
  [recWord (g.gindex + g.vgran * 2 ^ 8 + oneIf g.halted * 2 ^ 16), recWord (s.hoistsOut g.tag)] ++
  recDword (serviceWord g.service) ++
  recDword (oneIf g.abit * 2 ^ 32 + g.startGen.toNat * 2 ^ 26 + g.gk.toNat) ++
  [recWord g.shipOut.toNat, recWord g.shipFail.toNat] ++ recZeros 6 ++
  s.slotRecord p .A ++ s.slotRecord p .B ++
  (List.range 16).map (fun n => g.getP n) ++
  (List.range 64).flatMap (fun n => recDword (g.getS n).val.toNat (g.getS n).poison) ++
  (List.range 8).flatMap (fun n => (g.getX n).words) ++
  recDword g.dsbase.toNat ++ recDword g.dslim.toNat ++ recDword g.spill.toNat ++
  recDword (oneIf g.sealed * 16 + g.lastBatch) ++
  (List.range 32).map (fun l => recWord (g.rng.look l 0).toNat) ++
  (List.range 16).flatMap (fun b => recDword (g.batchStatus b)) ++
  recDword (g.openBatch.nfail * 2 ^ 24 + g.openBatch.err.toNat * 2 ^ 16) ++
  (List.range 8).flatMap (fun t => recDword (((List.range 32).map fun l => (g.token t l).code * 4 ^ l).sum)) ++
  recBytes 256 (fun i => match g.token (i / 32) (i % 32) with
    | .error c => c.toNat
    | _ => 0) ++
  (List.range 32).map (fun i => recWord (g.race.vec.look i 0).toNat) ++
  (List.range 16).flatMap (fun i => recDword (knowWord g.race.foreign[i]?)) ++
  (List.range 4).flatMap (fun i => recDword (knowWord g.race.pending[i]?)) ++
  recBytes 32 (fun l => if g.shipFail.getLsbD l then (g.shipCls.look l 0).toNat else 0) ++ recZeros 22 ++
  answerWords g.service ++
  (List.range (8 * g.vgran)).flatMap fun r => (List.range 32).map fun l => g.getV r l

/-- The bytes of a group's record. -/
def groupRecordBytes (vgran : Nat) : Nat := 0xA00 + 1024 * vgran

/-- A fault class read back: a code that R14 assigns. For another the class is one of them, which the spec leaves open
(log entry 60): the device reports no other. -/
def readClass (a n : Nat) : BitVec 8 :=
  if 1 ≤ n && n ≤ 0x14 then BitVec.ofNat 8 n else BitVec.ofNat 8 (1 + (Config.freeWord a).toNat % 0x14)
/-- The class of a batch's first failure read back, 0 for none. -/
def readErr (a n : Nat) : BitVec 8 := if n = 0 then 0 else readClass a n

/-- The batch numbers that a `SEAL` of a saved group has used (R125): those up to the last number, and all of them where
a later one has been used before it (log entry 60). -/
def batchUsed (last : Nat) (words : List Nat) (b : Nat) : Bool :=
  bitOf last 4 && (b ≤ last % 16 || (words.drop (last % 16 + 1)).any fun w => field w 63 4 != 0)

/-- A saved batch from its `CPTEST` word: it is not outstanding (R181, R344). -/
def readBatch (a n : Nat) (used : Bool) : Batch :=
  { scope := field n 6 4, used := used, out := false, nfail := field n 39 24, err := readErr (a + 2) (field n 23 16) }

/-- An entry of a knowledge store, or of the writers of a team's uniform registers, read back. A key that names one of the cores 176 to 255,
which R13 has a record refused for and R339 has no cause for, is kept: it names no live group (DESIGN CHOICE, log entry 60). -/
def readKnow (n : Nat) : Option (BitVec 24 × BitVec 20) :=
  if bitOf n 63 then some (BitVec.ofNat 24 (field n 43 20), BitVec.ofNat 20 n) else none

/-- The vector registers of a record. -/
def State.readV (s : State) (a vgran : Nat) : Tab PWord :=
  (List.range (8 * vgran * 32)).map fun i => (i, s.devWord (a + 0xA00 + 4 * i))
/-- Scalar registers of a record. -/
def State.readS (s : State) (a n : Nat) : Tab PDword := (List.range n).map fun i => (i, s.devPdword (a + 0x100 + 8 * i))
/-- The predicates of a record, but for `p0`. -/
def State.readPs (s : State) (a : Nat) : Tab PWord := (List.range 15).map fun i => (i + 1, s.devWord (a + 0xC4 + 4 * i))

/-- The token of a lane read back: `SHIP.T` results that are done restore as those of a home elsewhere, so that their
acquire is at the widest scope. -/
def State.readToken (s : State) (a t l : Nat) : TokLane :=
  match s.devNat (a + 0x528 + 8 * t) 8 / 4 ^ l % 4 with
  | 0 => .idle
  | 1 => .pending
  | 2 => .done true
  | _ => .error (readClass (a + 0x568 + 32 * t + l) (s.devNat (a + 0x568 + 32 * t + l) 1))

/-- A group read from its record, but for its place, its team and its key's generation (R342, R346): the clock, the
starting generation, the A-bit and the knowledge stores are as saved (R315). Reserved fields of the record are ignored
(DESIGN CHOICE, log entry 60). -/
def State.readGroup (s : State) (a : Nat) : Group :=
  let vgran := s.devNat (a + 9) 1
  let race := s.devNat (a + 0x18) 8
  let sv := s.devNat (a + 0x10) 8
  let last := s.devNat (a + 0x418) 8
  let openB := s.devNat (a + 0x520) 8
  let bs := (List.range 16).map fun b => s.devNat (a + 0x4A0 + 8 * b) 8
  { gk := BitVec.ofNat 26 race, startGen := BitVec.ofNat 6 (field race 31 26), abit := bitOf race 32,
    gindex := s.devNat (a + 8) 1, v := s.readV a vgran, s := s.readS a 64, p := s.readPs a,
    x := (List.range 8).map fun i => (i, s.readX (a + 0x300 + 32 * i)), vgran := vgran,
    slotA := (s.readSlot (a + 0x40)).1, slotB := (s.readSlot (a + 0x80)).1,
    rng := (List.range 32).map fun l => (l, (s.devWord (a + 0x420 + 4 * l)).val),
    dsbase := s.devDword (a + 0x400), dslim := s.devDword (a + 0x408), spill := s.devDword (a + 0x410),
    openBatch := { nfail := field openB 39 24, err := readErr (a + 0x522) (field openB 23 16), used := field openB 39 16 != 0 },
    lastBatch := last % 16, sealed := bitOf last 4,
    batches := (List.range 16).map fun b => (b, readBatch (a + 0x4A0 + 8 * b) (bs.getD b 0) (batchUsed last bs b)),
    tokens := (List.range 256).map fun i => (i, s.readToken a (i / 32) (i % 32)),
    shipOut := (s.devWord (a + 0x20)).val, shipFail := (s.devWord (a + 0x24)).val,
    shipCls := (List.range 32).map fun l => (l, readClass (a + 0x788 + l) (s.devNat (a + 0x788 + l) 1)),
    halted := bitOf (s.devNat (a + 10) 1) 0,
    service := (match field sv 63 62 with
      | 2 => some { slot := .A, n := 0, seq := sv % 2 ^ 32, lanes := 0,
                    state := .answered ((List.range 128).map fun i => (i, s.devWord (a + 0x800 + 4 * i))) }
      | 3 => some { slot := .A, n := 0, seq := sv % 2 ^ 32, lanes := 0, state := .failed (BitVec.ofNat 16 (field sv 47 32)) }
      | _ => none),
    race := { live := true, vec := (List.range 32).map fun i => (i, BitVec.ofNat 26 (s.devNat (a + 0x668 + 4 * i) 4)),
              foreign := (List.range 16).filterMap fun i => readKnow (s.devNat (a + 0x6E8 + 8 * i) 8),
              pending := (List.range 4).filterMap fun i => readKnow (s.devNat (a + 0x768 + 8 * i) 8) } }

/-! Teams (R341). -/

/-- The groups of a team that have not ended, in ascending index: their places. -/
def State.liveGroupsOf (s : State) (t : Team) : List Nat :=
  sortBy (fun p => (s.group p).gindex) (t.groups.filter fun p => !t.endedGroups.contains p)

/-- The offsets of a team record's areas, and its size (R341). -/
structure TeamLayout where
  uniform : Nat
  tile : Nat
  acc : Nat
  shadow : Nat
  spad : Nat
  zone : Nat
  writer : Nat
  group : Nat
  size : Nat
  deriving DecidableEq, Repr

/-- The layout of a team's record, from its allotments and its groups' granules. -/
def teamLayout (kgran tiles accs units : Nat) (vgrans : List Nat) : TeamLayout :=
  let next := fun (a n : Nat) => roundUp (a + n) 128
  let u := 0x80
  let t := next u (64 * kgran)
  let a := next t (16384 * tiles)
  let sh := next a (4096 * accs)
  let sp := next sh (if accs = 0 then 0 else 32768)
  let z := next sp (65536 * units)
  let w := next z 256
  let g := next w 512
  { uniform := u, tile := t, acc := a, shadow := sh, spad := sp, zone := z, writer := w, group := g,
    size := next g ((vgrans.map groupRecordBytes).sum) }

/-- The arrival mask of a team barrier (R341). -/
def State.barMask (s : State) (ps : List Nat) (b : Nat) : Nat :=
  ((ps.filter fun p => (s.group p).arrived (.bar b)).map fun p => 2 ^ (s.group p).gindex).sum

/-- The teams of a cluster that have arrived at a cluster barrier: counted in the anchor's record (R341). -/
def State.cbarCount (s : State) (k : Nat) (b : Nat) : Nat :=
  let t := s.team k
  let kn := (s.ctx t.ctx).kernel
  let size := if kn.cw = 0 then 1 else kn.cw * kn.ch
  if t.index % size ≠ 0 then 0
  else (s.teams.filter fun e => e.2.live && !e.2.ended && e.2.ctx = t.ctx && e.2.index / size = t.index / size &&
    (s.liveGroupsOf e.2).all fun p => (s.group p).arrived (.cbar b)).length

/-- An area of a record padded to the next area. -/
def padTo (n : Nat) (ws : List PWord) : List PWord := ws ++ recZeros (n / 4 - ws.length)

/-- A shadow's word of the header (R341). -/
def Shadow.code (x : Shadow) : Nat := if x.held then 2 ^ 15 + x.id * 2 ^ 8 + x.acc else 0

/-- A team's record (R341). -/
def State.teamRecord (s : State) (k : Nat) : List PWord :=
  let t := s.team k
  let ps := s.liveGroupsOf t
  let n := (s.ctx t.ctx).kernel.groups
  let l := teamLayout t.kgran t.tiles t.accs t.units (ps.map fun p => (s.group p).vgran)
  let spad := (Loc.spad (k / 16) (t.sbase * 65536)).key
  padTo l.uniform (recDword t.index ++
    [recWord (ps.length + n * 2 ^ 8 + t.kgran * 2 ^ 16 + t.tiles * 2 ^ 24), recWord (t.accs + t.units * 2 ^ 8)] ++
    recDword l.size ++ (List.range 4).map (fun b => recWord (s.barMask ps b)) ++
    (List.range 2).map (fun i => recWord (s.cbarCount k (2 * i) + s.cbarCount k (2 * i + 1) * 2 ^ 16)) ++
    (List.range 4).map (fun i => recWord ((t.shadows.look (2 * i) {}).code + (t.shadows.look (2 * i + 1) {}).code * 2 ^ 16)) ++
    [l.uniform, l.tile, l.acc, l.shadow, l.spad, l.zone, l.writer, l.group].map (fun o => recWord o) ++ [recWord t.revoked]) ++
  padTo (l.tile - l.uniform) ((List.range (8 * t.kgran)).flatMap fun i =>
    let r := t.k.look i {}
    recDword r.val.toNat r.poison) ++
  padTo (l.acc - l.tile) ((List.range (4096 * t.tiles)).map fun i => t.tile.look i {}) ++
  padTo (l.shadow - l.acc) ((List.range (1024 * t.accs)).map fun i => t.acc.look i {}) ++
  padTo (l.spad - l.shadow) (if t.accs = 0 then [] else (List.range 8192).map fun i => t.shadow.look i {}) ++
  padTo (l.zone - l.spad) ((List.range (16384 * t.units)).map fun i => s.memWord (spad / 4 + i)) ++
  padTo (l.writer - l.zone) ((List.range 16).flatMap fun z => recDword (t.zoneDesc.look z 0).toNat ++ recZeros 2) ++
  padTo (l.group - l.writer) ((List.range 64).flatMap fun r => recDword (match t.kwr.look r none with
    | some (key, c) => 2 ^ 63 + key.toNat * 2 ^ 20 + c.toNat
    | none => 0)) ++
  padTo (l.size - l.group) (ps.flatMap fun p => s.groupRecord p)

/-- The bytes of a team's record. -/
def State.teamBytes (s : State) (k : Nat) : Nat :=
  let t := s.team k
  (teamLayout t.kgran t.tiles t.accs t.units ((s.liveGroupsOf t).map fun p => (s.group p).vgran)).size

/-- The addresses of the group records of a team record (R341, R342). -/
def State.groupRecords (s : State) (a : Nat) : List Nat :=
  let n := s.devNat (a + 8) 1
  ((List.range n).foldl (fun (st : List Nat × Nat) _ =>
    (st.1 ++ [st.2], st.2 + groupRecordBytes (s.devNat (st.2 + 9) 1))) ([], a + s.devNat (a + 0x5C) 4)).1

/-- A team read from its record, but for its place, its context and its groups (R341, R346). Reserved fields of the
record are ignored (DESIGN CHOICE, log entry 60). -/
def State.readTeam (s : State) (a : Nat) : Team :=
  let off := fun (i : Nat) => a + s.devNat (a + 0x40 + 4 * i) 4
  let kgran := s.devNat (a + 0x0A) 1
  let tiles := s.devNat (a + 0x0B) 1
  let accs := s.devNat (a + 0x0C) 1
  { index := s.devNat a 8, kgran := kgran, tiles := tiles, accs := accs, units := s.devNat (a + 0x0D) 1,
    k := (List.range (8 * kgran)).map fun i => (i, s.devPdword (off 0 + 8 * i)),
    tile := (List.range (4096 * tiles)).map fun i => (i, s.devWord (off 1 + 4 * i)),
    acc := (List.range (1024 * accs)).map fun i => (i, s.devWord (off 2 + 4 * i)),
    shadow := if accs = 0 then [] else (List.range 8192).map fun i => (i, s.devWord (off 3 + 4 * i)),
    shadows := (List.range 8).map fun i =>
      let c := s.devNat (a + 0x30 + 2 * i) 2
      (i, ({ held := bitOf c 15, id := field c 10 8, acc := field c 4 0, loaded := bitOf c 15 } : Shadow)),
    zoneDesc := (List.range 16).map fun z => (z, s.devDword (off 5 + 16 * z)),
    kwr := (List.range 64).map fun r => (r, readKnow (s.devNat (off 6 + 8 * r) 8)) }

end Sys2Proof.Machine
end

