-- ==== Sys2Proof/Machine/Service.lean ====
section
/-! DEFINITION. Mailboxes (R351 to R353), answers to service and fallback calls (R130, R355, R408), what a stopped
group takes at its resumption (R423), and dispositions (R422). -/

namespace Sys2Proof.Machine

open Sys2Proof

/-! Mailboxes. -/

/-- The first message of a function's mailbox, if it is the host's and of a type (R352, R353). -/
def State.message (s : State) (f type : Nat) : Option (List Dword) :=
  match (s.mail f).msgs with
  | m :: _ => if field (m.getD 0 0).toNat 63 56 = type && msgOfHost m then some m else none
  | [] => none

/-- A function does something with a host message of a type (R408, R422, R429, R443, R452). -/
def knownType (f type : Nat) : Bool :=
  [(0, 0x21), (3, 0x31), (5, 0x61), (7, 0x41), (7, 0x51), (7, 0x52), (7, 0x53), (7, 0x54), (7, 0x55)].contains (f, type)

/-! Resumption. -/

/-- A service call's answer taken by its group (R130). A failure names the call's lanes (R413), and is held while the group is stopped
(R423). -/
def State.takeService (s : State) (p : Nat) : State :=
  let g := s.group p
  match g.service with
  | none => s
  | some v =>
    match v.state with
    | .answered w =>
      let g := (lanesOf v.lanes).foldl (fun g l =>
        (List.range 4).foldl (fun g j => g.setV j l (w.look (4 * l + j) {})) g) { g with service := none }
      (s.setGroup p g).resumeSlot p v.slot
    | .failed c =>
      if s.stoppedAt p then s
      else
        let g := { g with service := none }
        (s.setGroup p (g.setSlot v.slot { g.slot v.slot with state := .live })).raiseAt p v.slot
          { fault 0x12 with num := v.n, hcode := c, lanes := v.lanes }
    | _ => s

/-- A fault of a slot that has completed while its group was stopped is taken (R423). -/
def State.takeLate (s : State) (p : Nat) (sl : SlotId) : State :=
  let g := s.group p
  match g.late.find? fun e => e.1 = sl with
  | none => s
  | some e => if s.stoppedAt p then s else (s.setGroup p { g with late := g.late.filter fun e => e.1 != sl }).raiseAt p sl e.2

/-- What a slot takes when its group is stopped no longer: a held fault, its service call's answer, its completed hoists (R423). -/
def State.resumeSlotOf (s : State) (p : Nat) (sl : SlotId) : State :=
  let s := s.takeLate p sl
  let s := if (s.group p).service.any fun v => v.slot = sl then s.takeService p else s
  s.wakeSlot p sl

/-- What a group takes when it is stopped no longer, slot A first (R423). Its slots that wait in `PARKED` or `EXITWAIT` decide at once
(R120). -/
def State.resumeGroup (s : State) (p : Nat) : State :=
  [SlotId.A, SlotId.B].foldl (fun s sl => s.resumeSlotOf p sl) (s.setGroup p (s.group p).forget)

/-! Answers of the host (R408). -/

/-- The answer words of a service call's entries, lane by lane. -/
def State.ringAnswers (s : State) (v : Service) : Tab PWord :=
  (lanesOf v.lanes).zipIdx.flatMap fun e =>
    (List.range 4).map fun j => (4 * e.1 + j, s.devWord (s.hr.place (v.first + BitVec.ofNat 32 e.2) + 0x30 + 4 * j))

/-- The group whose service call a sequence number names, while it awaits its answer. -/
def State.serviceOf (s : State) (seq : Nat) : Option (Nat × Service) :=
  s.groups.findSome? fun e =>
    match e.2.service with
    | some v => if v.seq = seq && v.state = .awaiting then some (e.1, v) else none
    | none => none

/-- A fallback entry of a held atomic is outstanding: one is written for the lane that it has come to, whose unit lies in
host memory (R405). -/
def Hold.entryOut (h : Hold) : Bool :=
  h.fall.isSome && !h.room && (match h.units[h.done]? with
    | some u => isHostPa u.loc.key
    | none => false)

/-- The held atomic whose fallback call a sequence number names, while an entry of it is outstanding. -/
def State.fallbackOf (s : State) (seq : Nat) : Option (Nat × Hold) :=
  s.groups.findSome? fun e =>
    match e.2.hold with
    | some h => if h.fall = some (BitVec.ofNat 32 seq) && h.entryOut then some (e.1, h) else none
    | none => none

/-- A service call answered (R130, R408). -/
def State.answerService (s : State) (p : Nat) (v : Service) (code : Nat) : State :=
  let st : ServiceState := if code = 0 then .answered (s.ringAnswers v) else .failed (BitVec.ofNat 16 code)
  (s.setGroup p { s.group p with service := some { v with state := st } }).takeService p

/-- The outstanding entry of a fallback call answered (R405, R408). A failure's record holds the completion status that
refused the AtomicOp (R419). -/
def State.answerFallback (s : State) (p : Nat) (h : Hold) (code : Nat) : State :=
  s.asHeld p h fun s =>
    if code = 0 then
      match h.units[h.done]? with
      | some u => s.nextSeq h (.data (s.devReadP (h.entry + 0x30) u.bytes))
      | none => s
    else s.stopSeq h h.done { fault 0x0D with hcode := h.status }

/-- `SERVICE_ANSWER` (R408, R355): an answer for a group that has ended is an orphaned completion, and one for a saved
group waits to be recorded (R345). -/
def execServiceAnswer (s : State) : Out :=
  match s.message 0 0x21 with
  | none => .next s
  | some m =>
    let seq := msgTag m
    let code := msgWord m 1 % 2 ^ 16
    match s.serviceOf seq with
    | some (p, v) => .next (((s.takeMessage 0).tellAnswer seq code).answerService p v code)
    | none =>
      match s.fallbackOf seq with
      | some (p, h) => .next ((s.takeMessage 0).answerFallback p h code)
      | none =>
        match s.saved.find? fun g => g.seq = some (BitVec.ofNat 32 seq) with
        | some g =>
          if g.image = 0 then
            let s := { (s.takeMessage 0).tellAnswer seq code with saved := s.saved.filter fun x => x.tag != g.tag }
            .next (s.orphan g.record g.key (if code = 0 then 0 else 0x12) 3 0)
          else .next s
        | none => .next (s.takeMessage 0)

/-! Calls that wait for room (R406). -/

/-- A call or a fallback entry of a group goes to the host request ring, if it waits and the ring has room. -/
def State.retryRing (s : State) (p : Nat) : State :=
  let g := s.group p
  match g.service, g.hold with
  | some v, _ => if v.state = .waitingRoom && g.live then s.sendService p v else s
  | none, some h =>
    if h.room then
      s.asHeld p h fun s =>
        match h.units[h.done]?, atomOf h.instr, atomTy s.sl.gm (((atomOf h.instr).map (·.1)).getD .add) with
        | some u, some (op, _, _), some t => s.putFallback h u op t
        | _, _, _ => s
    else s
  | none, none => s

/-- Everything that waits for room in the host request ring tries again. -/
def State.retryRings (s : State) : State := (s.groups.map (·.1)).foldl (fun s p => s.retryRing p) s

/-! Dispositions (R422). -/

/-- The group of a key (R13), or the section of a mast context (R283), that is live. -/
def State.placeOf (s : State) (key : Nat) : Option Nat :=
  (s.groups.find? fun e => e.2.live && !e.2.ended && !isMast e.1 && (placeKey e.1 e.2).toNat = key).map (·.1)

/-- The group of a key, if it awaits a disposition. -/
def State.awaiting (s : State) (key : Nat) : Option Nat :=
  (s.placeOf key).filter fun p =>
    match (s.group p).fault with
    | some f => f.wait = .disposition
    | none => false

/-- A group's slots leave the queue of its core's pool. -/
def State.leavePool (s : State) (p : Nat) : State :=
  s.setPool (coreKey p) ((s.pool (coreKey p)).filter fun e => e.1 != p)

/-- A group ended from outside (R422, R215). A service call that it has made is answered to no one. -/
def State.abortGroup (s : State) (p : Nat) : State :=
  let s := s.leavePool p
  let g := s.group p
  let s := match g.service with
    | some v =>
      let e : SavedGroup := { tag := s.nextId, key := placeKey p g, record := p, image := 0, seq := some (BitVec.ofNat 32 v.seq) }
      { s with saved := s.saved ++ [e], nextId := s.nextId + 1 }
    | none => s
  (s.setGroup p { g with slotA := {}, slotB := {}, fault := none, service := none, halted := false, stepSlot := none, stepOver := false }).endGroup p

/-- `DISPOSITION_RESUME` (R422). -/
def execDispositionResume (s : State) : Out :=
  match s.message 3 0x31 with
  | none => .next s
  | some m =>
    if bitOf (msgWord m 1) 0 then .next s
    else
      let s := s.takeMessage 3
      match s.awaiting (msgTag m) with
      | none => .next s
      | some p => .next ((s.setGroup p { s.group p with fault := none }).resumeGroup p)

/-- `DISPOSITION_END` (R422). -/
def execDispositionEnd (s : State) : Out :=
  match s.message 3 0x31 with
  | none => .next s
  | some m =>
    if !bitOf (msgWord m 1) 0 then .next s
    else
      let s := s.takeMessage 3
      match s.awaiting (msgTag m) with
      | none => .next s
      | some p => .next (s.abortGroup p)

end Sys2Proof.Machine
end

