-- ==== Sys2Proof/Machine/Image.lean ====
section
/-! DEFINITION. Kernel objects (R76), checkpoint images and the checks of a launch (R338, R339), contexts, and
completion records (R340). -/

namespace Sys2Proof.Machine

open Sys2Proof

/-! Physical memory that the front end reads and writes (R227, R332). -/

/-- The bytes can be read: they are in the map, reached by a port if they are the host's, and not poisoned. -/
def State.readable (s : State) (a n : Nat) : Bool :=
  s.physOk a n && (s.hostUp || !isHostPa a) && !(s.devRead a n).2

/-- Every byte of a range reads 0. -/
def State.zeroBytes (s : State) (a n : Nat) : Bool := (s.devRead a n).1.all (· == 0)

/-! Kernel objects (R76). -/

/-- A kernel object is valid (R76, R74). -/
def State.objectOk (s : State) (o : Nat) : Bool :=
  let w := fun (off : Nat) => s.devNat (o + off) 4
  let b := fun (off : Nat) => s.devNat (o + off) 1
  s.readable o 80 && w 0 = 0x30384B53 && s.devNat (o + 4) 2 = 1 && s.devNat (o + 6) 2 = 80 && s.zeroBytes (o + 0x44) 12 &&
    [0x08, 0x10, 0x18, 0x20, 0x28, 0x30].all (fun i => w i % 8 = 0) && w 0x08 % 128 = 0 &&
    w 0x0C ≠ 0 && w 0x0C % 4 = 0 && w 0x14 = (w 0x0C / 4 + 7) / 8 && w 0x38 % 4 = 0 && w 0x38 < w 0x0C &&
    s.readable (o + w 0x10) (w 0x14) && bitOf (s.devNat (o + w 0x10 + w 0x38 / 32) 1) (w 0x38 / 4 % 8) &&
    1 ≤ b 0x3C && b 0x3C ≤ 32 && 1 ≤ b 0x3D && b 0x3D ≤ 32 && b 0x3E ≤ 8 && b 0x3F ≤ 16 && b 0x40 ≤ 32 && b 0x41 ≤ 11 &&
    b 0x42 ≤ 2 && b 0x43 ≤ 3

/-! Images (R338). -/

/-- A word of an image's header. -/
def State.imgWord (s : State) (a off : Nat) : Nat := s.devNat (a + off) 4
/-- A dword of an image's header. -/
def State.imgDword (s : State) (a off : Nat) : Nat := s.devNat (a + off) 8
/-- An image's state (R338). -/
def State.imgState (s : State) (a : Nat) : Nat := s.imgWord a 0x5C
/-- An image's kernel object (R338). -/
def State.imgObject (s : State) (a : Nat) : Nat := s.imgDword a 0x08

/-- The teams of a grid (R200). -/
def Kernel.total (k : Kernel) : Nat := k.gridx * k.gridy * k.gridz
/-- The teams of a cluster (R200). -/
def Kernel.clusterSize (k : Kernel) : Nat := if k.cw = 0 then 1 else k.cw * k.ch

/-- The kernel of an image and its object, as they stand (R76, R205, R338). -/
def State.imgKernel (s : State) (a : Nat) : Kernel :=
  let o := s.imgObject a
  let b := fun (off : Nat) => s.devNat (o + off) 1
  { kid := (s.devWord (a + 0x38)).val, seed := (s.devWord (a + 0x30)).val, gridx := s.imgWord a 0x20, gridy := s.imgWord a 0x24,
    gridz := s.imgWord a 0x28, cw := s.devNat (a + 0x2C) 1, ch := s.devNat (a + 0x2D) 1, race := b 0x42, splice := b 0x43,
    wdog := (s.devWord (a + 0x34)).val, args := (s.devRead (a + s.imgDword a 0x40) (s.imgWord a 0x3C)).1,
    codeva := BitVec.ofNat 57 (s.imgDword a 0x10), datava := BitVec.ofNat 57 (s.imgDword a 0x18),
    codeBytes := s.devNat (o + 0x0C) 4, mapPa := o + s.devNat (o + 0x10) 4, entry := s.devNat (o + 0x38) 4,
    groups := b 0x3C, vgran := b 0x3D, kgran := b 0x3E, tiles := b 0x3F, accs := b 0x40, units := b 0x41, object := o }

/-- The header's identity is an image's (R338). -/
def State.imgMagic (s : State) (a : Nat) : Bool :=
  s.readable a 256 && s.imgWord a 0 = 0x4D494B53 && s.devNat (a + 4) 2 = 1 && s.devNat (a + 6) 2 = 256

/-- The header is valid (R338, R9). A fresh image holds nothing saved. -/
def State.headerGood (s : State) (a : Nat) : Bool :=
  let d := s.imgDword a
  s.imgMagic a && s.zeroBytes (a + 0x2E) 2 && s.zeroBytes (a + 0x64) 4 && s.zeroBytes (a + 0x78) 136 &&
    d 0x10 < 2 ^ 57 && d 0x10 % 4 = 0 && d 0x18 < 2 ^ 57 && s.imgWord a 0x3C ≤ 65472 &&
    (s.imgWord a 0x3C = 0 || s.readable (a + d 0x40) (s.imgWord a 0x3C)) && s.imgState a ≤ 2 &&
    (s.imgState a ≠ 0 || (d 0x48 = 0 && d 0x50 = 0 && s.imgWord a 0x58 = 0 && s.imgWord a 0x60 = 0)) &&
    (s.imgWord a 0x58 ≠ 0 || d 0x68 = 0)

/-- The grid is one (R205, R339). -/
def Kernel.gridOk (k : Kernel) : Bool := k.gridx ≠ 0 && k.gridy ≠ 0 && k.gridz ≠ 0 && k.total ≤ 2 ^ 32 - 1
/-- A team fits an empty core (R198, R199). -/
def Kernel.fitsCore (k : Kernel) : Bool :=
  k.groups ≤ 128 && k.groups * k.vgran ≤ 1024 && k.kgran ≤ 64 && k.units ≤ 11 && k.tiles ≤ 32 &&
    k.accs + (if k.accs = 0 then 0 else 8) ≤ 64
/-- The cluster shape is one of R200. -/
def Kernel.clusterOk (k : Kernel) : Bool :=
  if k.cw = 0 then k.ch = 0 else k.ch ≠ 0 && k.cw * k.ch ≤ 12 && k.cw ≤ 12 && k.ch ≤ 11 && k.total % (k.cw * k.ch) = 0

/-- The cause for which a launch of an image is refused, 0 for none (R339). -/
def State.launchCause (s : State) (a cap : Nat) : Nat :=
  if !s.headerGood a then 1
  else
    let k := s.imgKernel a
    if !k.gridOk then 1
    else if !s.objectOk (s.imgObject a) then 2
    else if !k.fitsCore then 3
    else if !k.clusterOk then 4
    else if s.imgState a = 2 then 5
    else if cap < s.imgDword a 0x70 then 6
    else 0

/-- Hoist responses or service answers of an image are still to be recorded: its launch waits (R339, R345). -/
def State.imgPending (s : State) (a : Nat) : Bool := s.imgMagic a && s.imgWord a 0x60 ≠ 0

/-- The team records of an image: linear index and address (R338, R341). -/
def State.imgTeams (s : State) (a : Nat) : List (Nat × Nat) :=
  ((List.range (s.imgWord a 0x58)).foldl (fun (st : List (Nat × Nat) × Nat) _ =>
    (st.1 ++ [(s.devNat st.2 8, st.2)], st.2 + s.devNat (st.2 + 0x10) 8)) ([], a + s.imgDword a 0x68)).1

/-- A header word and a header dword written. -/
def State.putImgWord (s : State) (a off v : Nat) : State := s.devWrite (a + off) (bytesOf 4 v)
/-- A header dword written. -/
def State.putImgDword (s : State) (a off v : Nat) : State := s.devWrite (a + off) (bytesOf 8 v)

/-- The header rewritten as fresh (R339). -/
def State.freshImage (s : State) (a : Nat) : State :=
  (((((s.putImgWord a 0x5C 0).putImgDword a 0x48 0).putImgDword a 0x50 0).putImgWord a 0x58 0).putImgWord a 0x60 0).putImgDword a 0x68 0

/-! Contexts. -/

/-- The live contexts, in launch order. -/
def State.liveCtxs (s : State) : List (Nat × Ctx) := sortBy (fun e => e.2.order) (s.ctxs.filter fun e => e.2.live)
/-- The contexts in progress of a queue. -/
def State.queueCtxs (s : State) (q : Nat) : List (Nat × Ctx) := s.liveCtxs.filter fun e => e.2.queue = q
/-- The limits of R335 let a queue create a context. -/
def State.ctxRoom (s : State) (q : Nat) : Bool := (s.queueCtxs q).length < 8 && s.liveCtxs.length < 256

/-- A command queue. -/
def State.queue (s : State) (q : Nat) : Queue := s.queues.look q {}
/-- The state with a queue replaced. -/
def State.setQueue (s : State) (q : Nat) (x : Queue) : State := { s with queues := s.queues.put q x }
/-- The priority of a queue's launches (R331). -/
def Queue.prio (x : Queue) : Nat := field x.ctl.toNat 58 56

/-- A context created for a launch of a queue that has passed its checks (R339). -/
def State.createCtx (s : State) (q image cap record : Nat) (value : Dword) : State :=
  let k := s.imgKernel image
  let x := s.queue q
  let c : Ctx := { live := true, kernel := k, codeva := k.codeva, queue := q, order := s.launches, image := image, cap := cap,
                   record := record, value := value, prio := x.prio, next := s.imgDword image 0x48,
                   finished := s.imgDword image 0x50, restore := s.imgTeams image, acq := x.acq }
  let s := s.putImgWord image 0x5C 2
  { (s.setQueue q { x with jobs := x.jobs + 1 }).setCtx s.launches c with launches := s.launches + 1 }

/-! Completion records (R340). -/

/-- A completion record written: the counts first, the value last. -/
def State.putRecord (s : State) (record : Nat) (value : Dword) (placed finished dropped status cause : Nat) : State :=
  if record = 0 then s
  else
    let body := bytesOf 8 placed ++ bytesOf 8 finished ++ bytesOf 8 dropped ++ bytesOf 4 status ++ bytesOf 4 cause ++
      List.replicate 24 (0 : Byte)
    (s.devWrite (record + 8) body).devWrite record (bytesOf 8 value.toNat)

/-- The dirty words of the cores that a context has used are pushed, with every dirty word of host and peer lines:
its stores are visible at `.s` (R218, R258). -/
def State.pushCtx (s : State) (c : Nat) : State :=
  ((s.ctx c).cores.foldl (fun s core => (s.l1Words core (·.dirty)).foldl (fun s w => s.pushWord core w .home) s) s).pushFar

/-- The group records of a context's saved teams that are not placed again. -/
def State.savedRecords (s : State) (c : Nat) : List Nat := (s.ctx c).restore.flatMap fun e => s.groupRecords e.2

/-- The frames that the views of a saved group hold let go (R144). -/
def State.releaseSaved (s : State) (a : Nat) : State :=
  (List.range 8).foldl (fun s n =>
    let x := s.readX (a + 0x300 + 32 * n)
    if x.held then s.dropHold (viewFrame s.node x) else s) s

/-- The saved groups of a context go with its image (R144, R345): their frames are let go, and what is still to be
answered names groups that are over. -/
def State.dropSaved (s : State) (c : Nat) : State :=
  let image := (s.ctx c).image
  let s := (s.savedRecords c).foldl (fun s a => s.releaseSaved a) s
  { s with saved := s.saved.filterMap fun g =>
      if g.image != image then some g
      else if g.seq.isNone then none
      else some { g with image := 0, record := keyPlace g.key.toNat } }

/-- A context is over: its completion record is written, and a fused one's two, the producer's first (R340, R348,
R373). The image of one that is not saved is fresh again (R339). -/
def State.finishCtx (s : State) (c : Nat) (status : Nat) : State :=
  let x := s.ctx c
  let dropped := x.kernel.total - x.next
  let s := if status = 3 then s
    else (if x.fused then (s.freshImage x.image).freshImage x.image2 else (s.dropSaved c).freshImage x.image)
  let s := s.putRecord x.record x.value x.next x.finished dropped status 0
  let s := if x.fused then s.putRecord x.record2 x.value2 x.next x.finished dropped status 0 else s
  let q := s.queue x.queue
  (s.setQueue x.queue { q with jobs := q.jobs - 1 }).setCtx c { x with live := false }

end Sys2Proof.Machine
end

