-- ==== Sys2Proof/Machine/Save.lean ====
section
/-! DEFINITION. Pre-emption (R344): stopping a context, its checkpoint image, and the answers that reach saved groups
(R345). -/

namespace Sys2Proof.Machine

open Sys2Proof

/-! The size of an image (R338, R344). -/

/-- The teams of a context that have not ended, in ascending linear index (R341). -/
def State.ctxTeams (s : State) (c : Nat) : List Nat :=
  (sortBy (fun e => e.2.index) (s.teams.filter fun e => e.2.live && !e.2.ended && e.2.ctx = c)).map (·.1)

/-- The offset of an image's first team record: past the header and the arguments (R338). -/
def State.recordsOffset (s : State) (c : Nat) : Nat :=
  let x := s.ctx c
  if x.kernel.args.isEmpty then 256
  else roundUp (max 256 (s.imgDword x.image 0x40 + x.kernel.args.length)) 128

/-- The bytes of a context's image if it were saved now. -/
def State.imageSize (s : State) (c : Nat) : Nat :=
  s.recordsOffset c + ((s.ctxTeams c).map fun k => s.teamBytes k).sum +
    ((s.ctx c).restore.map fun e => s.devNat (e.2 + 0x10) 8).sum

/-- A context may be pre-empted (R344, R347): it is neither fused nor stopping, no `DESTROY` has its teams run to completion (R348), it has
resident teams, and its image fits its capacity. -/
def State.preemptable (s : State) (c : Nat) : Bool :=
  let x := s.ctx c
  x.live && !x.fused && !x.stopped && x.phase = .run && !(s.ctxTeams c).isEmpty && s.imageSize c ≤ x.cap

/-- The places of a context's groups that have not ended. -/
def State.ctxPlaces (s : State) (c : Nat) : List Nat := (s.ctxTeams c).flatMap fun k => s.liveGroupsOf (s.team k)

/-- A fault of a group that waits for F2's service is withdrawn (R344): its slot stands at the word again, and a fault that completed meanwhile
is taken (R423). -/
def State.withdrawFault (s : State) (p : Nat) : State :=
  match (s.group p).fault with
  | some f =>
    if f.wait = .service then ((s.setGroup p { s.group p with fault := none }).takeLate p .A).takeLate p .B else s
  | none => s

/-- Placing and issue stop for a context, its requests leave the register pools, and faults that wait for service are withdrawn
(R344). -/
def State.stopCtx (s : State) (c : Nat) (destroy : Bool) : State :=
  let s := (s.ctxPlaces c).foldl (fun s p => (s.leavePool p).withdrawFault p) s
  s.setCtx c { s.ctx c with phase := .stop destroy }

/-- The slots of a group that wait at `REGGROW` join the queue of its core's pool. -/
def State.joinPool (s : State) (p : Nat) : State :=
  let g := s.group p
  let c := coreKey p
  let waits := [SlotId.A, SlotId.B].filter fun sl => match (g.slot sl).state with
    | .waiting (.reggrow _ none) => true
    | _ => false
  s.setPool c (s.pool c ++ waits.map fun sl => (p, sl))

/-- A context that was stopping goes on. -/
def State.goOn (s : State) (c : Nat) : State :=
  let x := s.ctx c
  if x.phase = .run then s else (s.ctxPlaces c).foldl (fun s p => s.joinPool p) (s.setCtx c { x with phase := .run })

/-! Draining (R344). -/

/-- Everything that a group has issued is complete, but for its hold, its hoists and its service call (R344). -/
def State.groupDrained (s : State) (p : Nat) : Bool :=
  let g := s.group p
  g.ops.isEmpty && g.rel.isNone && !(s.pubs.any fun q => q.place = p && q.occ = g.tag) &&
    !(s.xfers.any fun x => x.isOf p g) && g.sealOrder.all (fun b => !g.outstanding b) && (grantOf g.slotA).isNone &&
    (grantOf g.slotB).isNone &&
    (match g.service with
      | some v => v.state != .waitingRoom
      | none => true)

/-- A hold ends at the save of its group: it waits for the host's answer to a fallback entry, or for room for one, and
the group issues its atomic again when it is restored (R405, R415; log entry 48). -/
def Hold.calls (h : Hold) : Bool := h.entryOut || h.room

/-- Nothing holds a group but a fallback call. -/
def Group.holdOver (g : Group) : Bool :=
  match g.hold with
  | some h => h.calls
  | none => true

/-- Everything that a context's groups have issued is complete, and what has ended is released. -/
def State.ctxDrained (s : State) (c : Nat) : Bool :=
  !(s.teams.any fun e => e.2.live && e.2.ended && e.2.ctx = c) &&
    (s.ctxTeams c).all fun k =>
      let t := s.team k
      t.endedGroups.isEmpty && t.mq.isEmpty && t.groups.all fun p => s.groupDrained p && (s.group p).holdOver

/-- The zones of a team revoked at its save (R344, R274). -/
def State.revokeTeam (s : State) (k : Nat) : State :=
  let s := s.dropOpening k
  (s.teamZones k).foldl (fun s n =>
    let t := s.team k
    (s.setTeam k { t with revoked := t.revoked + 2 ^ n }).revokeZone (k / 16) n) s

/-- A packet that passed the filter into a zone of a team is not yet settled (R275). -/
def State.zoneHeld (s : State) (k : Nat) : Bool :=
  s.zones.any fun e => e.1 / 16 = k / 16 && e.2.team = k && e.2.held

/-! Writing the image (R338, R341 to R344). -/

/-- The team records of an image that is written: linear index, team, words, and address. Records that were not restored
again keep their words. -/
def State.saveRecords (s : State) (c : Nat) : List (Nat × Option Nat × List PWord × Nat) :=
  let x := s.ctx c
  let old := x.restore.map fun e =>
    (e.1, (none : Option Nat), (List.range (s.devNat (e.2 + 0x10) 8 / 4)).map fun i => s.devWord (e.2 + 4 * i))
  let new := (s.ctxTeams c).map fun k => ((s.team k).index, some k, s.teamRecord k)
  ((sortBy (fun e => e.1) (new ++ old)).foldl (fun (st : List (Nat × Option Nat × List PWord × Nat) × Nat) e =>
    (st.1 ++ [(e.1, e.2.1, e.2.2, st.2)], st.2 + 4 * e.2.2.length)) ([], x.image + s.recordsOffset c)).1

/-- The groups of a saved team with the addresses of their records (R341). -/
def State.savedPlaces (s : State) (k a : Nat) : List (Nat × Nat) :=
  let t := s.team k
  let ps := s.liveGroupsOf t
  let l := teamLayout t.kgran t.tiles t.accs t.units (ps.map fun p => (s.group p).vgran)
  (ps.foldl (fun (st : List (Nat × Nat) × Nat) p =>
    (st.1 ++ [(p, st.2)], st.2 + groupRecordBytes (s.group p).vgran)) ([], a + l.group)).1

/-- A service call of a saved group that is still awaiting. -/
def Group.callOut (g : Group) : Option Service := g.service.filter fun v => v.state = .awaiting

/-- What is kept of a saved group whose hoists or service call are unanswered (R345). -/
def State.savedEntry (s : State) (image p a : Nat) : List SavedGroup :=
  let g := s.group p
  if s.hoistsOut g.tag = 0 && g.callOut.isNone then []
  else
    [{ tag := g.tag, key := placeKey p g, record := a, image := image, seq := g.callOut.map fun v => BitVec.ofNat 32 v.seq,
       lanes := (g.callOut.map (·.lanes)).getD 0, first := (g.callOut.map (·.first)).getD 0 }]

/-- The answers that a group's image still waits for (R344). -/
def State.answersDue (s : State) (p : Nat) : Nat :=
  let g := s.group p
  s.hoistsOut g.tag + oneIf g.callOut.isSome

/-- The answers that the saved groups of an image that are not placed again still wait for (R344). -/
def State.savedDue (s : State) (image : Nat) : Nat :=
  ((s.saved.filter fun g => g.image = image).map fun g => s.hoistsOut g.tag + oneIf g.seq.isSome).sum

/-- A group slot is free again: its generation and clock stay with it (R304), and until its next group its directory entry keeps the last
one's program counter (R305). -/
def State.freeSlot (s : State) (p : Nat) : State :=
  let s := s.leavePool p
  { s with txq := s.txq.put (coreKey p) ((s.txq.look (coreKey p) []).filter fun e => e.1 != p) }.setGroup p
    { gk := (s.group p).gk, ctx := (s.group p).ctx, race := { wpc := (s.group p).race.wpc } }

/-- The debug function F7 told that a halted group is saved: its key and the address of the image (R349). -/
def State.tellSaved (s : State) (image p : Nat) : State :=
  let g := s.group p
  if g.halted then s.post .saved 7 1 ((placeKey p g).setWidth 32) (BitVec.ofNat 64 image) else s

/-- The image of a drained context written, and its resources released (R344). The context's next restore begins with
these records, or its completion record says that it was destroyed and saved (R348). -/
def State.saveCtx (s : State) (c : Nat) (destroy : Bool) : State :=
  let s := ((s.ctxTeams c).flatMap fun k => (s.team k).groups).foldl (fun s p => s.noteRelease p) s
  let x := s.ctx c
  let rs := s.saveRecords c
  let ps : List (Nat × Nat) := rs.flatMap fun e => match e.2.1 with
    | some k => s.savedPlaces k e.2.2.2
    | none => []
  let size := (rs.map fun e => 4 * e.2.2.1.length).sum + s.recordsOffset c
  let t := rs.foldl (fun t e => t.devPuts e.2.2.2 e.2.2.1) s
  let t := (((t.putImgDword x.image 0x48 x.next).putImgDword x.image 0x50 x.finished).putImgWord x.image 0x58 rs.length).putImgWord
    x.image 0x60 ((ps.map fun e => s.answersDue e.1).sum + s.savedDue x.image)
  let t := (t.putImgDword x.image 0x68 (if rs.isEmpty then 0 else s.recordsOffset c)).putImgDword x.image 0x70 size
  let t := t.putImgWord x.image 0x5C 1
  let es := ps.flatMap fun e => s.savedEntry x.image e.1 e.2
  let t := { t with saved := t.saved ++ es }
  let t := ps.foldl (fun t e => t.tellSaved x.image e.1) t
  let t := ps.foldl (fun t e => t.freeSlot e.1) t
  let t := (s.ctxTeams c).foldl (fun t k => t.setTeam k {}) t
  let left : List (Nat × Nat) := rs.map fun e => (e.1, e.2.2.2)
  let t := t.setCtx c { x with phase := .run, restore := left }
  if destroy then t.finishCtx c 3 else t

/-- `CHECKPOINT_IMAGE_WRITE` (R344): once a stopping context is drained, its zones are revoked and its stores pushed; once
late landings and write-backs are settled, its image is written. A team that has ended in the meantime is not saved:
with none left a destroyed context has saved nothing (R348). Once the package has stopped, nothing is saved (R427). -/
def execCheckpointImageWrite (c : Nat) (s : State) : Out :=
  let x := s.ctx c
  match x.phase with
  | .run => .next s
  | .stop destroy =>
    if !x.live || !s.ctxDrained c || s.stopped then .next s
    else
      let s := ((s.ctxTeams c).foldl (fun s k => s.revokeTeam k) s).pushCtx c
      if (s.ctxTeams c).any (fun k => s.zoneHeld k) || !s.peerWrites.isEmpty then .next s
      else if (s.ctxTeams c).isEmpty && x.restore.isEmpty then
        .next (if destroy || x.stopped || x.next = x.kernel.total then s.finishCtx c x.status else s.goOn c)
      else .next (s.saveCtx c destroy)

/-! Answers for saved groups (R345). -/

/-- An answer that an image waited for is recorded: `pending` falls by 1. -/
def State.lowerPending (s : State) (image : Nat) : State := s.putImgWord image 0x60 (s.imgWord image 0x60 - 1)

/-- A hoist's answer written into the record of its saved group (R345, R194). -/
def State.recordHoist (s : State) (g : SavedGroup) (h : Hoist) (cls : BitVec 8) (results : List PWord) : State :=
  let r := g.record
  let l := h.req.lane
  let vgran := s.devNat (r + 9) 1
  let s := if cls != 0 then s
    else results.zipIdx.foldl (fun s e =>
      if h.reg + e.2 < 8 * vgran then s.devPut (r + 0xA00 + 128 * (h.reg + e.2) + 4 * l) e.1 else s) s
  let s :=
    if h.req.wait then
      let out := (s.devWord (r + 0x20)).val &&& ~~~(BitVec.twoPow 32 l)
      let s := s.devPut (r + 0x20) { val := out }
      if cls = 0 then s
      else
        let fail := (s.devWord (r + 0x24)).val ||| BitVec.twoPow 32 l
        (s.devPut (r + 0x24) { val := fail }).devWrite (r + 0x788 + l) [cls]
    else
      let t := h.req.tok.toNat
      let d := s.devNat (r + 0x528 + 8 * t) 8
      let code := if cls = 0 then 2 else 3
      let s := s.devWrite (r + 0x528 + 8 * t) (bytesOf 8 (d - field d (2 * l + 1) (2 * l) * 4 ^ l + code * 4 ^ l))
      if cls = 0 then s else s.devWrite (r + 0x568 + 32 * t + l) [cls]
  let s := s.devWrite (r + 0x0C) (bytesOf 4 (s.devNat (r + 0x0C) 4 - 1))
  (s.dropHoist h.id).lowerPending g.image

/-- A service call's answer written into the record of its saved group (R345): the answer words, or the error code. -/
def State.recordService (s : State) (g : SavedGroup) (seq : Word) (code : Nat) : State :=
  let r := g.record
  let s := if code ≠ 0 then s.devWrite (r + 0x10) (bytesOf 8 (3 * 2 ^ 62 + code * 2 ^ 32 + seq.toNat))
    else
      let v : Service := { slot := .A, n := 0, seq := seq.toNat, lanes := g.lanes, first := g.first, state := .awaiting }
      ((s.ringAnswers v).foldl (fun s e => s.devPut (r + 0x800 + 4 * e.1) e.2) s).devWrite (r + 0x10)
        (bytesOf 8 (2 * 2 ^ 62 + seq.toNat))
  ({ s with saved := s.saved.map (fun x : SavedGroup => if x.tag = g.tag then { x with seq := none } else x) }).lowerPending g.image

/-- A saved group with every answer recorded is kept no longer. -/
def State.forgetSaved (s : State) (tag : Nat) : State :=
  { s with saved := s.saved.filter fun x => x.tag != tag || x.seq.isSome || s.hoistsOut tag != 0 }

/-- `SAVED_RESPONSE_RECORD` (R345). -/
def execSavedResponseRecord (a : SavedAns) (s : State) : Out :=
  match a with
  | .hoist id ans =>
    match s.hoist? id with
    | none => .next s
    | some h =>
      match h.own, s.savedTag h.tag with
      | true, some g =>
        (match s.hearHoist h ans with
          | (s, some r) => .next ((s.recordHoist g h r.1 r.2).forgetSaved h.tag)
          | (s, none) => .next s)
      | _, _ => .next s
  | .service seq =>
    match s.message 0 0x21 with
    | none => .next s
    | some m =>
      match s.saved.find? fun g => g.seq = some (BitVec.ofNat 32 seq) && g.image != 0 with
      | some g =>
        if msgTag m = seq then
          .next ((((s.takeMessage 0).tellAnswer seq (msgWord m 1 % 2 ^ 16)).recordService g (BitVec.ofNat 32 seq) (msgWord m 1 % 2 ^ 16)).forgetSaved g.tag)
        else .next s
      | none => .next s

end Sys2Proof.Machine
end

