-- ==== Sys2Proof/Machine/Place.lean ====
section
/-! DEFINITION. The distributor (R198 to R203, R347): placing and restoring teams (R346), pre-emption for priority and
time slices, the release of group slots and scratchpads (R215, R217), and the register files (R209 to R211). -/

namespace Sys2Proof.Machine

open Sys2Proof

/-! Room on a core (R198, R229). -/

/-- What a team needs of a core. -/
structure Needs where
  groups : Nat
  granules : Nat
  kgran : Nat
  tiles : Nat
  accs : Nat
  units : Nat
  deriving DecidableEq, Repr

/-- The needs of a fresh team of a kernel. -/
def Kernel.needs (k : Kernel) : Needs :=
  { groups := k.groups, granules := k.groups * k.vgran, kgran := k.kgran, tiles := k.tiles, accs := k.accs, units := k.units }
/-- The needs of a saved team, from its record (R341). -/
def State.savedNeeds (s : State) (a : Nat) : Needs :=
  { groups := s.devNat (a + 8) 1, granules := ((s.groupRecords a).map fun r => s.devNat (r + 9) 1).sum,
    kgran := s.devNat (a + 0x0A) 1, tiles := s.devNat (a + 0x0B) 1, accs := s.devNat (a + 0x0C) 1, units := s.devNat (a + 0x0D) 1 }

/-- The accumulators with the shadows that go with them (R198). -/
def withShadows (accs : Nat) : Nat := if accs = 0 then 0 else accs + 8
/-- The teams that hold something of a core. -/
def State.coreTeams (s : State) (core : Nat) : List Team := (s.teams.filter fun e => e.2.live && e.1 / 16 = core).map (·.2)
/-- A place for a team on a core. -/
def State.freeTeam (s : State) (core : Nat) : Option Nat :=
  ((List.range 16).map fun i => core * 16 + i).find? fun k => !(s.team k).live
/-- The free group slots of a core, as places. -/
def State.freeSlots (s : State) (core : Nat) : List Nat :=
  ((List.range 128).map fun i => core * 128 + i).filter fun p => !(s.group p).live
/-- What a core's teams that have not ended hold of a resource (R217). -/
def State.heldOf (s : State) (core : Nat) (f : Team → Nat) : Nat := (((s.coreTeams core).filter fun t => !t.ended).map f).sum
/-- The first of `n` neighbouring units of a core's array that no team holds, if at least one unit is left for the L1. -/
def State.freeUnits (s : State) (core n : Nat) : Option Nat :=
  let ts := s.coreTeams core
  if (ts.map (·.units)).sum + n > 11 then none
  else (List.range (13 - n)).find? fun b => ts.all fun t => t.units = 0 || n = 0 || b + n ≤ t.sbase || t.sbase + t.units ≤ b

/-- The core's mesh row is gated (R449). -/
def State.gated (s : State) (core : Nat) : Bool := ((s.power.look (core / 256) {}).ctl).getLsbD (16 + core % 256 / 16)

/-- A core has everything free that a team needs (R199, R212). -/
def State.coreFits (s : State) (core : Nat) (n : Needs) : Bool :=
  core < 2048 && core % 256 < 176 && !s.gated core && (s.pool core).isEmpty && (s.freeTeam core).isSome &&
    n.groups ≤ (s.freeSlots core).length && n.granules ≤ s.freeGranules core && s.heldOf core (·.kgran) + n.kgran ≤ 64 &&
    s.heldOf core (·.tiles) + n.tiles ≤ 32 && s.heldOf core (fun t => withShadows t.accs) + withShadows n.accs ≤ 64 &&
    (s.freeUnits core n.units).isSome

/-! The next team or cluster of a context (R202, R346). -/

/-- The teams to be placed next: linear index, and the record of a saved one. -/
def Ctx.nextTeams (c : Ctx) : List (Nat × Option Nat) :=
  let n := c.kernel.clusterSize
  match c.restore with
  | e :: r => ((e :: r).filter fun x => x.1 / n = e.1 / n).map fun x => (x.1, some x.2)
  | [] => (List.range n).map fun i => (c.next + i, none)

/-- A context has teams to place, saved ones or ones that were never placed, and its queue was not destroyed (R348). -/
def Ctx.unplaced (c : Ctx) : Bool := !c.stopped && (!c.restore.isEmpty || c.next < c.kernel.total)

/-- The context that the distributor serves: highest priority first, then the earliest launch (R347). One whose image
still waits for answers is not served (R345). -/
def State.headCtx (s : State) : Option (Nat × Ctx) :=
  let cs := s.liveCtxs.filter fun e => e.2.phase = .run && e.2.unplaced && (e.2.restore.isEmpty || !s.imgPending e.2.image)
  cs.foldl (fun b e => match b with
    | none => some e
    | some x => if x.2.prio < e.2.prio then some e else some x) none

/-- The core of a team's place in its cluster, for a rectangle whose first core is given (R201). -/
def clusterCore (k : Kernel) (anchor index : Nat) : Nat :=
  if k.cw = 0 then anchor else anchor + 16 * (index % k.clusterSize / k.cw) + index % k.cw

/-- The rectangle of a cluster lies within one die's mesh (R201). -/
def rectOk (k : Kernel) (anchor : Nat) : Bool :=
  k.cw = 0 || (anchor % 256 % 16 + k.cw ≤ 16 && anchor % 256 / 16 + k.ch ≤ 11)

/-- The needs of a team to be placed. -/
def State.teamNeeds (s : State) (k : Kernel) (r : Option Nat) : Needs := (r.map s.savedNeeds).getD k.needs

/-- The next team or cluster of a context fits at a core (R199, R201). -/
def State.fitsAt (s : State) (c : Ctx) (anchor : Nat) : Bool :=
  rectOk c.kernel anchor &&
    c.nextTeams.all fun e => s.coreFits (clusterCore c.kernel anchor e.1) (s.teamNeeds c.kernel e.2)

/-- The next team or cluster fits somewhere. -/
def State.fitsSomewhere (s : State) (c : Ctx) : Bool :=
  (List.range 8).any fun d => (List.range 176).any fun i => s.fitsAt c (d * 256 + i)

/-! Placing (R199, R203, R226, R304). -/

/-- A run of the flat key space reads zero, without poison. -/
def State.zeroRun (s : State) (a n : Nat) : State :=
  { s with mem := s.mem.filter fun e => !(a ≤ e.1 && e.1 < a + n),
           mpoison := s.mpoison.dropIf fun w => a / 4 ≤ w && w < (a + n) / 4 }

/-- The next generation of a slot for its next group (R304). -/
def nextGen (gk : BitVec 26) : BitVec 26 := gk + BitVec.ofNat 26 (2 ^ 20)

/-- A generation that wraps makes keys ambiguous (R313). -/
def State.noteGen (s : State) (gk : BitVec 26) : State :=
  if (nextGen gk).toNat < gk.toNat then { s with rlog := { s.rlog with ctl := s.rlog.ctl ||| BitVec.twoPow 64 62 } } else s

/-- A fresh group of a team at a free place (R34, R35, R52, R112, R203). -/
def State.startGroup (s : State) (c tk p i : Nat) : State :=
  let x := s.ctx c
  let k := x.kernel
  let old := (s.group p).gk
  let gk := nextGen old
  let seed := k.seed ^^^ BitVec.ofNat 32 (32 * (s.team tk).index + i)
  let slot : Slot := { state := .live, pc := x.codeva + BitVec.ofNat 57 k.entry, mask := BitVec.allOnes 32 }
  let g : Group := { live := true, tag := s.nextId, gk := gk, startGen := BitVec.ofNat 6 (gk.toNat / 2 ^ 20), team := tk,
                     gindex := i, ctx := c, vgran := k.vgran, slotA := slot, rng := seedStates seed, race := { live := true } }
  let s := { s.noteGen old with nextId := s.nextId + 1 }.setGroup p g
  let s := if x.acq then s.acquire p .s else s
  s.traceAt p .A 2 0 (slot.mask ++ k.kid : BitVec 64).toNat

/-- A team's fixed resources taken at a core (R198, R214); its units leave the L1 (R229). -/
def State.seatTeam (s : State) (c core index : Nat) (t : Team) : State :=
  let x := s.ctx c
  let k := x.kernel
  let tk := (s.freeTeam core).getD 0
  let pos := index % k.clusterSize
  let col := if k.cw = 0 then 0 else pos % k.cw
  let row := if k.cw = 0 then 0 else pos / k.cw
  let b := (s.freeUnits core t.units).getD 0
  let t := { t with live := true, tag := s.nextId, ctx := c, index := index, sbase := b, col := col, row := row,
                    anchor := core - 16 * row - col, prio := x.prio }
  let s := if t.units = 0 then s else s.shrinkL1 core
  let s := { s with nextId := s.nextId + 1 }.zeroRun (2 ^ 52 + core * 2 ^ 20 + b * 65536) (t.units * 65536)
  let cores := if x.cores.contains core then x.cores else x.cores ++ [core]
  (s.setTeam tk t).setCtx c { x with cores := cores }

/-- A fresh team placed on a core. -/
def State.placeTeam (s : State) (c core index : Nat) : State :=
  let k := (s.ctx c).kernel
  let tk := (s.freeTeam core).getD 0
  let ps := (s.freeSlots core).take k.groups
  let s := s.seatTeam c core index { groups := ps, kgran := k.kgran, tiles := k.tiles, accs := k.accs, units := k.units }
  ps.zipIdx.foldl (fun s e => s.startGroup c tk e.1 e.2) s

/-! Restoring (R346). -/

/-- The debug function F7 told that a halted group is restored, with its new key (R349). -/
def State.tellRestored (s : State) (p : Nat) : State :=
  let g := s.group p
  if g.halted then s.post .restored 7 1 ((placeKey p g).setWidth 32) 0 else s

/-- A group of a saved team at a free place: a new key, its clock and stores as saved (R315), and an acquire at `.s`
(R258). -/
def State.restoreGroup (s : State) (c tk p a : Nat) : State :=
  let old := (s.group p).gk
  let g := s.readGroup a
  let gk := BitVec.ofNat 26 ((nextGen old).toNat / 2 ^ 20 * 2 ^ 20 + g.gk.toNat % 2 ^ 20)
  let s := { s.noteGen old with nextId := s.nextId + 1 }.setGroup p { g with live := true, tag := s.nextId, gk := gk, team := tk, ctx := c }
  (s.acquire p .s).tellRestored p

/-- What renames the keys of a saved group: the group slot of its old key, its starting generation and its last one, and its new key. -/
structure Renamed where
  place : Nat
  start : Nat
  gen : Nat
  key : BitVec 24
  deriving DecidableEq, Repr

/-- What renames the keys of the group saved at `a` that is placed under a key (R342). -/
def State.renamed (s : State) (a : Nat) (key : BitVec 24) : Renamed :=
  let race := s.devNat (a + 0x18) 8
  { place := keyPlace (s.devNat a 3), start := field race 31 26, gen := field race 25 20, key := key }

/-- A key was own to a saved group (R305), of the generation that it was saved with or of an earlier one. -/
def Renamed.owns (n : Renamed) (w : Nat) : Bool :=
  keyPlace w = n.place && (w % 64 + 64 - n.start) % 64 ≤ (n.gen + 64 - n.start) % 64

/-- The writers of a team's uniform registers under the new keys of its groups: a group that wrote one before the save is
its writer after it (R104, R314). -/
def renameWriters (news : List Renamed) (w : Tab (Option (BitVec 24 × BitVec 20))) :
    Tab (Option (BitVec 24 × BitVec 20)) :=
  w.map fun e => (e.1, e.2.map fun x => (((news.find? fun n => n.owns x.1.toNat).map (·.key)).getD x.1, x.2))

/-- A saved team placed on a core, with its groups. -/
def State.restoreTeam (s : State) (c core index a : Nat) : State :=
  let tk := (s.freeTeam core).getD 0
  let rs := s.groupRecords a
  let ps := (s.freeSlots core).take rs.length
  let t := s.readTeam a
  let spad := s.devNat (a + 0x50) 4
  let s := s.seatTeam c core index { t with groups := ps }
  let b := 2 ^ 52 + core * 2 ^ 20 + (s.team tk).sbase * 65536
  let s := (List.range (t.units * 16384)).foldl (fun s i => s.setMemWord (b / 4 + i) (s.devWord (a + spad + 4 * i))) s
  let s := (ps.zip rs).foldl (fun s e => s.restoreGroup c tk e.1 e.2) s
  let news := (ps.zip rs).map fun e => s.renamed e.2 (placeKey e.1 (s.group e.1))
  s.setTeam tk { s.team tk with kwr := renameWriters news (s.team tk).kwr }

/-- A scratchpad view rebuilt for the core that its target is on now (R225, R346). -/
def State.rebuildView (s : State) (p n : Nat) : State :=
  let g := s.group p
  let x := g.getX n
  if x.valid && x.psize = 3 then
    match translateVa s p x.base.toNat with
    | .ok t =>
      (match t.loc with
        | .spad core off =>
          s.setGroup p (g.setX n { x with pa := BitVec.ofNat 52 (core / 256 * 2 ^ 28 + core % 256 * 2 ^ 20 + off) })
        | _ => s)
    | .error _ => s.setGroup p (g.setX n { x with limit := 0 })
  else s

/-- The instruction at the word that a restored slot stands at. -/
def State.wordAt (s : State) (p : Nat) (pc : Addr) : Option Instr :=
  match fetchWord s p pc with
  | .ok w => decode w
  | .error _ => none

/-- The active lanes of a restored slot. -/
def Group.lanesAt (g : Group) (sl : SlotId) : Word :=
  match g.active sl with
  | .ok a => a
  | .error _ => 0

/-- The number of a saved `TRAP` whose word cannot be fetched: free, as the record does not hold it (log entry 60). -/
def State.trapNumber (s : State) (p : Nat) (pc : Addr) : BitVec 16 :=
  match s.wordAt p pc with
  | some (.trap n) => n
  | _ => (Config.freeWord s.draws).setWidth 16

/-- The team barrier that a saved group with an index has arrived at, by the team's record at `r` (R341), free where no mask names it (log entry
60). -/
def State.savedBar (s : State) (r i : Nat) : Nat :=
  ((List.range 4).find? fun b => bitOf (s.devNat (r + 0x18 + 4 * b) 4) i).getD ((Config.freeWord s.draws).toNat % 4)

/-- A saved wait taken up by its slot (R346); `r` is the team's record. Where the word cannot be fetched now, a test of a condition is left to
issue again; the waits that the group has arrived at, asked the pool for, or made a call for are taken up without it: a team barrier
from the team's record, and a cluster barrier's number or a request's granules, which no record holds, free (log entry 60). -/
def State.takeWait (s : State) (p : Nat) (sl : SlotId) (r code : Nat) : State :=
  let g := s.group p
  let x := g.slot sl
  let free := (Config.freeWord s.draws).toNat
  let drawn : State := { s with draws := s.draws + 1 }
  let wait := fun (w : Wait) => drawn.setGroup p (g.setSlot sl { x with state := .waiting w })
  let grow := fun (n : Nat) =>
    let t := wait (.reggrow n none)
    t.setPool (coreKey p) (t.pool (coreKey p) ++ [(p, sl)])
  match code, s.wordAt p x.pc with
  | 1, _ =>
    let done := x.mask &&& ~~~g.shipFail
    s.setGroup p { g.setSlot sl { x with state := .waiting .shipW } with shipDone := done, shipFar := done }
  | 2, some (.waitk k) => wait (.waitk k.toNat (g.lanesAt sl))
  | 3, some (.cpwaitSrc n) => wait (.cpwaitSrc n.toNat)
  | 4, some (.cpwaitVis n) => wait (.cpwaitVis n.toNat)
  | 5, _ => s.resumeSlot p sl
  | 6, some (.bar b) => wait (.bar b.toNat)
  | 6, _ => wait (.bar (s.savedBar r g.gindex))
  | 7, some (.cbar b) => wait (.cbar b.toNat)
  | 7, _ => wait (.cbar (free % 4))
  | 8, some (.reggrow n) => grow n.toNat
  | 8, _ => grow (1 + free % max 1 (32 - g.vgran))
  | 9, some (.yieldc b o) =>
    match s.headerOf p x.pc with
    | some h => wait (.yieldc b.toNat (h + offBytes o))
    | none => s
  | 10, _ =>
    match g.service with
    | some v =>
      { s with draws := s.draws + 1 }.setGroup p { g.setSlot sl { x with state := .waiting .trap } with
        service := some { v with slot := sl, n := s.trapNumber p x.pc, lanes := g.lanesAt sl } }
    | none => s
  | _, _ => s

/-- A restored group goes on: its views, its waits, and its trace packets (R346, R438). Its record is at `a`, and its team's at `r`. -/
def State.takeUp (s : State) (p a r : Nat) : State :=
  let s := (List.range 8).foldl (fun s n => s.rebuildView p n) s
  let x := (s.group p).slotA
  let s := s.traceAt p .A 2 1 (x.mask ++ (s.originOf (s.ctx (s.group p).ctx) x.pc).2 : BitVec 64).toNat
  let s := s.placePackets p
  let s := s.takeWait p .A r (s.readSlot (a + 0x40)).2
  let s := s.takeWait p .B r (s.readSlot (a + 0x80)).2
  (((s.takeService p).wakeShip p).wakeCopies p)

/-! The distributor (R202, R347). -/

/-- The next team or cluster of a context placed, whole (R201, R219, R346). -/
def State.placeNext (s : State) (c anchor : Nat) : State :=
  let x := s.ctx c
  let es := x.nextTeams
  let s := if x.restore.isEmpty then s else s.putImgWord x.image 0x5C 2
  let s := es.foldl (fun s e =>
    let core := clusterCore x.kernel anchor e.1
    match e.2 with
    | none => s.placeTeam c core e.1
    | some a => s.restoreTeam c core e.1 a) s
  let taken := es.filterMap (·.2)
  let ups := es.flatMap fun e => match e.2 with
    | some a =>
      let core := clusterCore x.kernel anchor e.1
      (s.teams.filter fun t => t.1 / 16 = core && t.2.live && t.2.ctx = c && t.2.index = e.1).flatMap fun t =>
        (t.2.groups.zip (s.groupRecords a)).map fun g => (g.1, g.2, a)
    | none => []
  let s := ups.foldl (fun s e => s.takeUp e.1 e.2.1 e.2.2) s
  let y := s.ctx c
  s.setCtx c { y with restore := y.restore.filter (fun e => !taken.contains e.2),
                      next := if x.restore.isEmpty then y.next + es.length else y.next }

/-- The priority of a context's resident teams (R347). -/
def State.residentPrio (s : State) (c : Nat) : Nat := (s.ctxTeams c).foldl (fun m k => max m (s.team k).prio) 0

/-- A context stops already, so that its room will come free (R347). -/
def State.someStopping (s : State) : Bool := s.liveCtxs.any fun e => e.2.phase != .run

/-- The context that is pre-empted for priority for the waiting context `w` (R347): another one, of the lowest resident priority below the waiting one's,
the latest launch among equals. -/
def State.victim (s : State) (w prio : Nat) : Option Nat :=
  let cs := (s.liveCtxs.filter fun e => e.1 != w && s.preemptable e.1 && s.residentPrio e.1 < prio).map (·.1)
  cs.foldl (fun b c => match b with
    | none => some c
    | some v => if s.residentPrio c ≤ s.residentPrio v then some c else some v) none

/-- Pre-emption for priority (R347), where the context that is served fits no core. -/
def State.preemptPrio (s : State) : State :=
  match s.headCtx with
  | none => s
  | some (c, x) =>
    if s.someStopping || s.fitsSomewhere x then s
    else
      match s.victim c x.prio with
      | some v => s.stopCtx v false
      | none => s

/-- `TEAM_PLACEMENT` (R202, R347): the context that is served places its next team or cluster at a core, if it fits
there; where it fits no core, it pre-empts a context of lower priority. -/
def execTeamPlacement (ctx die core : Nat) (s : State) : Out :=
  match s.headCtx with
  | none => .next s
  | some (c, x) =>
    if c ≠ ctx || die ≥ 8 || core ≥ 176 || s.stopped then .next s
    else if s.fitsAt x (die * 256 + core) then .next (s.placeNext c (die * 256 + core))
    else .next s.preemptPrio

/-- `TIME_SLICE_EXPIRY` (R347): a resident context gives way to one of its own priority that fits no core. -/
def execTimeSliceExpiry (ctx : Nat) (s : State) : Out :=
  match s.headCtx with
  | none => .next s
  | some (c, x) =>
    if c ≠ ctx && s.preemptable ctx && s.residentPrio ctx = x.prio && (s.victim c x.prio).isNone && !s.someStopping &&
      !s.fitsSomewhere x then .next (s.stopCtx ctx false)
    else .next s

/-! Releases (R215, R217, R218). -/

/-- Everything that an ended group left behind has finished (R215). -/
def State.groupFinished (s : State) (p : Nat) : Bool :=
  let g := s.group p
  g.live && g.ended && s.groupDrained p && g.hold.isNone && s.hoistsOut g.tag = 0 &&
    !((s.team g.team).mq.any fun o => o.place = p && o.tag = g.tag)

/-- The context of a launch has nothing left to place or to release (R218). -/
def State.ctxOver (s : State) (c : Nat) : Bool :=
  let x := s.ctx c
  x.live && x.phase = .run && !x.unplaced && !(s.teams.any fun e => e.2.live && e.2.ctx = c)

/-- A context with nothing left completes once its stores are visible at `.s` (R218). -/
def State.tryFinish (s : State) (c : Nat) : State :=
  if s.ctxOver c then
    let s := s.pushCtx c
    if s.peerWrites.isEmpty then s.finishCtx c (s.ctx c).status else s
  else s

/-- `GROUP_SLOT_RELEASE` (R215, R144). -/
def execGroupSlotRelease (p : Nat) (s : State) : Out :=
  if isMast p || !s.groupFinished p then .next s
  else
    let k := (s.group p).team
    let t := s.team k
    let s := (s.releaseViews p).freeSlot p
    .next (s.setTeam k { t with groups := t.groups.filter (· != p), endedGroups := t.endedGroups.filter (· != p) })

/-- `SCRATCHPAD_RELEASE` (R217, R275, R218): the team's resources are free, and with its last team's a launch completes. It
also completes a launch whose last write-backs have been answered since. An ended team's place among the 16 of its core is free from then
on: R198 and R217 do not say when (DESIGN CHOICE, log entry 67). -/
def execScratchpadRelease (team : Nat) (s : State) : Out :=
  let t := s.team team
  if t.live && t.ended && t.groups.isEmpty && !s.zoneHeld team then .next ((s.setTeam team {}).tryFinish t.ctx)
  else if t.live then .next s
  else .next (s.liveCtxs.foldl (fun s e => s.tryFinish e.1) s)

/-! The register files (R209 to R211). -/

/-- A slot is in a long wait by itself (R210): a group that is stopped at a fault or halted (R442), or whose service call is unanswered,
issues nothing from either slot (R130, R422). -/
def Group.waitsLong (g : Group) (sl : SlotId) : Bool :=
  g.fault.isSome || g.halted || g.service.isSome || (match (g.slot sl).state with
    | .waiting _ => true
    | _ => false)

/-- A slot of a group is in a long wait, or is free (R210). -/
def Group.idleSlot (g : Group) (sl : SlotId) : Bool :=
  let other := g.waitsLong (otherSlot sl) || (g.slot (otherSlot sl)).state = .free
  match (g.slot sl).state with
  | .free => true
  | .parked _ => other
  | .exitwait => other
  | _ => g.waitsLong sl

/-- A group is evictable (R210), also one that has ended, both of whose slots are FREE, while it is resident (R215). -/
def Group.evictable (g : Group) : Bool := g.idleSlot .A && g.idleSlot .B

/-- A group outside the fast file is ready: a slot of it could issue if it were active (R208, R210). -/
def State.readyOutside (s : State) (p : Nat) : Bool :=
  let s := s.setGroup p { s.group p with file := .active }
  s.canIssue p .A || s.canIssue p .B

/-- Since when a group is evictable, or ready, as CLOCK stands (R210). -/
def State.sinceOf (s : State) (p : Nat) : Option Dword :=
  let g := s.group p
  let now := match g.file with
    | .active => g.live && g.evictable
    | .slow => g.live && !g.ended && s.readyOutside p
    | _ => false
  if now then some (g.since.getD s.clock) else none

/-- The moments of R210 brought up to date. -/
def State.stampFiles (s : State) : State :=
  (s.groups.map (·.1)).foldl (fun s p =>
    if isMast p || (s.group p).since = s.sinceOf p then s
    else s.setGroup p { s.group p with since := s.sinceOf p }) s

/-- The active set of a scheduler has a place (R206, R209). -/
def State.activeRoom (s : State) (p : Nat) : Bool :=
  ((s.coreGroups (coreKey p)).filter fun e => e.2.inFast && e.1 % 4 = p % 4).length < 8
/-- The fast file has room for a group's granules (R209). -/
def State.fastRoom (s : State) (p : Nat) : Bool := s.fastGranules (coreKey p) + (s.group p).vgran ≤ 256

/-- The group has been in its state of R210 no shorter than any of a list. -/
def longest (g : Group) (gs : List (Nat × Group)) : Bool :=
  match g.since with
  | none => false
  | some t => gs.all fun e => match e.2.since with
    | some u => t.toNat ≤ u.toNat
    | none => true

/-- The groups of the core of `p` in a state of R209. -/
def State.filed (s : State) (p : Nat) (f : FileState) : List (Nat × Group) :=
  (s.coreGroups (coreKey p)).filter fun e => e.2.file = f

/-- A group outside the fast file is the one that its scheduler moves in next: the one that has been ready longest (R210). -/
def State.nextIn (s : State) (p : Nat) : Bool :=
  longest (s.group p) ((s.filed p .slow).filter fun e => e.1 % 4 = p % 4)

/-- The active groups one of which gives up its room for the group at `q`: those of its scheduler where that has no place,
the core's where the fast file lacks granules, none where there is room once the moves out that go on are complete (R210). -/
def State.giveRoom (s : State) (q : Nat) : List (Nat × Group) :=
  let stay := s.filed q .active ++ s.filed q .movingIn
  if 8 ≤ (stay.filter fun e => e.1 % 4 = q % 4).length then (s.filed q .active).filter fun e => e.1 % 4 = q % 4
  else if 256 < (stay.map fun e => e.2.vgran).sum + (s.group q).vgran then s.filed q .active
  else []

/-- A group that has been ready for so long that it would not issue within the bound of R221 unless a group left that is
not evictable: the moves out and in take up to 256 clocks of its 4096 (DESIGN CHOICE, log entry 63). -/
def State.overdue (s : State) (q : Nat) : Bool :=
  match (s.group q).since with
  | some t => 3840 ≤ (s.clock - t).toNat
  | none => false

/-- An active group leaves the fast file for a ready one (R210): it is the one that has been evictable longest, or none is
evictable and the ready group would wait beyond its bound. -/
def State.movesOut (s : State) (p : Nat) : Bool :=
  (s.filed p .slow).any fun e =>
    let gs := s.giveRoom e.1
    s.nextIn e.1 && gs.any (fun x => x.1 = p) && (longest (s.group p) gs || (gs.all (fun x => x.2.since.isNone) && s.overdue e.1))

/-- `FILE_MOVE_START` (R210, R211): the group that has been ready longest starts to move in where there is room, and one
starts to move out where its room is wanted. R125 has a group none of whose slots can issue leave the fast file, R210 has it
stay while no other group needs its room: the model follows R210 (DESIGN CHOICE, log entry 63). -/
def execFileMoveStart (p : Nat) (s : State) : Out :=
  let g := s.group p
  if isMast p || !g.live then .next s
  else
    match g.file with
    | .slow =>
      if s.nextIn p && s.activeRoom p && s.fastRoom p then .next (s.setGroup p { g with file := .movingIn, since := none })
      else .next s
    | .active => if s.movesOut p then .next (s.setGroup p { g with file := .movingOut, since := none }) else .next s
    | _ => .next s

/-- `GROUP_MOVE_OUT_COMPLETE` (R211). -/
def execGroupMoveOutComplete (p : Nat) (s : State) : Out :=
  let g := s.group p
  if g.live && g.file = .movingOut then .next (s.setGroup p { g with file := .slow }) else .next s

/-- `GROUP_MOVE_IN_COMPLETE` (R211). -/
def execGroupMoveInComplete (p : Nat) (s : State) : Out :=
  let g := s.group p
  if g.live && g.file = .movingIn then .next (s.setGroup p { g with file := .active }) else .next s

end Sys2Proof.Machine
end

