-- ==== Sys2Proof/Machine/Regs.lean ====
section
/-! DEFINITION. The register fields of an instruction word (R63, R65): what the splice unit renumbers (R366), and what
packing depends on (R71, R454). -/

namespace Sys2Proof.Machine

open Sys2Proof

/-- The classes of R362's reason 10, in the order of their codes; a scalar-side field is uniform or scalar by its
number. -/
inductive RegClass | uniform | scalar | predicate | xreg | tile | acc | spec | vector
  deriving DecidableEq, Repr

/-- What a field may name. -/
inductive FieldKind | v | side | p | ldp | x | t | a | id
  deriving DecidableEq, Repr

/-- The bits of a field. -/
def FieldKind.bits : FieldKind → Nat
  | .v => 8 | .side => 7 | .p => 4 | .ldp => 3 | .x => 3 | .t => 4 | .a => 5 | .id => 3

/-- A register field of a word: what it names, its lowest bit, how many registers from the one it names are read or
written, and how many are written. `long` says that a long-latency operation writes them, and `guard` that the value is the
guard of a `MODEF`: the splice unit renumbers it (R366), but it is no field of a format, so it counts neither for packing nor for
waits (R454; log entry 62). -/
structure RegField where
  kind : FieldKind
  lo : Nat
  n : Nat := 1
  wr : Nat := 0
  long : Bool := false
  guard : Bool := false
  deriving DecidableEq, Repr

/-- A field that is read. -/
def rd (k : FieldKind) (lo : Nat) (n : Nat := 1) : RegField := { kind := k, lo := lo, n := n }
/-- A field that is written. -/
def wrt (k : FieldKind) (lo : Nat) (n : Nat := 1) : RegField := { kind := k, lo := lo, n := n, wr := n }
/-- A field that a long-latency operation writes. -/
def ret (k : FieldKind) (lo : Nat) (n : Nat := 1) : RegField := { kind := k, lo := lo, n := n, wr := n, long := true }
/-- The offset field of format M (R30). -/
def offField : MOff → List RegField
  | .vec _ => [rd .v 0]
  | .step _ => []

/-- The register words of an atomic's data under a mode: read, and returned (R158). -/
def atomSpan (m : Word) (op : AtomOp) : Nat × Nat :=
  let r := ((atomTy m op).map fun t => atomWidth t / 4).getD 1
  (if op = .cas then 2 * r else r, r)

/-- The register fields of an instruction under a mode (R65, R454). A word that never reaches the groups has none. How many
results a `SHIP.W` or `SHIP.T` writes is known at run time only: for reason 11 of R362 it is taken to write the largest number,
four (R63; DESIGN CHOICE, log entry 67), while packing tracks none of them (R454). -/
def regFields (m : Word) : Instr → List RegField
  | .iadd .. | .isub .. | .imul .. | .imulh .. | .imad .. | .imin .. | .imax .. | .and .. | .or .. | .xor .. | .shl ..
  | .shr .. | .sar .. | .bfe .. | .bfi .. | .lea .. | .fadd .. | .fsub .. | .fmul .. | .fma .. | .fmin .. | .fmax ..
  | .fscale .. | .shfl .. => [wrt .v 16, rd .v 8, rd .v 0]
  | .iaddImm .. | .isubImm .. | .imulImm .. | .imulhImm .. | .iabs .. | .not .. | .andImm .. | .orImm .. | .xorImm ..
  | .shlImm .. | .shrImm .. | .sarImm .. | .clz .. | .popc .. | .brev .. | .mov .. | .fabs .. | .fneg .. | .cvt ..
  | .pack .. | .unpack .. | .shflImm .. | .bcast .. | .redx .. | .scan .. => [wrt .v 16, rd .v 8]
  | .frcp .. | .frsq .. | .fsqrt .. | .fexp2 .. | .flog2 .. | .fsin .. | .fcos .. | .ftanh .. => [ret .v 16, rd .v 8]
  | .sel .. => [wrt .v 16, rd .v 8 2, rd .p 0]
  | .movi .. | .movhi .. => [wrt .v 16]
  | .icmp .. | .fcmp .. => [wrt .p 16, rd .v 8, rd .v 0]
  | .icmpImm .. => [wrt .p 16, rd .v 8]
  | .sadd .. | .ssub .. | .smul .. | .sand .. | .sor .. | .sxor .. | .sshl .. | .sshr .. | .ssar .. =>
    [wrt .side 16, rd .side 8, rd .side 0]
  | .scmp .. => [rd .side 8, rd .side 0]
  | .smov .. => [wrt .side 16, rd .side 8]
  | .smovImm .. | .saddImm .. => [wrt .side 16]
  | .scmpImm .. => [rd .side 16]
  | .mbcnt .. => [wrt .v 16, rd .p 8]
  | .vote .. | .pcnt .. => [wrt .side 16, rd .p 8]
  | .pand .. | .por .. | .pxor .. => [wrt .p 16, rd .p 8, rd .p 0]
  | .pnot .. | .pmov .. | .pfirst .. => [wrt .p 16, rd .p 8]
  | .kmov .. => [wrt .side 16, rd .side 8]
  | .kld .. => [ret .side 16, rd .side 8]
  | .sread .. => [ret .side 16]
  | .swrite .. => [rd .side 16]
  | .brz .. | .brnz .. | .fork .. => [rd .p 20]
  | .ret .. | .setmode .. => [rd .side 8]
  | .modef .guard i => if i.toNat < 16 then [{ kind := .p, lo := 2, guard := true }] else []
  | .ld _ z _ _ o => [ret .v 12 (sizeRegs z), rd .x 9] ++ offField o
  | .st _ z _ _ o => [rd .v 12 (sizeRegs z), rd .x 9] ++ offField o
  | .ldn _ n _ _ o => [ret .v 12 (n.toNat + 1), rd .x 9] ++ offField o
  | .stn _ n _ _ o => [rd .v 12 (n.toNat + 1), rd .x 9] ++ offField o
  | .ldp _ z _ _ o => [ret .v 12 (sizeRegs z), ret .ldp 23, rd .x 9] ++ offField o
  | .atom _ op _ _ _ => [rd .x 16, rd .v 8 (atomSpan m op).1, rd .v 0]
  | .atomr _ op _ _ _ => [rd .x 16, { kind := .v, lo := 8, n := (atomSpan m op).1, wr := (atomSpan m op).2, long := true }, rd .v 0]
  | .preq _ o | .pref _ o | .rcmark _ o => rd .x 9 :: offField o
  | .xlat .. => [ret .x 16, rd .side 8, rd .side 0]
  | .publish .. => [rd .side 8]
  | .xrel .. => [wrt .x 16]
  | .mma .. => [wrt .a 16, rd .t 8, rd .t 0]
  | .mmaq .. => [ret .a 16, rd .side 8]
  | .mmaqs _ _ i => [ret .a 16, rd .side 8] ++ (if i.toNat < 8 then [rd .id 0] else [])
  | .acommit i | .adiscard i => if i.toNat < 8 then [rd .id 0] else []
  | .azero .. => [wrt .a 16]
  | .amov .. | .acvt .. => [wrt .v 16, rd .a 8]
  | .cpy .. => [rd .x 21, rd .x 18, rd .v 8, rd .v 0]
  | .cpg .. => [rd .x 21, rd .x 18, rd .v 8, rd .v 0 2]
  | .cpt .. => [wrt .t 16, rd .x 8, rd .side 0]
  | .cpq .. => [wrt .t 16, rd .t 8, rd .side 0]
  | .cptest .. | .seal .. => [wrt .side 16]
  | .lzopen .. => [ret .side 16, rd .side 8]
  | .lzclose .. => [rd .side 8]
  | .lzres .. | .lzstat .. => [ret .side 16, rd .side 8, rd .side 0]
  | .lzwait .. | .lzfree .. => [rd .side 8, rd .side 0]
  | .cpl _ _ _ n _ => [rd .side 16 (n.toNat + 1), rd .x 13, rd .v 0 2]
  | .shipW a _ _ | .shipT a _ _ _ =>
    [{ kind := .v, lo := 16, n := min 9 (256 - a.toNat), wr := min 4 (256 - a.toNat) }, rd .side 8, rd .x 5]
  | .testk .. => [wrt .p 16]
  | _ => []

/-- The class and the number that a field's value names. -/
def FieldKind.reg (k : FieldKind) (n : Nat) : RegClass × Nat :=
  match k with
  | .v => (.vector, n)
  | .side => if n < 64 then (.scalar, n) else (.uniform, n - 64)
  | .p => (.predicate, n)
  | .ldp => (.predicate, n)
  | .x => (.xreg, n)
  | .t => (.tile, n)
  | .a => (.acc, n)
  | .id => (.spec, n)

/-- The value of a field in a word. -/
def RegField.val (f : RegField) (w : Word) : Nat := field w.toNat (f.lo + f.kind.bits - 1) f.lo
/-- The first register that a field of a word names. -/
def RegField.first (f : RegField) (w : Word) : RegClass × Nat := f.kind.reg (f.val w)
/-- Registers from a first one on. -/
def regRun (r : RegClass × Nat) (n : Nat) : List (RegClass × Nat) := (List.range n).map fun i => (r.1, r.2 + i)

/-- The word with a field's value replaced. -/
def RegField.put (f : RegField) (w : Word) (v : Nat) : Word :=
  BitVec.ofNat 32 (w.toNat - f.val w * 2 ^ f.lo + v % 2 ^ f.kind.bits * 2 ^ f.lo)

/-- The register fields of a word under any of the modes that reach it. -/
def wordFields (ms : List Word) (w : Word) : List RegField :=
  match decode w with
  | none => []
  | some i =>
    match ms with
    | [] => regFields 0x04200000 i
    | m :: r => r.foldl (fun fs x => (fs.zip (regFields x i)).map fun e => if e.1.n < e.2.n then e.2 else e.1) (regFields m i)

/-- The registers that some fields of a word name, and those that its instruction reads unnamed. -/
def fieldRegs (fs : List RegField) (w : Word) : List (RegClass × Nat) :=
  fs.flatMap (fun f => regRun (f.first w) f.n) ++
    (match decode w with
      | some .sret => regRun (.vector, 0) 4
      | _ => [])

/-- The registers that a word names (R366). -/
def wordRegs (ms : List Word) (w : Word) : List (RegClass × Nat) := fieldRegs (wordFields ms w) w

/-- The registers that a word reads or writes for packing and for waits (R454). -/
def packRegs (ms : List Word) (w : Word) : List (RegClass × Nat) := fieldRegs ((wordFields ms w).filter (!·.guard)) w

/-- The registers that a word writes, and those that it writes as a long-latency operation. -/
def wordWrites (ms : List Word) (long : Bool) (w : Word) : List (RegClass × Nat) :=
  (wordFields ms w).flatMap fun f => if long && !f.long then [] else regRun (f.first w) f.wr

end Sys2Proof.Machine
end

