-- ==== Sys2Proof/Machine/Splice.lean ====
section
/-! DEFINITION. The splice unit (R359 to R371): reading a pair of kernels, the conditions of R362, renumbering, packing
the fused code into clauses (R71, R72), and the spliced image. -/

namespace Sys2Proof.Machine

open Sys2Proof

/-- A decision that may refuse with a reason and a detail of R362. -/
abbrev Spl (α : Type) := Except (Nat × Nat) α
/-- A condition that must hold, or the refusal. -/
def must (c : Bool) (reason : Nat) (detail : Nat := 0) : Spl Unit := if c then .ok () else .error (reason, detail)

/-! Reading a kernel object (R76 to R78). -/

/-- A port (R78). -/
structure SplicePort where
  name : List Nat
  rows : Nat
  cols : Nat
  input : Bool
  tile : Nat
  ty : Nat
  durable : Bool
  deriving DecidableEq, Repr

/-- A code label: its name, the word that it stands at, and whether it is global (R78). -/
structure SpliceLabel where
  name : List Nat
  word : Nat
  global : Bool
  deriving DecidableEq, Repr

/-- A kernel as the splice unit reads it: its words, its clauses as header and length, labels, ports and entry. -/
structure SpliceCode where
  words : List Word
  clauses : List (Nat × Nat)
  labels : List SpliceLabel
  ports : List SplicePort
  entry : Nat
  deriving DecidableEq, Repr

/-- The bytes of a name of the string segment. -/
def State.nameAt (s : State) (a : Nat) : Nat → List Nat
  | 0 => []
  | n + 1 => let b := s.devNat a 1; if b = 0 then [] else b :: s.nameAt (a + 1) n

/-- The clauses of code that is a run of whole clauses. -/
def clauseRuns (ws : List Word) (isHdr : Nat → Bool) : Nat → Nat → Option (List (Nat × Nat))
  | 0, _ => some []
  | f + 1, i =>
    if ws.length ≤ i then some []
    else
      let n := headerWords (ws.getD i 0)
      if isHdr i && i + n < ws.length && (List.range n).all (fun j => !isHdr (i + j + 1)) then
        (clauseRuns ws isHdr f (i + n + 1)).map ((i, n) :: ·)
      else none

/-- A kernel object read. Code that is no run of whole clauses has none. -/
def State.readCode (s : State) (o : Nat) : SpliceCode :=
  let w := fun (off : Nat) => s.devNat (o + off) 4
  let ws := (List.range (w 0x0C / 4)).map fun i => (s.devWord (o + w 0x08 + 4 * i)).val
  let strings := w 0x2C
  let name := fun (a : Nat) => s.nameAt (o + w 0x28 + s.devNat a 4) (strings - s.devNat a 4)
  { words := ws,
    clauses := (clauseRuns ws (fun i => bitOf (s.devNat (o + w 0x10 + i / 8) 1) (i % 8)) ws.length 0).getD [],
    labels := (List.range (w 0x24)).filterMap fun i =>
      let a := o + w 0x20 + 16 * i
      if s.devNat (a + 8) 1 = 0 then
        some { name := name a, word := s.devNat (a + 4) 4 / 4, global := bitOf (s.devNat (a + 9) 1) 0 }
      else none,
    ports := (List.range (w 0x34)).map fun i =>
      let a := o + w 0x30 + 16 * i
      { name := name a, rows := s.devNat (a + 4) 2, cols := s.devNat (a + 6) 2, input := s.devNat (a + 8) 1 = 1,
        tile := s.devNat (a + 9) 1, ty := s.devNat (a + 10) 2, durable := s.devNat (a + 12) 1 = 1 },
    entry := w 0x38 / 4 }

/-- A word of code. -/
def SpliceCode.word (c : SpliceCode) (i : Nat) : Word := c.words.getD i 0
/-- A word is a clause header. -/
def SpliceCode.isHdr (c : SpliceCode) (i : Nat) : Bool := c.clauses.any fun e => e.1 = i
/-- The words of a clause with their numbers. -/
def SpliceCode.clauseWords (c : SpliceCode) (e : Nat × Nat) : List (Nat × Word) :=
  (List.range e.2).map fun j => (e.1 + j + 1, c.word (e.1 + j + 1))
/-- Every instruction word with its number. -/
def SpliceCode.instrs (c : SpliceCode) : List (Nat × Word) := c.clauses.flatMap c.clauseWords
/-- The word that a label of a name stands at, if it is a clause header. -/
def SpliceCode.labelAt (c : SpliceCode) (name : List Nat) : Option Nat :=
  ((c.labels.find? fun l => l.name = name).map (·.word)).filter c.isHdr
/-- A reserved name (R359). -/
def asciiOf (t : String) : List Nat := t.toList.map Char.toNat

/-- The target of a branch word of a clause (R31). -/
def branchTo (h : Nat) (w : Word) : Option Nat :=
  let go := fun (o : BitVec 20) => let t := (h : Int) + signedOf 20 o.toNat; if t < 0 then none else some t.toNat
  match decode w with
  | some (.br o) => go o
  | some (.brc _ o) => go o
  | some (.brz _ o) => go o
  | some (.brnz _ o) => go o
  | _ => none
/-- The branch target of a clause's last word. -/
def SpliceCode.target (c : SpliceCode) (e : Nat × Nat) : Option Nat := branchTo e.1 (c.word (e.1 + e.2))

/-! Bodies and ports (R359, R360). -/

/-- A kernel's body: the headers of its first clause, of its last clause and of the exit clause. -/
structure SpliceBody where
  start : Nat
  last : Nat × Nat
  exit : Nat
  deriving DecidableEq, Repr

/-- The word is a branch that the back branch of a part may be (R359). -/
def backOk (producer : Bool) (w : Word) : Bool :=
  match decode w with
  | some (.brz _ _) => true
  | some (.brnz _ _) => true
  | some (.br _) => !producer
  | some (.brc _ _) => !producer
  | _ => false

/-- The symbols of R359 in a kernel, and its body. -/
def SpliceCode.body (c : SpliceCode) (producer : Bool) : Spl SpliceBody :=
  match c.labelAt (asciiOf "splice_body"), c.labelAt (asciiOf "splice_exit") with
  | some b, some x =>
    match (c.clauses.filter fun e => b ≤ e.1 && e.1 < x).getLast? with
    | none => .error (6, 0)
    | some e => do
      let w := e.1 + e.2
      must (w + 1 = x && backOk producer (c.word w) && c.target e = some b) 6 (w % 256)
      let bad := ((c.clauses.filter fun e => b ≤ e.1 && e.1 < x).flatMap c.clauseWords).filter fun i => i.1 ≠ w && wordTransfers i.2
      must bad.isEmpty 6 ((bad.head?.map (·.1)).getD 0 % 256)
      .ok { start := b, last := e, exit := x }
  | _, _ => .error (6, 0)

/-- A word lies in the body. -/
def SpliceBody.has (b : SpliceBody) (i : Nat) : Bool := b.start ≤ i && i < b.exit

/-- The bits of a port's element (R360). -/
def portBits (code : Nat) : Nat :=
  match tyOf code with
  | some t => if tyWidth t = 32 then 32 else matBits t
  | none => 0
/-- The bits of a port (R360). -/
def SplicePort.bits (p : SplicePort) : Nat := p.rows * p.cols * portBits p.ty

/-- The port instruction of a port: its word's number and the word (R359). -/
def SpliceCode.portWord (c : SpliceCode) (p : SplicePort) : Option (Nat × Word) :=
  (c.labelAt p.name).map fun h => (h + 1, c.word (h + 1))
/-- The register count and the data register of a port instruction: an `STN` of a producer, an `LDN` of a consumer, in
step form. -/
def portRegs (producer : Bool) (w : Word) : Option (Nat × Nat) :=
  match decode w with
  | some (.stn _ n d _ (.step _)) => if producer then some (n.toNat + 1, d.toNat) else none
  | some (.ldn _ n d _ (.step _)) => if producer then none else some (n.toNat + 1, d.toNat)
  | _ => none

/-- The matched ports of a pair (R360). -/
def matchedPorts (p c : SpliceCode) : List (SplicePort × SplicePort) :=
  (p.ports.filter fun a => !a.input).filterMap fun a =>
    (c.ports.find? fun b => b.input && b.tile = a.tile).map fun b => (a, b)

/-- Two ports of a kernel share a tile number: the first that does (R360). -/
def SpliceCode.sharedTile (c : SpliceCode) : Option Nat :=
  (c.ports.map (·.tile)).find? fun t => (c.ports.filter fun p => p.tile = t).length > 1

/-- The conditions of reason 5 (R360, R362). -/
def checkPorts (p c : SpliceCode) : Spl Unit := do
  must p.sharedTile.isNone 5 (p.sharedTile.getD 0)
  must c.sharedTile.isNone 5 (c.sharedTile.getD 0)
  let ms := matchedPorts p c
  must (!ms.isEmpty) 5
  ms.foldl (fun (r : Spl Unit) e => do
    r
    let n := fun (x : SpliceCode) (producer : Bool) (q : SplicePort) => ((x.portWord q).bind fun w => portRegs producer w.2).map (·.1)
    let size := fun (k : Option Nat) (q : SplicePort) => match k with
      | some k => decide (q.bits = 8 * (128 * k))
      | none => true
    let a := n p true e.1
    let b := n c false e.2
    must (e.1.rows = e.2.rows && e.1.cols = e.2.cols && e.1.ty = e.2.ty && size a e.1 && size b e.2 &&
      (a.isNone || b.isNone || a = b)) 5 e.1.tile) (.ok ())

/-- A matched pair as the fused code uses it: the numbers of its words, its data registers, and whether the store is
removed (R367). -/
structure Forward where
  tile : Nat
  store : Nat
  load : Nat
  n : Nat
  src : Nat
  dst : Nat
  transient : Bool
  deriving DecidableEq, Repr

/-- A port instruction where R359 wants it. -/
def SpliceCode.portAt (c : SpliceCode) (b : SpliceBody) (producer : Bool) (p : SplicePort) : Spl (Nat × Nat × Nat) :=
  match c.portWord p with
  | none => .error (6, 0)
  | some (i, w) =>
    match portRegs producer w with
    | some (n, r) => do
      must (b.has i) 6 (i % 256)
      .ok (i, n, r)
    | none => .error (6, i % 256)

/-- The matched pairs of two bodies. -/
def forwards (p c : SpliceCode) (bp bc : SpliceBody) : List (SplicePort × SplicePort) → Spl (List Forward)
  | [] => .ok []
  | e :: r => do
    let a ← p.portAt bp true e.1
    let b ← c.portAt bc false e.2
    let l ← forwards p c bp bc r
    .ok ({ tile := e.1.tile, store := a.1, load := b.1, n := a.2.1, src := a.2.2, dst := b.2.2, transient := !e.1.durable } :: l)

/-- A word that neither kernel of a pair may contain (R362 reason 6). -/
def spliceBarred (w : Word) : Bool :=
  match decode w with
  | some (.call _) => true
  | some (.ret _) => true
  | some (.fork _ _) => true
  | some .join => true
  | some (.trap _) => true
  | some (.yieldc _ _) => true
  | some (.reggrow _) => true
  | some (.regshrink _) => true
  | some (.setmode _) => true
  | _ => false

/-- The instruction of a word is one of a kind. -/
def wordIs (f : Instr → Bool) (w : Word) : Bool := ((decode w).map f).getD false
/-- `EXIT`. -/
def isExit : Instr → Bool
  | .exit => true
  | _ => false
/-- A barrier. -/
def isBarrier : Instr → Bool
  | .bar _ => true
  | .cbar _ => true
  | _ => false
/-- A wait for batches with a count that is not 0 (R362 reason 13). -/
def isCountedWait : Instr → Bool
  | .cpwaitSrc n => n != 0
  | .cpwaitVis n => n != 0
  | _ => false

/-- The first word of a list that is of a kind must not be there. -/
def mustNot (l : List (Nat × Word)) (f : Word → Bool) (reason : Nat) (named : Bool) : Spl Unit :=
  match l.find? fun e => f e.2 with
  | some e => .error (reason, if named then e.1 % 256 else 0)
  | none => .ok ()

/-- A branch target that is no clause of its kernel has no place in the fused code. -/
def SpliceCode.badBranch (c : SpliceCode) : Option Nat :=
  (c.clauses.find? fun e => match c.target e with
    | some t => !c.isHdr t
    | none => (decode (c.word (e.1 + e.2))).any fun i => match i with
      | .br _ => true
      | .brc _ _ => true
      | .brz _ _ => true
      | .brnz _ _ => true
      | _ => false).map fun e => e.1 + e.2

/-- The words of the producer that may hold its `EXIT`: those of its epilogue, a single clause of that word (R359). -/
def SpliceCode.checkExits (p : SpliceCode) (b : SpliceBody) : Spl Unit := do
  let epi := p.clauses.filter fun e => b.exit ≤ e.1
  must (epi.length = 1 && (epi.flatMap p.clauseWords).length = 1 && (epi.flatMap p.clauseWords).all fun i => wordIs isExit i.2) 6
    ((b.exit + 1) % 256)
  mustNot (p.instrs.filter fun i => i.1 < b.exit) (wordIs isExit) 6 true

/-! The mode along every path (R368). -/

/-- `gm` after a word. -/
def modeAfter (m w : Word) : Word :=
  match decode w with
  | some (.modef f i) => if operandBitsOk (.modef f i) && gmValid (gmPut m f i.toNat) then gmPut m f i.toNat else m
  | _ => m

/-- The clauses that may follow a clause. -/
def SpliceCode.next (c : SpliceCode) (e : Nat × Nat) : List Nat :=
  let fall := [e.1 + e.2 + 1].filter c.isHdr
  match decode (c.word (e.1 + e.2)) with
  | some (.br _) => (c.target e).toList
  | some .exit => []
  | some .sret => []
  | _ => (c.target e).toList ++ fall

/-- The modes that reach each clause header, followed one clause further. -/
def SpliceCode.modeStep (c : SpliceCode) (t : Tab (List Word)) : Tab (List Word) :=
  c.clauses.foldl (fun t e =>
    let out := (t.look e.1 []).map fun m => (c.clauseWords e).foldl (fun m i => modeAfter m i.2) m
    (c.next e).foldl (fun t h => t.put h ((t.look h []) ++ (out.eraseDups.filter fun m => !(t.look h []).contains m))) t) t

/-- The modes that reach each clause header along every path. -/
def SpliceCode.modesFrom (c : SpliceCode) : Nat → Tab (List Word) → Tab (List Word)
  | 0, t => t
  | f + 1, t => let u := c.modeStep t; if u = t then t else c.modesFrom f u

/-- The modes of each clause header from the reset value at the head of the code. -/
def SpliceCode.modes (c : SpliceCode) : Tab (List Word) :=
  let n := c.words.length
  c.modesFrom (n * n + 1) [(0, [0x04200000])]

/-- The modes that reach each instruction word. -/
def SpliceCode.wordModes (c : SpliceCode) (t : Tab (List Word)) : Tab (List Word) :=
  c.clauses.flatMap fun e =>
    ((c.clauseWords e).foldl (fun (st : Tab (List Word) × List Word) i =>
      (st.1 ++ [(i.1, st.2)], (st.2.map fun m => modeAfter m i.2).eraseDups)) ([], t.look e.1 [])).1

/-- The mode at a part's body, and at its exit clause, if each has one along every path (R368). -/
def SpliceCode.bodyMode (c : SpliceCode) (t : Tab (List Word)) (b : SpliceBody) : Spl (Word × Word) := do
  let inside := (c.clauses.filter fun e => b.has e.1).all fun e => (t.look e.1 []).length ≤ 1
  match t.look b.start [], t.look b.exit [] with
  | [m], [x] => do
    must inside 8
    .ok (m, x)
  | [m], [] => do
    must inside 8
    .ok (m, m)
  | _, _ => .error (8, 0)

/-! Renumbering (R366). -/

/-- Numbers below a bound that a list holds. -/
def usedBelow (n : Nat) (l : List Nat) : List Nat := (List.range n).filter l.contains
/-- The numbers of a class that a kernel names. -/
def namedOf (regs : List (RegClass × Nat)) (c : RegClass) : List Nat := (regs.filter fun r => r.1 = c).map (·.2)

/-- Numbers mapped, in order, onto free ones in order. -/
def mapOnto : List Nat → List Nat → Option (List (Nat × Nat))
  | [], _ => some []
  | _ :: _, [] => none
  | a :: r, b :: f => (mapOnto r f).map ((a, b) :: ·)

/-- Spans in ascending order with overlapping ones merged, as first number and count (R366). -/
def mergeSpans (l : List (Nat × Nat)) : List (Nat × Nat) :=
  (sortBy (fun e => e.1) l).foldl (fun (r : List (Nat × Nat)) e =>
    match r.getLast? with
    | some p => if e.1 < p.1 + p.2 then r.dropLast ++ [(p.1, max (p.1 + p.2) (e.1 + e.2) - p.1)] else r ++ [e]
    | none => [e]) []

/-- Scalar units mapped onto the lowest runs of free numbers that hold them. -/
def mapUnits (used : List Nat) : List (Nat × Nat) → List (Nat × Nat) → Option (List (Nat × Nat))
  | [], m => some m
  | u :: r, m =>
    let free := fun (i : Nat) => !used.contains i && !(m.any fun e => e.2 = i)
    match (List.range (65 - u.2)).find? fun b => (List.range u.2).all fun i => free (b + i) with
    | some b => mapUnits used r (m ++ (List.range u.2).map fun i => (u.1 + i, b + i))
    | none => none

/-- How the consumer's registers are renumbered: offsets by class, and mapped numbers. -/
structure Renumber where
  vec : Nat
  uni : Nat
  tile : Nat
  acc : Nat
  scalar : List (Nat × Nat)
  pred : List (Nat × Nat)
  xreg : List (Nat × Nat)
  spec : List (Nat × Nat)
  deriving DecidableEq, Repr

/-- A mapped number; one that is not mapped stays. -/
def mapped (l : List (Nat × Nat)) (n : Nat) : Nat := ((l.find? fun e => e.1 = n).map (·.2)).getD n

/-- The new number of a register. -/
def Renumber.num (r : Renumber) : RegClass × Nat → Nat
  | (.vector, n) => n + r.vec
  | (.uniform, n) => n + r.uni
  | (.tile, n) => n + r.tile
  | (.acc, n) => n + r.acc
  | (.scalar, n) => mapped r.scalar n
  | (.predicate, n) => mapped r.pred n
  | (.xreg, n) => mapped r.xreg n
  | (.spec, n) => mapped r.spec n

/-- A word of the consumer renumbered. -/
def Renumber.word (r : Renumber) (ms : List Word) (w : Word) : Word :=
  (wordFields ms w).foldl (fun w' f =>
    let x := f.first w
    let n := r.num x
    f.put w' (if f.kind = .side && x.1 = .uniform then 64 + n else n)) w

/-- A mode of the consumer as the fused code holds it: its guard is renumbered. -/
def Renumber.mode (r : Renumber) (m : Word) : Word := gmPut m .guard (mapped r.pred (gmGuard m))

/-- Every register of a class stays within its encoding after renumbering. -/
def fitsClass (regs : List (RegClass × Nat)) (c : RegClass) (off top : Nat) : Bool := (namedOf regs c).all fun n => n + off ≤ top

/-- The renumbering of a pair (R366), or the refusal with reason 9 or 10. -/
def renumber (kp kc : Kernel) (p c : List (Word × List Word)) : Spl Renumber := do
  let regs := fun (l : List (Word × List Word)) => l.flatMap fun e => wordRegs e.2 e.1
  let rp := regs p
  let rc := regs c
  let fields := c.flatMap fun e => (wordFields e.2 e.1).map fun f => (f, e.1)
  let spans := (fields.filter fun e => (e.1.first e.2).1 = .scalar).map fun e =>
    ((e.1.first e.2).2, min e.1.n (64 - (e.1.first e.2).2))
  let ldps := (fields.filter fun e => e.1.kind = .ldp).map fun e => (e.1.first e.2).2
  let free := fun (cls : RegClass) (n : Nat) => (List.range n).filter fun i => !(namedOf rp cls).contains i
  must (kp.vgran + kc.vgran ≤ 32) 9 (kp.vgran + kc.vgran)
  must (kp.kgran + kc.kgran ≤ 8 && fitsClass rc .uniform (8 * kp.kgran) 63) 10 1
  let sc := mapUnits (namedOf rp .scalar) (mergeSpans spans) []
  must sc.isSome 10 2
  let first := usedBelow 8 ldps
  let lo := mapOnto first ((free .predicate 8).filter (· ≠ 0))
  must lo.isSome 10 3
  let taken := (lo.getD []).map (·.2)
  let rest := (usedBelow 16 (namedOf rc .predicate)).filter fun n => n ≠ 0 && !first.contains n
  let hi := mapOnto rest ((free .predicate 16).filter fun n => n ≠ 0 && !taken.contains n)
  must hi.isSome 10 3
  let xs := mapOnto (usedBelow 8 (namedOf rc .xreg)) (free .xreg 8)
  must xs.isSome 10 4
  must (kp.tiles + kc.tiles ≤ 16 && fitsClass rc .tile kp.tiles 15) 10 5
  must (kp.accs + kc.accs ≤ 32 && fitsClass rc .acc kp.accs 31) 10 6
  let ids := mapOnto (usedBelow 8 (namedOf rc .spec)) (free .spec 8)
  must ids.isSome 10 7
  must (fitsClass rc .vector (8 * kp.vgran) 255) 10 8
  .ok { vec := 8 * kp.vgran, uni := 8 * kp.kgran, tile := kp.tiles, acc := kp.accs, scalar := sc.getD [],
        pred := lo.getD [] ++ hi.getD [], xreg := xs.getD [], spec := ids.getD [] }

/-! The fused code (R365, R367, R368). -/

/-- An instruction of the fused code: its word, the original word that it stands for and its part; `ins` says that the
splice unit inserted it, `added` that it is not a copied word; the modes that reach it, in the consumer's or producer's
own numbers, its registers, the labels that stand at it, whether code begins there with nothing pending, and the label
that it branches to. -/
structure Item where
  word : Word
  part : Bool
  orig : Nat := 0
  ins : Bool := false
  added : Bool := false
  regs : List (RegClass × Nat) := []
  writes : List (RegClass × Nat) := []
  labels : List Nat := []
  fresh : Bool := false
  target : Option Nat := none
  deriving DecidableEq, Repr

/-- A label, or an instruction. -/
inductive Piece
  | lab (l : Nat) (fresh : Bool)
  | item (i : Item)
  deriving DecidableEq, Repr

/-- The label of a clause header of a part; the labels below 8 are the joints of the fused code. -/
def hdrLabel (consumer : Bool) (h : Nat) : Nat := 8 + 2 * h + oneIf consumer

/-- Where a branch of a part goes in the fused code (R365): one to the loop goes through the joint before it. -/
def fusedTarget (consumer : Bool) (b : SpliceBody) (h : Nat) : Nat :=
  if h = b.start then (if consumer then 1 else 0)
  else if !consumer && h = b.exit then 3
  else hdrLabel consumer h

/-- An instruction of the fused code from a word, with the registers that it names. -/
def mkItem (ms : List Word) (w : Word) (i : Item) : Item := { i with word := w, regs := packRegs ms w, writes := wordWrites ms true w }

/-- The label at which the fused code is entered: the head of the producer's prologue, or, where that is empty, the joint before
the consumer's (R365). -/
def fusedEntry (b : SpliceBody) (entry : Nat) : Nat := if entry = b.start then 0 else hdrLabel false entry

/-- What stands for a word of a part: its copy, nothing, or the forwarding moves. -/
def pieceOf (consumer : Bool) (b : SpliceBody) (r : Renumber) (fs : List Forward) (ms : List Word) (h i : Nat) (w : Word) : List Piece :=
  if consumer then
    match fs.find? fun f => f.load = i with
    | some f =>
      (List.range f.n).filterMap fun j =>
        (encode (.mov (BitVec.ofNat 8 (f.dst + r.vec + j)) (BitVec.ofNat 8 (f.src + j)))).map fun x =>
          .item (mkItem [] x { word := x, part := true, orig := i, added := true })
    | none => [.item (mkItem ms (r.word ms w) { word := w, part := true, orig := i, target := (branchTo h w).map (fusedTarget true b) })]
  else if fs.any fun f => f.store = i && f.transient then []
  else [.item (mkItem ms w { word := w, part := false, orig := i, target := (branchTo h w).map (fusedTarget false b) })]

/-- The pieces of clauses of a part, without the word `drop`. The entry and the `.global` labels begin with nothing pending (R72); an
entry at the loop's head is none here, as the fused code is entered before the consumer's prologue. -/
def piecesOf (c : SpliceCode) (consumer : Bool) (b : SpliceBody) (r : Renumber) (fs : List Forward) (wm : Tab (List Word))
    (es : List (Nat × Nat)) (drop : Option Nat) : List Piece :=
  es.flatMap fun e =>
    .lab (hdrLabel consumer e.1)
        (c.labels.any (fun l => l.word = e.1 && l.global) || (!consumer && e.1 = c.entry && e.1 != b.start)) ::
      ((c.clauseWords e).filter fun i => some i.1 ≠ drop).flatMap fun i => pieceOf consumer b r fs (wm.look i.1 []) e.1 i.1 i.2

/-- A word that the splice unit inserts. -/
def inserted (i : Instr) (target : Option Nat := none) : List Piece :=
  (encode i).toList.map fun w => .item (mkItem [] w { word := w, part := true, ins := true, added := true, target := target })

/-- A field of a mode. -/
def gmFieldOf (m : Word) (f : GmField) : Nat := field m.toNat (gmShift f + f.width - 1) (gmShift f)
/-- The `MODEF` words of a crossing (R368). -/
def crossing (out into : Word) : List Piece :=
  [GmField.guard, .dtype, .stype, .rnd, .sat, .fin, .fout].flatMap fun f =>
    if gmFieldOf out f = gmFieldOf into f then [] else inserted (.modef f (BitVec.ofNat 16 (gmFieldOf into f)))

/-- The labels gathered at the instructions that they stand at. -/
def attach : List Piece → List Nat → Bool → List Item
  | [], _, _ => []
  | .lab l f :: r, ls, fr => attach r (ls ++ [l]) (fr || f)
  | .item i :: r, ls, fr => { i with labels := ls, fresh := fr } :: attach r [] false

/-- The original word that each inserted word stands for: the one that follows it (R371). -/
def origins : List Item → List Item
  | [] => []
  | i :: r =>
    let r' := origins r
    (match i.ins, r' with
      | true, n :: _ => { i with part := n.part, orig := n.orig }
      | _, _ => i) :: r'

/-- The fused code before it is packed (R365). Its labels are its entry and the targets of its branches. -/
def fuse (p c : SpliceCode) (bp bc : SpliceBody) (r : Renumber) (fs : List Forward) (tp tc : Tab (List Word)) (mp mc : Word × Word) :
    List Item :=
  let wp := p.wordModes tp
  let wc := c.wordModes tc
  let part := fun (x : SpliceCode) (f : Nat → Bool) => x.clauses.filter fun e => f e.1
  let ps := fun (f : Nat → Bool) (d : Option Nat) => piecesOf p false bp r fs wp (part p f) d
  let cs := fun (f : Nat → Bool) (d : Option Nat) => piecesOf c true bc r fs wc (part c f) d
  let back := bp.last.1 + bp.last.2
  let cmode := r.mode mc.1
  let smov := if (c.instrs.flatMap fun i => wordRegs (wc.look i.1 []) i.2).contains (.scalar, 0) then
    inserted (.smovImm (BitVec.ofNat 6 (mapped r.scalar 0)) 0x4000) else []
  let pieces :=
    ps (fun h => h < bp.start) none ++
    .lab 0 (p.entry = bp.start) :: crossing mp.1 0x04200000 ++ smov ++ cs (fun h => h < bc.start) none ++
    .lab 1 false :: crossing cmode mp.1 ++ .lab 2 false :: ps bp.has (some back) ++
    crossing mp.1 cmode ++ cs bc.has (some (bc.last.1 + bc.last.2)) ++
    crossing cmode mp.1 ++
    (let w := p.word back
     .item (mkItem (wp.look back []) w { word := w, part := false, orig := back, target := some 2 }) ::
    .lab 3 false :: inserted (.br 0) (some 4)) ++
    .lab 4 false :: crossing mp.1 (r.mode mc.2) ++ cs (fun h => bc.exit ≤ h) none
  let items := origins (attach pieces [] false)
  let used := fusedEntry bp p.entry :: items.filterMap (·.target)
  items.map fun (i : Item) => { i with labels := i.labels.filter used.contains }

/-! Packing (R71, R72). -/

/-- A long-latency operation whose flag is pending: the flag, its place in the text and its destinations. -/
structure PackOp where
  flag : Nat
  order : Nat
  regs : List (RegClass × Nat)
  deriving DecidableEq, Repr

/-- A packed clause: its instructions, the flags it waits on, its two flags, and the flags that are pending at its end. -/
structure Packed where
  items : List Item
  waits : List Nat := []
  sets : List Nat := []
  pend : List Nat := []
  deriving DecidableEq, Repr

/-- The packer's state. -/
structure Packer where
  done : List Packed := []
  cur : Packed := { items := [] }
  ops : List PackOp := []
  order : Nat := 0
  deriving DecidableEq, Repr

/-- The flag of the next long-latency operation (R72). -/
def Packer.flag (k : Packer) : Nat :=
  match (List.range 12).find? fun f => !(k.ops.any fun o => o.flag = f) with
  | some f => f
  | none => ((sortBy (fun o => o.order) k.ops).head?.map (·.flag)).getD 0

/-- The clause that is being packed ends. -/
def Packer.close (k : Packer) : Packer :=
  if k.cur.items.isEmpty then k
  else { k with done := k.done ++ [{ k.cur with pend := (k.ops.map (·.flag)).eraseDups }], cur := { items := [] } }

/-- An instruction packed. -/
def Packer.add (k : Packer) (i : Item) : Packer :=
  let deps := ((k.ops.filter fun o => o.regs.any i.regs.contains).map (·.flag)).eraseDups
  let long := wordIsLong i.word
  let brk := !i.labels.isEmpty || (k.cur.items.getLast?.map fun x => wordTransfers x.word).getD false || k.cur.items.length ≥ 16 ||
    (long && k.cur.sets.length ≥ 2) || !deps.isEmpty
  let k :=
    if k.cur.items.isEmpty || brk then
      let k := k.close
      if i.labels.isEmpty then
        { k with cur := { items := [], waits := deps }, ops := k.ops.filter fun o => !deps.contains o.flag }
      else { k with cur := { items := [] }, ops := [] }
    else k
  let k := { k with cur := { k.cur with items := k.cur.items ++ [i] }, order := k.order + 1 }
  if long then
    let f := k.flag
    { k with cur := { k.cur with sets := k.cur.sets ++ [f] }, ops := k.ops ++ [{ flag := f, order := k.order, regs := i.writes }] }
  else k

/-- The last word of a clause is a word after which control does not fall through (R72). -/
def Packed.stops (c : Packed) : Bool :=
  (c.items.getLast?.map fun i => wordIs (fun x => match x with
    | .br _ => true
    | .exit => true
    | .ret _ => true
    | _ => false) i.word).getD false

/-- The flags that a clause at a label waits on: those pending at the ends of the clauses before it (R72). A `.global` label waits on
none, also where clauses of the fused code come before it: of R72's two sentences that meet there, the model takes the one that
has such a label begin with nothing pending (DESIGN CHOICE, log entry 67). -/
def labelWaits (cs : List Packed) (n : Nat) (c : Packed) : List Nat :=
  match c.items with
  | [] => []
  | i :: _ =>
    if i.labels.isEmpty then c.waits
    else if i.fresh then []
    else
      let before := match n with
        | 0 => []
        | m + 1 => match cs[m]? with
          | some b => if b.stops then [] else b.pend
          | none => []
      before ++ cs.flatMap fun b => if b.items.any fun x => x.target.any i.labels.contains then b.pend else []

/-- The items packed into clauses (R71, R72). -/
def pack (is : List Item) : List Packed :=
  let cs := (is.foldl Packer.add {}).close.done
  cs.zipIdx.map fun e => { e.1 with waits := labelWaits cs e.2 e.1 }

/-- The header of a packed clause (R18, R71). -/
def Packed.header (c : Packed) : Word :=
  let w := (c.waits.eraseDups.map fun f => 2 ^ (16 + f)).sum
  let bar := (c.items.getLast?.map fun i => wordIs isBarrier i.word).getD false
  BitVec.ofNat 32 ((c.items.length - 1) * 2 ^ 28 + w + c.sets.getD 0 15 * 2 ^ 12 + c.sets.getD 1 15 * 2 ^ 8 + oneIf bar * 2 ^ 6)

/-- The headers' places. -/
def headerPlaces (cs : List Packed) : List Nat :=
  (cs.foldl (fun (st : List Nat × Nat) c => (st.1 ++ [st.2], st.2 + c.items.length + 1)) ([], 0)).1

/-- The place of a label. -/
def labelPlace (cs : List (Packed × Nat)) (l : Nat) : Nat :=
  ((cs.find? fun e => e.1.items.head?.any fun i => i.labels.contains l).map (·.2)).getD 0

/-- The offset of a branch (R31). -/
def branchField (w : Word) (from_ dest : Nat) : Word :=
  BitVec.ofNat 32 (w.toNat - w.toNat % 2 ^ 20 + wrapTo 20 ((dest : Int) - (from_ : Int)))

/-- An entry of the origin map (R371). -/
def originWord (part added : Bool) (orig : Nat) : Nat := oneIf part * 2 ^ 31 + oneIf added * 2 ^ 30 + orig

/-- The fused words with their map bits and origin entries, and the entry's byte offset. -/
structure Fused where
  words : List (Word × Bool × Nat)
  entry : Nat
  deriving DecidableEq, Repr

/-- The packed clauses laid out. -/
def layout (entry : Nat) (cs : List Packed) : Fused :=
  let es := cs.zip (headerPlaces cs)
  { words := es.flatMap fun e =>
      let o := match e.1.items with
        | i :: _ => originWord i.part true i.orig
        | [] => 0
      (e.1.header, true, o) :: e.1.items.map fun i =>
        ((match i.target with
          | some l => branchField i.word e.2 (labelPlace es l)
          | none => i.word), false, originWord i.part i.added i.orig),
    entry := 4 * labelPlace es entry }

/-! The decision (R361 to R363). -/

/-- What a successful decision gives: the two kernels and the fused code. -/
structure Splice where
  kp : Kernel
  kc : Kernel
  code : Fused
  deriving DecidableEq, Repr

/-- The offsets of the spliced image's clause map and origin map, and its bytes (R370). -/
def Fused.places (f : Fused) : Nat × Nat × Nat :=
  let n := f.words.length
  let m := roundUp (128 + 4 * n) 128
  let o := roundUp (m + (n + 7) / 8) 128
  (m, o, o + 4 * n)

/-- The splice unit's decision about a pair of images (R362). -/
def State.splicePair (s : State) (x : Queue) (a1 cap1 a2 cap2 : Nat) : Spl Splice := do
  let c1 := s.launchCause a1 cap1
  let c2 := s.launchCause a2 cap2
  let fresh := fun (a : Nat) => s.imgState a = 0 && s.imgWord a 0x58 = 0 && s.imgWord a 0x60 = 0
  must (c1 = 0 && c2 = 0 && fresh a1 && fresh a2) 2 (if c1 = 0 then c2 else c1)
  let kp := s.imgKernel a1
  let kc := s.imgKernel a2
  must (kp.gridx = kc.gridx && kp.gridy = kc.gridy && kp.gridz = kc.gridz && kp.cw = kc.cw && kp.ch = kc.ch && kp.groups = kc.groups) 3
  must (kp.race = kc.race) 4
  let p := s.readCode kp.object
  let c := s.readCode kc.object
  checkPorts p c
  let bp ← p.body true
  let bc ← c.body false
  let fs ← forwards p c bp bc (matchedPorts p c)
  p.checkExits bp
  mustNot p.instrs spliceBarred 6 true
  mustNot c.instrs spliceBarred 6 true
  must p.badBranch.isNone 6 (p.badBranch.getD 0 % 256)
  must c.badBranch.isNone 6 (c.badBranch.getD 0 % 256)
  mustNot (p.instrs.filter fun i => bp.has i.1) (wordIs isBarrier) 7 false
  mustNot (c.instrs.filter fun i => bc.has i.1) (wordIs isBarrier) 7 false
  let tp := p.modes
  let tc := c.modes
  let mp ← p.bodyMode tp bp
  let mc ← c.bodyMode tc bc
  let wp := p.wordModes tp
  let wc := c.wordModes tc
  let r ← renumber kp kc (p.instrs.map fun i => (i.2, wp.look i.1 [])) (c.instrs.map fun i => (i.2, wc.look i.1 []))
  let spoilt := fs.find? fun f => (p.instrs.filter fun i => bp.has i.1 && f.store < i.1).any fun i =>
    (wordWrites (wp.look i.1 []) false i.2).any (regRun (.vector, f.src) f.n).contains
  must spoilt.isNone 11 ((spoilt.map (·.tile)).getD 0)
  must ((kp.units = 0 || kc.units = 0) && kp.args.length ≤ 16320 && kc.args.length ≤ 16320) 12
  mustNot p.instrs (wordIs isCountedWait) 13 false
  mustNot c.instrs (wordIs isCountedWait) 13 false
  let code := layout (fusedEntry bp p.entry) (pack (fuse p c bp bc r fs tp tc mp mc))
  must (x.spbuf0.getLsbD 63 && code.places.2.2 ≤ field x.spbuf0.toNat 62 52 * 65536) 14
  .ok { kp := kp, kc := kc, code := code }

/-- QSPLICE after a decision (R363). -/
def spliceWord (d : Option (Nat × Nat)) (at_ : Word) : Dword :=
  BitVec.ofNat 64 (2 ^ 63 + (match d with
    | none => 2 ^ 62
    | some (r, t) => r % 256 * 2 ^ 48 + t % 256 * 2 ^ 40) + at_.toNat)

/-- The bytes of a clause-start map (R77). -/
def mapBytes (bits : List Bool) : List Byte :=
  (List.range ((bits.length + 7) / 8)).map fun i =>
    BitVec.ofNat 8 (((List.range 8).map fun j => oneIf (bits.getD (8 * i + j) false) * 2 ^ j).sum)

/-- The spliced image written at a queue's buffer (R364, R370). -/
def State.writeSplice (s : State) (base : Nat) (p : Splice) (a1 a2 : Nat) : State :=
  let n := p.code.words.length
  let l := p.code.places
  let hdr := bytesOf 4 0x4C444B53 ++ bytesOf 2 1 ++ bytesOf 2 128 ++ bytesOf 4 128 ++ bytesOf 4 (4 * n) ++ bytesOf 4 l.1 ++
    bytesOf 4 ((n + 7) / 8) ++ bytesOf 4 l.2.1 ++ bytesOf 4 n ++ bytesOf 4 p.kp.kid.toNat ++ bytesOf 4 p.kc.kid.toNat ++
    bytesOf 8 a1 ++ bytesOf 8 a2 ++ bytesOf 8 p.kp.codeva.toNat ++ bytesOf 8 p.kc.codeva.toNat ++ List.replicate 56 (0 : Byte)
  let s := s.devWrite base hdr
  let s := s.devWrite (base + 128) (p.code.words.flatMap fun w => bytesOf 4 w.1.toNat)
  let s := s.devWrite (base + l.1) (mapBytes (p.code.words.map fun w => w.2.1))
  s.devWrite (base + l.2.1) (p.code.words.flatMap fun w => bytesOf 4 w.2.2)

/-- The kernel that a fused context runs: the producer's, with the allotments of both and the spliced code (R366). -/
def Splice.kernel (p : Splice) (base : Nat) : Kernel :=
  { p.kp with vgran := p.kp.vgran + p.kc.vgran, kgran := p.kp.kgran + p.kc.kgran, tiles := p.kp.tiles + p.kc.tiles,
              accs := p.kp.accs + p.kc.accs, units := p.kp.units + p.kc.units, codeBytes := 4 * p.code.words.length,
              mapPa := base + p.code.places.1, entry := p.code.entry }

end Sys2Proof.Machine
end

