-- ==== Sys2Proof/Machine/Queue.lean ====
section
/-! DEFINITION. Command queues (R331 to R337): the look-ahead stage, the issue stage with a meaning for each command
(R334), halting (R333), launches and spliced pairs (R339, R361), priorities (R347), regions (R391, R393), and the
destruction of a queue (R348). -/

namespace Sys2Proof.Machine

open Sys2Proof

/-! Commands. -/

/-- The commands that a ring holds (R331). -/
def Queue.count (x : Queue) : Nat := 2 ^ (6 + field x.ctl.toNat 55 52)
/-- The address of a ring command (R331). -/
def Queue.place (x : Queue) (i : Word) : Nat := field x.base.toNat 51 12 * 2 ^ 12 + 64 * (i.toNat % x.count)
/-- The error that a queue has halted with, 0 for none (R331, R333). -/
def Queue.err (x : Queue) : Nat := field x.stat.toNat 63 56
/-- The queue is served: it is enabled and has not halted. -/
def Queue.served (x : Queue) : Bool := x.ctl.getLsbD 63 && x.err = 0

/-- A dword of a command. -/
def Cmd.d (c : Cmd) (i : Nat) : Nat := (c.dw.getD i 0).toNat
/-- A command's op. -/
def Cmd.op (c : Cmd) : Nat := c.d 0 % 256
/-- A command's flag 0. -/
def Cmd.flag (c : Cmd) : Bool := bitOf (c.d 0) 8

/-- The dwords that a command names, from d1 on (R334). -/
def opDwords (op : Nat) : Nat :=
  match op with
  | 0x01 => 4 | 0x02 => 2 | 0x03 => 2 | 0x04 => 2 | 0x09 => 4 | _ => 0
/-- The bits of dword 0 from 8 up that a command may set (R332, R334). -/
def opBits (op : Nat) : Nat :=
  match op with
  | 0x02 => 2 ^ 8
  | 0x03 => 2 ^ 8
  | 0x08 => 7 * 2 ^ 16
  | 0x0A => (2 ^ 32 - 1) * 2 ^ 16
  | 0x0B => 2 ^ 8 + 63 * 2 ^ 16
  | _ => 0

/-- An address of a command is aligned and lies in the physical map (R332, R333). -/
def State.cmdAddr (s : State) (a n : Nat) : Bool := a % n = 0 && s.physOk a n

/-- The code for which a command halts its queue, 0 for none: the first of the table of R333 that applies. `depth` is
the number of open calls. -/
def State.cmdCode (s : State) (c : Cmd) (depth : Nat) : Nat :=
  let op := c.op
  if c.code ≠ 0 then c.code
  else if op = 0 || 0x0B < op then 1
  else if c.d 0 / 256 * 256 &&& opBits op ≠ c.d 0 / 256 * 256 then 2
  else if (List.range 7).any (fun i => opDwords op ≤ i && c.d (i + 1) ≠ 0) then 2
  else if op = 0x04 && (c.d 2 = 0 || 2 ^ 20 < c.d 2) then 2
  else if op = 0x09 && 32 ≤ c.d 3 then 2
  else if op = 0x04 && 8 ≤ depth then 4
  else if op = 0x05 && depth = 0 then 5
  else if op = 0x01 && !(s.cmdAddr (c.d 1) 64 && (c.d 3 = 0 || s.cmdAddr (c.d 3) 64)) then 7
  else if (op = 0x02 || op = 0x03) && !s.cmdAddr (c.d 1) 8 then 7
  else if op = 0x04 && !s.cmdAddr (c.d 1) 64 then 7
  else if op = 0x09 && !s.cmdAddr (c.d 4) 8 then 7
  else 0

/-! The look-ahead stage (R336, R337). -/

/-- The look-ahead stage has something to read: a `CALL` buffer goes on, or a valid ring command follows. -/
def Queue.covered (x : Queue) : Bool :=
  !x.joined && !x.stuck && (!x.aheadCalls.isEmpty || (x.ahead - x.head).toNat < (x.tail - x.head).toNat)

/-- The command at an address, or a read error (R333). -/
def State.readCmd (s : State) (a : Nat) : Cmd :=
  if s.readable a 64 then { dw := (List.range 8).map fun i => s.devDword (a + 8 * i) } else { dw := [], code := 3 }

/-- The next command of the look-ahead stage, and the stage past it. -/
def State.nextCmd (s : State) (x : Queue) : Cmd × Queue :=
  match x.aheadCalls with
  | (_, 0) :: _ => ({ dw := [], code := 5 }, x)
  | (a, n + 1) :: r => (s.readCmd a, { x with aheadCalls := (a + 64, n) :: r })
  | [] =>
    if x.count < (x.tail - x.head).toNat then ({ dw := [], code := 6 }, x)
    else (s.readCmd (x.place x.ahead), { x with ahead := x.ahead + 1 })

/-- The look-ahead stage reads one command: it follows calls and returns, and stops after a `JOIN` and at a command that
cannot be processed. -/
def State.lookAhead (s : State) (x : Queue) : Queue :=
  let depth := x.aheadCalls.length
  let (c, y) := s.nextCmd x
  let y := { y with cmds := y.cmds ++ [c] }
  if s.cmdCode c depth ≠ 0 then { y with stuck := true }
  else
    match c.op with
    | 0x04 => { y with aheadCalls := (c.d 1, c.d 2) :: y.aheadCalls }
    | 0x05 => { y with aheadCalls := y.aheadCalls.drop 1 }
    | 0x06 => { y with joined := true }
    | _ => y

/-! The issue stage. -/

/-- The stages start again at the command that the issue stage has come to (R333). -/
def Queue.restart (x : Queue) : Queue :=
  { x with ahead := if x.calls.isEmpty then x.head else x.head + 1, aheadCalls := x.calls, cmds := [], joined := false,
           stuck := false, waiting := false }

/-- A queue halts before its command (R333). -/
def Queue.halt (x : Queue) (code : Nat) : Queue :=
  { x.restart with stat := BitVec.ofNat 64 (code * 2 ^ 56 + x.head.toNat) }

/-- The issue stage goes past its command: in a `CALL` buffer the buffer moves on, in the ring the head (R331). -/
def Queue.pop (x : Queue) : Queue :=
  let x := { x with cmds := x.cmds.drop 1, waiting := false }
  match x.calls with
  | [] => { x with head := x.head + 1 }
  | (a, n) :: r => { x with calls := (a + 64, n - 1) :: r }

/-- A queue's issue stage past its command. -/
def State.popCmd (s : State) (q : Nat) : State := s.setQueue q (s.queue q).pop

/-- The queue halts where its next command cannot be processed. -/
def State.haltHead (s : State) (q : Nat) : State :=
  let x := s.queue q
  match x.cmds with
  | c :: _ =>
    let e := s.cmdCode c x.calls.length
    if e = 0 then s else s.setQueue q (x.halt e)
  | [] => s

/-- The issue stage of a queue performs its next command, if it is of an op and a form; one that cannot be processed
halts the queue. `w` tells whether the command is one that waits. -/
def State.command (s : State) (q op : Nat) (form : Cmd → Bool) (w : Bool) (f : Cmd → State) : Out :=
  let x := s.queue q
  match x.cmds with
  | [] => .next s
  | c :: _ =>
    if 64 ≤ q || !x.served || s.stopped then .next s
    else if s.cmdCode c x.calls.length ≠ 0 then .next (s.haltHead q)
    else if c.op = op && form c && x.waiting = w then .next (f c)
    else .next s

/-- Any form of a command. -/
def anyForm (_ : Cmd) : Bool := true

/-- The queue's command waits. -/
def State.holdCmd (s : State) (q : Nat) : State := s.setQueue q { s.queue q with waiting := true }

/-- `LOOKAHEAD_READ` (R336, R333). -/
def execLookaheadRead (q : Nat) (s : State) : Out :=
  let x := s.queue q
  if 64 ≤ q || !x.served || s.stopped then .next s
  else
    let s := if x.covered && x.cmds.length < 256 then s.setQueue q (s.lookAhead x) else s
    .next (s.haltHead q)

/-! Launches (R335, R339, R361). -/

/-- The splice role of the object that an image names (R361): 0 where it cannot be read. -/
def State.imgRole (s : State) (a : Nat) : Nat :=
  if s.readable a 256 && s.readable (s.imgObject a) 80 then s.devNat (s.imgObject a + 0x43) 1 else 0

/-- A command launches an image whose object has a splice role's bit. -/
def State.launches? (s : State) (x : Queue) (c : Cmd) (bit : Nat) : Bool :=
  s.cmdCode c x.calls.length = 0 && c.op = 1 && bitOf (s.imgRole (c.d 1)) bit

/-- A launch by itself (R339): refused with its cause in its completion record, or a context. -/
def State.launchOne (s : State) (q : Nat) (c : Cmd) : State :=
  let cause := s.launchCause (c.d 1) (c.d 2)
  let v := BitVec.ofNat 64 (c.d 4)
  let s := if cause = 0 then s.createCtx q (c.d 1) (c.d 2) (c.d 3) v else s.putRecord (c.d 3) v 0 0 0 1 cause
  s.popCmd q

/-- A launch of a pair as one context (R361, R370, R373). -/
def State.launchPair (s : State) (q : Nat) (c1 c2 : Cmd) (p : Splice) : State :=
  let x := s.queue q
  let base := field x.spbuf0.toNat 51 16 * 2 ^ 16
  let s := s.writeSplice base p (c1.d 1) (c2.d 1)
  let n := s.launches
  let s := s.createCtx q (c1.d 1) (c1.d 2) (c1.d 3) (BitVec.ofNat 64 (c1.d 4))
  let s := s.putImgWord (c2.d 1) 0x5C 2
  let s := s.setCtx n { s.ctx n with
    kernel := p.kernel base, codeva := BitVec.ofNat 57 (field x.spbuf1.toNat 56 16 * 2 ^ 16 + 128), fused := true,
    origin := base + p.code.places.2.1, kernel2 := p.kc, image2 := c2.d 1, record2 := c2.d 3, value2 := BitVec.ofNat 64 (c2.d 4) }
  (s.popCmd q).popCmd q

/-- A decision of the splice unit recorded (R363). -/
def State.recordSplice (s : State) (q : Nat) (d : Option (Nat × Nat)) : State :=
  let x := s.queue q
  s.setQueue q { x with splice := spliceWord d x.head }

/-- A fused context of a queue is live (R364). -/
def State.fusedLive (s : State) (q : Nat) : Bool := (s.queueCtxs q).any (·.2.fused)

/-- The launch that a queue has come to: it waits for room for a context and for an image's answers; a producer is
considered with the command after it (R335, R339, R361). -/
def State.launch (s : State) (q : Nat) (c : Cmd) : State :=
  let x := s.queue q
  if !s.ctxRoom q || s.imgPending (c.d 1) then s.holdCmd q
  else if !s.launches? x c 0 then s.launchOne q c
  else
    match x.cmds.drop 1 with
    | [] => if x.covered then s.holdCmd q else (s.recordSplice q (some (1, 0))).launchOne q c
    | c2 :: _ =>
      if !s.launches? x c2 1 then (s.recordSplice q (some (1, 0))).launchOne q c
      else
        match s.splicePair x (c.d 1) (c.d 2) (c2.d 1) (c2.d 2) with
        | .error e => (s.recordSplice q (some e)).launchOne q c
        | .ok p => if s.fusedLive q then s.holdCmd q else (s.recordSplice q none).launchPair q c c2 p

/-- `LAUNCH` (R339, R361). -/
def execLaunch (q : Nat) (s : State) : Out := s.command q 1 anyForm false fun c => s.launch q c

/-- `LAUNCH_WAIT_RESUME` (R335, R339). -/
def execLaunchWaitResume (q : Nat) (s : State) : Out := s.command q 1 anyForm true fun c => s.launch q c

/-! Signals and waits (R334). -/

/-- `SIGNAL_WRITE` (R334): a release at `.s`. -/
def execSignalWrite (q : Nat) (s : State) : Out :=
  s.command q 2 (fun c => !c.flag) false fun c => (s.putDword (c.d 1) (BitVec.ofNat 64 (c.d 2))).popCmd q

/-- A dword added to at `.s`; a poisoned word stays poisoned (R425). -/
def State.addDword (s : State) (a v : Nat) : State :=
  let lo := s.devWord a
  let hi := s.devWord (a + 4)
  s.devPuts a (recDword ((hi.val ++ lo.val : BitVec 64).toNat + v) (lo.poison || hi.poison))

/-- `SIGNAL_ADD` (R334): a release at `.s`. -/
def execSignalAdd (q : Nat) (s : State) : Out :=
  s.command q 2 Cmd.flag false fun c => (s.addDword (c.d 1) (c.d 2)).popCmd q

/-- A wait's test (R334). A dword that cannot be read meets none. -/
def State.waitMet (s : State) (c : Cmd) : Bool :=
  s.readable (c.d 1) 8 &&
    (if c.flag then s.devNat (c.d 1) 8 = c.d 2 else c.d 2 ≤ s.devNat (c.d 1) 8)

/-- A wait is over: an acquire at `.s` for later launches of the queue (R258). -/
def State.waitOver (s : State) (q : Nat) : State := s.setQueue q { (s.queue q).pop with acq := true }

/-- `WAIT_GE` (R334). -/
def execWaitGe (q : Nat) (s : State) : Out :=
  s.command q 3 (fun c => !c.flag) false fun c => if s.waitMet c then s.waitOver q else s.holdCmd q

/-- `WAIT_EQ` (R334). -/
def execWaitEq (q : Nat) (s : State) : Out :=
  s.command q 3 Cmd.flag false fun c => if s.waitMet c then s.waitOver q else s.holdCmd q

/-- `WAIT_SATISFIED` (R334). -/
def execWaitSatisfied (q : Nat) (s : State) : Out :=
  s.command q 3 anyForm true fun c => if s.waitMet c then s.waitOver q else s

/-! Calls, joins and fences (R334, R336, R337). -/

/-- `QUEUE_CALL` (R334): in the ring, the head stays at the `CALL`. -/
def execQueueCall (q : Nat) (s : State) : Out :=
  s.command q 4 anyForm false fun c =>
    let x := s.queue q
    let y := if x.calls.isEmpty then { x with cmds := x.cmds.drop 1 } else x.pop
    s.setQueue q { y with calls := (c.d 1, c.d 2) :: y.calls }

/-- `QUEUE_RETURN` (R334): the return of the ring's `CALL` moves the head. -/
def execQueueReturn (q : Nat) (s : State) : Out :=
  s.command q 5 anyForm false fun _ =>
    let x := s.queue q
    let r := x.calls.drop 1
    s.setQueue q { x with cmds := x.cmds.drop 1, calls := r, head := if r.isEmpty then x.head + 1 else x.head }

/-- `QUEUE_JOIN` (R337): every command before it is performed, so the look-ahead stage goes on. -/
def execQueueJoin (q : Nat) (s : State) : Out :=
  s.command q 6 anyForm false fun _ => s.setQueue q { (s.queue q).pop with joined := false }

/-- `QUEUE_FENCE` (R334, R258). -/
def execQueueFence (q : Nat) (s : State) : Out :=
  s.command q 7 anyForm false fun _ => if (s.queue q).jobs = 0 then s.waitOver q else s.holdCmd q

/-- `QUEUE_FENCE_DONE` (R334). -/
def execQueueFenceDone (q : Nat) (s : State) : Out :=
  s.command q 7 anyForm true fun _ => if (s.queue q).jobs = 0 then s.waitOver q else s

/-! Priorities (R347). -/

/-- The priority of a queue's contexts that have unplaced teams, and of its later launches (R347). -/
def State.setPrio (s : State) (q prio : Nat) : State :=
  let x := s.queue q
  let old := field x.ctl.toNat 58 56
  let s := s.setQueue q { x with ctl := BitVec.ofNat 64 (x.ctl.toNat - old * 2 ^ 56 + prio * 2 ^ 56) }
  (((s.queueCtxs q).filter fun e => e.2.unplaced).foldl (fun s e => s.setCtx e.1 { e.2 with prio := prio }) s).preemptPrio

/-- `PRIO` (R347). -/
def execPrio (q : Nat) (s : State) : Out :=
  s.command q 8 anyForm false fun c => (s.setPrio q (field (c.d 0) 18 16)).popCmd q

/-! Regions (R391, R393). -/

/-- The status of a region's registration (R391). -/
def State.regionStatus (s : State) (base len attr : Nat) : Nat :=
  let host := bitOf attr 4
  let outside := !s.physOk base len || isHostPa base != host
  if s.regions.length = 4096 then 1
  else if base % 65536 ≠ 0 || len % 65536 ≠ 0 || len = 0 || outside ||
      s.regions.any (fun r => r.attr.getLsbD 4 = host && r.base < base + len && base < r.base + r.len) then 2
  else if bitOf attr 3 && !host then 3
  else 0

/-- The generation that a tag has come to (R393; its first is 0, log entry 37). -/
def State.genOf (s : State) (tag : BitVec 24) : BitVec 8 := BitVec.ofNat 8 (s.tagGen.look tag.toNat 0)

/-- `REGION` (R391, R393): F4 draws the tag, and the generation is the one that the tag has come to. -/
def execRegion (q : Nat) (tag : BitVec 24) (gen : BitVec 8) (s : State) : Out :=
  s.command q 9 anyForm false fun c =>
    let st := s.regionStatus (c.d 1) (c.d 2) (c.d 3)
    let host := bitOf (c.d 3) 4
    if st ≠ 0 then (s.putDword (c.d 4) (BitVec.ofNat 64 (st * 2 ^ 56))).popCmd q
    else if host then
      let r : Region := { base := c.d 1, len := c.d 2, attr := BitVec.ofNat 5 (c.d 3), key := 0 }
      (({ s with regions := s.regions ++ [r] }).putDword (c.d 4) 0).popCmd q
    else if s.tagFree tag && gen = s.genOf tag then
      let r : Region := { base := c.d 1, len := c.d 2, attr := BitVec.ofNat 5 (c.d 3), key := gen ++ tag }
      (({ s with regions := s.regions ++ [r] }).putDword (c.d 4) (r.key.setWidth 64)).popCmd q
    else s

/-- A key's tag advances its generation where a live region has the key (R393, R394). -/
def State.advanceTag (s : State) (key : Word) : State :=
  let tag := key.toNat % 2 ^ 24
  if s.regions.any fun r => !r.attr.getLsbD 4 && r.key = key then
    { s with tagGen := s.tagGen.put tag ((key.toNat / 2 ^ 24 + 1) % 2 ^ 8), tagTime := s.tagTime.put tag s.ftime }
  else s

/-- `REVOKE` (R393): the region leaves the table as its tag's generation advances, and the command is performed once no hoist that was admitted under
its key is left. -/
def execRevoke (q : Nat) (s : State) : Out :=
  s.command q 0x0A anyForm false fun c =>
    let key := BitVec.ofNat 32 (field (c.d 0) 47 16)
    let s := s.advanceTag key
    let s := { s with regions := s.regions.filter fun r => r.attr.getLsbD 4 || r.key != key }
    if s.hoists.any fun h => !h.own && h.req.key = key then s else s.popCmd q

/-! Destroying a queue (R348). -/

/-- Both stages of a queue stop, its commands are discarded, and it is not served. -/
def State.stopQueue (s : State) (q : Nat) : State :=
  let x := s.queue q
  let x := { x with head := x.tail, calls := [], ctl := x.ctl &&& ~~~(BitVec.twoPow 64 63) }
  s.setQueue q x.restart

/-- A context of a destroyed queue places no further team (R348); `status` is what its record will say. -/
def State.stopPlacing (s : State) (c status : Nat) : State :=
  let x := s.ctx c
  s.setCtx c { x with stopped := true, status := if x.stopped then x.status else status }

/-- A held atomic that waits for the host's answer to a fallback entry is held no longer, and its group issues it again
(R415; log entry 48). -/
def State.dropCall (s : State) (p : Nat) : State :=
  let g := s.group p
  match g.hold with
  | some h => if h.calls then s.setGroup p { g with hold := none } else s
  | none => s

/-- The placed teams of a context run to completion, and it places no other (R348): a pre-emption that has not written
its image is given up, but not a save that an earlier `DESTROY` asked for. -/
def State.runOut (s : State) (c status : Nat) : State :=
  let s := s.stopPlacing c status
  if (s.ctx c).phase = .stop true then s
  else
    let s := s.goOn c
    ((s.ctxPlaces c).foldl (fun s p => s.dropCall p) s).tryFinish c

/-- A context of a queue that is destroyed: its placed teams run to completion. -/
def State.destroyCtx (s : State) (c : Nat) : State := s.runOut c 2

/-- A context of a queue that is destroyed and saved: it is pre-empted, and one that is fused or whose image exceeds its
capacity runs on (R348, R373). -/
def State.destroySaveCtx (s : State) (c : Nat) : State :=
  let x := s.ctx c
  if x.fused || x.cap < s.imageSize c then s.runOut c 4 else (s.stopPlacing c 2).stopCtx c true

/-- The target of a `DESTROY`. -/
def Cmd.target (c : Cmd) : Nat := field (c.d 0) 21 16

/-- `DESTROY` (R348). -/
def execDestroy (q : Nat) (s : State) : Out :=
  s.command q 0x0B (fun c => !c.flag) false fun c =>
    let s := (s.popCmd q).stopQueue c.target
    (s.queueCtxs c.target).foldl (fun s e => s.destroyCtx e.1) s

/-- `DESTROY_SAVE` (R348). -/
def execDestroySave (q : Nat) (s : State) : Out :=
  s.command q 0x0B Cmd.flag false fun c =>
    let s := (s.popCmd q).stopQueue c.target
    (s.queueCtxs c.target).foldl (fun s e => s.destroySaveCtx e.1) s

end Sys2Proof.Machine
end

