-- ==== Sys2Proof/Machine/Migrate.lean ====
section
/-! DEFINITION. F2's work on pages: what pins a page (R240), the decision to map in place, replicate or migrate
(R387 to R389), page-fault service (R354, R291), and residency requests (R155). -/

namespace Sys2Proof.Machine

open Sys2Proof

/-! The pages of the page tables. -/

/-- The present leaves below a table of a level, with the first address that each maps (R380, R382). -/
def leavesFrom (s : State) : Nat → Nat → Nat → List (Nat × Leaf)
  | 0, table, va =>
    (List.range 32).filterMap fun i =>
      let e := readEntry s (table + 32 * i) 0
      if e.d0.getLsbD 63 && entryOk s 0 e then some (va + i * 2 ^ 16, e) else none
  | level + 1, table, va =>
    (List.range 512).flatMap fun i =>
      let e := readEntry s (table + 32 * i) level.succ
      let va := va + i * 2 ^ (12 + 9 * level.succ)
      if !e.d0.getLsbD 63 || !entryOk s (level + 1) e then []
      else if e.d0.getLsbD 62 then [(va, e)]
      else leavesFrom s level e.frame va

/-- Every present page (R382, R383). -/
def State.leaves (s : State) : List (Nat × Leaf) :=
  if s.ptroot.getLsbD 63 then leavesFrom s 4 (field s.ptroot.toNat 51 14 * 2 ^ 14) 0 else []

/-- The leaf of an address, present or not. -/
def State.leafOf (s : State) (va : Nat) : Option Leaf :=
  match walk s va with
  | .present e => some e
  | .absent e => e
  | .invalid _ => none

/-- The bytes of the page of an address: 64 KiB where no leaf tells. -/
def State.pageSizeAt (s : State) (va : Nat) : Nat := ((s.leafOf va).map fun e => pageBytes e.psize).getD 65536
/-- The first address of the page of an address. -/
def State.pageBase (s : State) (va : Nat) : Addr := BitVec.ofNat 57 (va - va % s.pageSizeAt va)

/-- The place of a page's data in the flat key space. -/
def State.dataKey (s : State) (e : Leaf) : Nat :=
  frameKey s.node (if e.rem then e.node else s.node) e.frame

/-- The data lies in local HBM (R227, R388). -/
def Leaf.inHbm (e : Leaf) : Bool := !e.rem && e.frame < 0xC000000000

/-! Pins (R240, R389). -/

/-- The ranges of the rings and buffers that the device writes by physical address, while they are enabled. -/
def State.ringRanges (s : State) : List (Nat × Nat) :=
  let ring := fun (ctl : Dword) (n : Nat) => if ctl.getLsbD 63 then [(field ctl.toNat 51 12 * 2 ^ 12, n)] else []
  s.masts.flatMap (fun e => ring e.2.ringCtl (128 * e.2.entries)) ++ ring s.rlog.ctl (64 * s.rlog.entries) ++
    ring s.err.ctl (128 * s.err.count) ++ ring s.samp.ctl (32 * 2 ^ (6 + field s.samp.ctl.toNat 55 52)) ++
    s.trace.flatMap (fun e => ring e.2.ctl (16 * e.2.entries)) ++
    s.queues.flatMap (fun e =>
      if e.2.spbuf0.getLsbD 63 then [(field e.2.spbuf0.toNat 51 16 * 2 ^ 16, field e.2.spbuf0.toNat 62 52 * 65536)] else [])

/-- The source and scale regions of the enabled format windows (R234). -/
def State.windowRanges (s : State) : List (Nat × Nat) :=
  (s.fwin.filter fun e => winOk e.2).flatMap fun e =>
    let d := fun (i : Nat) => (e.2.getD i 0).toNat
    let n := field (d 0) 39 0
    (d 2, field (d 0) 55 52 * n / 8) :: (if field (d 0) 57 56 = 1 then [(d 3, n / 32)] else [])

/-- The causes that pin a run of memory, a frame (R240, R389): `inPage` tells the virtual addresses of its page. -/
def State.framePins (s : State) (inPage : Nat → Bool) (a n : Nat) : List Nat :=
  let inFrame := fun (k : Nat) => a ≤ k && k < a + n
  let meets := fun (r : Nat × Nat) => r.1 < a + n && a < r.1 + r.2
  let hits := fun (d : XDst) => match d with
    | .mem v l => inPage v || inFrame l.key
    | _ => false
  (if s.holds.any fun h => inFrame h.1 && h.2 ≠ 0 then [1] else []) ++
  (if (s.xfers ++ s.spent).any fun x =>
      (s.batchUndrained x && x.moves.any fun m => inFrame m.src.key) ||
        (s.batchUnlanded x && x.moves.any fun m => hits m.dst) then [2] else []) ++
  (if s.xfers.any fun x => x.twin && x.moves.any fun m => hits m.dst then [3] else []) ++
  (if s.hoists.any fun h => h.home.isSome && inFrame h.req.lockpa && (match h.at_ with
    | .queued | .ring | .running _ => true
    | _ => false) then [4] else []) ++
  (if s.windowRanges.any meets then [5] else []) ++
  (if s.ringRanges.any meets then [6] else [])

/-- The causes that pin a page (R389), from its first address and its leaf. -/
def State.pins (s : State) (va : Nat) (e : Leaf) : List Nat :=
  let n := pageBytes e.psize
  s.framePins (fun v => va ≤ v && v < va + n) (s.dataKey e) n

/-! Moving pages. -/

/-- The copies of a run of local memory in the L1s are carried home and dropped. -/
def State.cleanL1 (s : State) (a n : Nat) : State :=
  let inRun := fun (w : Nat) => a / 4 ≤ w && w < (a + n) / 4
  let s := s.l1.foldl (fun s e =>
    ((e.2.filter fun x => inRun x.1 && x.2.dirty).map (·.1)).foldl (fun s w => s.pushWord e.1 w .home) s) s
  { s with l1 := s.l1.map fun e => (e.1, e.2.dropIf inRun) }

/-- The word of a page's data as the package has it: its own dirty L2 copy of a host or peer word, or memory. -/
def State.dataWord (s : State) (w : Nat) : PWord :=
  let x := s.l2Word w
  if isFar (4 * w) && x.dirty then { val := x.val, poison := x.poison } else s.memWord w

/-- A page's data copied to a place of local or host memory, and the old copies in the caches dropped. -/
def State.copyPage (s : State) (src dst n : Nat) : State :=
  let s := (s.cleanL1 src n).cleanL1 dst n
  let s := (List.range (n / 4)).foldl (fun s i => s.setMemWord (dst / 4 + i) (s.dataWord (src / 4 + i))) s
  let s := { s with dramPoison := s.dramPoison.dropIf fun w => dst / 4 ≤ w && w < (dst + n) / 4 }
  s.dropL2 fun l => (src ≤ 128 * l && 128 * l < src + n) || (dst ≤ 128 * l && 128 * l < dst + n)

/-- An entry written (R384). -/
def State.writeEntry (s : State) (a : Nat) (d0 d1 d2 d3 : Dword) : State :=
  (((s.putDword a d0).putDword (a + 8) d1).putDword (a + 16) d2).putDword (a + 24) d3

/-- acnt set to 0 (R387). -/
def State.clearAcnt (s : State) (e : Leaf) : State := s.putDword (e.entry + 8) (BitVec.ofNat 64 e.twin)

/-- Dword 0 of a leaf with its presence and its frame replaced, in this package. -/
def Leaf.dword0 (e : Leaf) (p : Bool) (frame : Nat) : Dword :=
  BitVec.ofNat 64 (oneIf p * 2 ^ 63 + field e.d0.toNat 62 57 * 2 ^ 57 + frame)

/-- A page's data and metadata moved to a frame, and its entry written. -/
def State.placePage (s : State) (e : Leaf) (p : Bool) (frame mbase : Nat) : State :=
  let n := pageBytes e.psize
  let s := s.copyPage (s.dataKey e) frame n
  let s := if e.rc then s.copyPage e.mbase mbase (n / 8) else s
  s.writeEntry e.entry (e.dword0 p frame) (BitVec.ofNat 64 e.twin) 0 (BitVec.ofNat 64 (if e.rc then mbase else 0))

/-- The same for a page of a peer, whose bytes F4 has carried with their words' poison, under the package's own dirty
copies. -/
def State.placeRemote (s : State) (e : Leaf) (frame : Nat) (ext : List (Byte × Bool)) : State :=
  let a := s.dataKey e
  let s := (List.range (ext.length / 4)).foldl (fun s i =>
    let c := (ext.drop (4 * i)).take 4
    s.setMemWord (a / 4 + i) { val := BitVec.ofNat 32 (ofBytes (c.map (·.1))), poison := c.any (·.2) }) s
  (s.placePage e true frame 0).zeroRun a ext.length

/-- A run of memory that no present page uses, and that nothing pins (R144, R240). -/
def State.frameFree (s : State) (a n : Nat) : Bool :=
  (s.framePins (fun _ => false) a n).isEmpty &&
    s.leaves.all fun l =>
      let e := l.2
      let m := pageBytes e.psize
      let apart := fun (b k : Nat) => b + k ≤ a || a + n ≤ b
      (e.rem || apart e.frame m) && (!e.tw || apart e.twin m) && (!e.rc || apart e.mbase (m / 8))

/-- A frame and a metadata area that a page can move to. -/
def State.roomFor (s : State) (e : Leaf) (hbm : Bool) (frame mbase : Nat) : Bool :=
  let n := pageBytes e.psize
  frame % n = 0 && s.physOk frame n && (hbm = decide (frame < 0xC000000000)) && s.frameFree frame n &&
    (!e.rc || (mbase % (n / 8) = 0 && s.physOk mbase (n / 8) && !isHostPa mbase && s.frameFree mbase (n / 8) &&
      (mbase + n / 8 ≤ frame || frame + n ≤ mbase)))

/-! Waiting groups and sections. -/

/-- The places whose page fault of a page waits for F2 (R354, R291). -/
def State.waitingOn (s : State) (b : Addr) : List Nat :=
  let n := s.pageSizeAt b.toNat
  (s.groups.filter fun e => match e.2.fault with
    | some f => f.wait = .service && b.toNat ≤ f.info.addr.toNat && f.info.addr.toNat < b.toNat + n
    | none => false).map (·.1)

/-- The work on a page. -/
def State.pageWork (s : State) (b : Addr) : Option PageWork := s.work.find? fun w => w.va = b
/-- The work on a page changed. -/
def State.mapWork (s : State) (b : Addr) (f : PageWork → PageWork) : State :=
  { s with work := s.work.map fun w => if w.va = b then f w else w }
/-- A page that F2 comes to work on, unless it does already (R354). -/
def State.takeWork (s : State) (b : Addr) : State :=
  if (s.pageWork b).isSome then s else { s with work := s.work ++ [{ va := b }] }
/-- F2 is done with a page. -/
def State.endWork (s : State) (b : Addr) : State := { s with work := s.work.filter fun w => w.va != b }

/-- The deferral cause in the record of a waiting group, which is reported at the first deferral (R389, R421). -/
def State.noteDefer (s : State) (p cause : Nat) (first : Bool) : State :=
  let g := s.group p
  match g.fault with
  | none => s
  | some f =>
    let info := { f.info with defer := BitVec.ofNat 3 cause }
    let r := { f.record with d5 := BitVec.ofNat 64 (f.record.d5.toNat - field f.record.d5.toNat 31 29 * 2 ^ 29 + cause % 8 * 2 ^ 29) }
    let s := s.setGroup p { g with fault := some { f with info := info, record := r } }
    if first then s.report 2 (placeDie p) r.dwords else s

/-- The decision about a page is deferred (R389). -/
def State.deferWork (s : State) (b : Addr) (causes : List Nat) : State :=
  let cause := causes.foldl min (causes.headD 0)
  let first := !((s.pageWork b).map (·.deferred)).getD false
  let s := (s.waitingOn b).foldl (fun s p => s.noteDefer p cause first) s
  s.mapWork b fun w => { w with verdict := none, deferred := true, retry := false, cause := cause }

/-- F2 has decided about a page: its access count starts again (R387). -/
def State.pageDecided (s : State) (b : Addr) (v : PageVerdict) : State :=
  let s := match s.leafOf b.toNat with
    | some e => s.clearAcnt e
    | none => s
  s.mapWork b fun w => { w with verdict := some v, deferred := false, retry := false }

/-! The decision (R388, R389). -/

/-- The queue depth in flits of the route's port to a node (R388, R396). -/
def State.pathDepth (s : State) (n : BitVec 19) : Nat :=
  match s.routes.find? fun e => e.1 = n.toNat with
  | some e => s.qdepth e.2
  | none => 0

/-- The costs of staying and of moving (R388); `q` is the PCI Express transmit queue's depth, which no register shows
(log entry 40). -/
def State.moveCosts (s : State) (e : Leaf) (q : Nat) : Nat × Nat :=
  let c := s.migcfg.toNat
  let units := pageBytes e.psize / 65536
  let short := s.migfree.toNat < field c 27 12 + units
  let lane := if e.rem then s.pathDepth e.node else if isHostPa e.frame then q else 0
  (e.acnt * (field c 7 0 + lane / 16), units * (field c 39 28 + (if short then field c 51 40 else 0)))

/-- The victim among the local HBM pages that nothing pins (R389): the least access count, then the lowest frame. -/
def State.victimPage (s : State) (b : Addr) : Option (Nat × Leaf) :=
  (s.leaves.filter fun l => l.2.inHbm && l.1 ≠ b.toNat && (s.pins l.1 l.2).isEmpty).foldl (fun (o : Option (Nat × Leaf)) l =>
    match o with
    | none => some l
    | some v => if l.2.acnt < v.2.acnt || (l.2.acnt = v.2.acnt && l.2.frame < v.2.frame) then some l else some v) none

/-- A page is to be copied to a local frame (R388, R389): it waits for its own pins, takes a frame, or a victim. -/
def State.decideCopy (s : State) (b : Addr) (e : Leaf) (m : MigPlan) : State :=
  let units := pageBytes e.psize / 65536
  let own := s.pins b.toNat e
  if e.wr && !own.isEmpty then s.deferWork b own
  else if units ≤ s.migfree.toNat then
    if s.roomFor e true m.frame m.mbase then
      { s.pageDecided b (.copy e.wr m.frame m.mbase) with migfree := s.migfree - BitVec.ofNat 24 units }
    else s
  else
    match s.victimPage b with
    | none => s.deferWork b ((s.leaves.filter fun l => l.2.inHbm && l.1 ≠ b.toNat).flatMap fun l => s.pins l.1 l.2)
    | some (_, v) =>
      if s.roomFor v false m.home m.homeMeta then
        { s.placePage v false m.home m.homeMeta with migfree := s.migfree + BitVec.ofNat 24 (pageBytes v.psize / 65536) }
      else s

/-- A page decided about, at a leaf that may be present or not (R387, R388). -/
def State.decide (s : State) (b : Addr) (m : MigPlan) : State :=
  match walk s b.toNat with
  | .invalid _ => s.pageDecided b .map
  | .absent none => s.pageDecided b .refuse
  | .present e =>
    let c := s.moveCosts e m.q
    if c.1 ≤ c.2 || e.inHbm || isAperture e.frame then s.pageDecided b .map else s.decideCopy b e m
  | .absent (some e) =>
    let c := s.moveCosts e m.q
    if e.d0.getLsbD 63 then s.pageDecided b .refuse
    else if !e.rem && !(isDeviceMem s.tier2 e.frame || isHostPa e.frame || isAperture e.frame) then s.pageDecided b .refuse
    else if c.1 ≤ c.2 || e.inHbm || isAperture e.frame then s.pageDecided b .map else s.decideCopy b e m

/-- F2 takes a hint about a page, which is the first message of its mailbox: a page that is present comes to be decided
about (R351, R387). -/
def State.takeHints (s : State) (b : Addr) : State :=
  match s.told 2 .hint with
  | none => s
  | some m =>
    if s.pageBase (msgWord m 1) = b then
      let t := { s.takeMessage 2 with hints := s.hints.filter fun h => h.toNat != msgWord m 1 }
      match walk s b.toNat with
      | .present _ => t.takeWork b
      | _ => t
    else s

/-- `MIGRATION_DECISION` (R388, R389): of a page that a fault, a residency request or a hint has brought to F2. A deferred
decision runs again after a pin is released. -/
def execMigrationDecision (va : Addr) (m : MigPlan) (s : State) : Out :=
  let b := s.pageBase va.toNat
  let s := s.takeHints b
  match s.pageWork b with
  | none => .next s
  | some w => if w.verdict.isSome || (w.deferred && !w.retry) then .next s else .next (s.decide b m)

/-! Page faults (R354). -/

/-- The first message of F2's mailbox is the fault message of the group at a place (R351, R354). -/
def State.faultTold (s : State) (p : Nat) : Bool :=
  match s.told 2 .fault with
  | some m => msgTag m == (placeKey p (s.group p)).toNat
  | none => false

/-- `PAGE_FAULT_SERVICE` (R354): F2 takes a fault message, and merges it with the page's other faults. A group that joins a
deferred decision carries its cause as well (R389). -/
def execPageFaultService (p : Nat) (s : State) : Out :=
  match (s.group p).fault with
  | none => .next s
  | some f =>
    if f.wait = .service && s.faultTold p then
      let s := s.takeMessage 2
      let b := s.pageBase f.info.addr.toNat
      let s := match s.pageWork b with
        | some w => if w.deferred then s.noteDefer p w.cause false else s
        | none => s
      .next (s.takeWork b)
    else .next s

/-- A waiting group resumes at its faulting instruction (R354, R291). -/
def State.resumeFault (s : State) (p : Nat) : State :=
  let s := s.setGroup p { s.group p with fault := none }
  if isMast p then s else s.resumeGroup p

/-- A refused page goes from F2 to F3 (R354). -/
def State.tellRefusal (s : State) (p : Nat) (addr : Dword) : State :=
  s.post .refusal 3 2 ((placeKey p (s.group p)).setWidth 32) addr

/-- A waiting group's fault is final, and a section is killed (R354, R421, R291). -/
def State.refuseFault (s : State) (p : Nat) : State :=
  let g := s.group p
  match g.fault with
  | none => s
  | some f =>
    if isMast p then (s.setGroup p { g with fault := none }).killSection p f.record 0x0C
    else
      let r := { f.record with d0 := f.record.d0 ||| BitVec.twoPow 64 52 }
      (s.setGroup p { g with fault := some { f with wait := .disposition, record := r } }).tellRefusal p f.info.addr |>.entry 1 (placeDie p) r.dwords

/-- F2 is done with a page, and every merged group goes on. -/
def State.resumePage (s : State) (b : Addr) : State :=
  let ps := s.waitingOn b
  ps.foldl (fun s p => s.resumeFault p) (s.endWork b)

/-- A verdict about a page carried out (R354, R388): `ext` are the bytes that F4 has carried from a peer. -/
def State.carryOut (s : State) (b : Addr) (v : PageVerdict) (ext : List (Byte × Bool)) : State :=
  match v with
  | .refuse => let ps := s.waitingOn b; ps.foldl (fun s p => s.refuseFault p) (s.endWork b)
  | .map =>
    let s := match walk s b.toNat with
      | .absent (some e) => s.putDword e.entry (e.d0 ||| BitVec.twoPow 64 63)
      | _ => s
    s.resumePage b
  | .copy moved frame mbase =>
    match s.leafOf b.toNat with
    | none => s.resumePage b
    | some e =>
      let units := pageBytes e.psize / 65536
      if e.inHbm then ({ s with migfree := s.migfree + BitVec.ofNat 24 units } : State).resumePage b
      else if moved && !(s.pins b.toNat e).isEmpty then
        ({ s with migfree := s.migfree + BitVec.ofNat 24 units } : State).deferWork b (s.pins b.toNat e)
      else if e.rem then
        (if ext.length = pageBytes e.psize then (s.placeRemote e frame ext).resumePage b else s)
      else (s.placePage e true frame mbase).resumePage b

/-- `PAGE_FAULT_RESOLVED` (R354). -/
def execPageFaultResolved (va : Addr) (ext : List (Byte × Bool)) (s : State) : Out :=
  let b := s.pageBase va.toNat
  match (s.pageWork b).bind (·.verdict) with
  | none => .next s
  | some v => .next (s.carryOut b v ext)

/-- `RESIDENCY_REQUEST_SERVICE` (R155): F2 takes the request that is first in its mailbox. A page that has come to be present, or that has
no leaf, is dropped. -/
def execResidencyRequestService (s : State) : Out :=
  match s.told 2 .residency with
  | none => .next s
  | some m =>
    let va := BitVec.ofNat 57 (msgWord m 1)
    let t := { s.takeMessage 2 with resReqs := s.resReqs.filter (· != va) }
    match walk s va.toNat with
    | .absent (some _) => .next (t.takeWork (s.pageBase va.toNat))
    | _ => .next t

end Sys2Proof.Machine
end

