-- ==== Sys2Proof/Machine/Debug.lean ====
section
/-! DEFINITION. What a debugger and a host observe: halts, steps and the reading and writing of a group's state (R441 to
R443), core dumps (R429, R430), PC samples (R433, R434), and the trace rings' sync and loss packets (R438, R439). -/

namespace Sys2Proof.Machine

open Sys2Proof

/-! Halts (R441 to R443). -/

/-- The group or section that a tag names (R13, R283, R443); a tag that is a live group's key names that group. -/
def State.tagPlace (s : State) (key : Nat) : Option Nat :=
  match s.placeOf key with
  | some p => some p
  | none => (s.groups.find? fun e => e.2.live && isMast e.1 && (placeKey e.1 e.2).toNat = key).map (·.1)

/-- The slot by which a halt request reports a group: A, or B where A is FREE. -/
def Group.mainSlot (g : Group) : SlotId := if g.slotA.state = .free then .B else .A

/-- The held instruction of a slot has its word behind it: every one but the start of a clause, whose fetch is held, a decision of the
slot's stack, which is made again, and a `REGGROW`, at whose word the slot waits. -/
def Hold.issued (h : Hold) : Bool :=
  match h.instr with
  | .clauseStart _ _ | .fork _ _ | .join | .exit | .reggrow _ => false
  | _ => true

/-- The word that a halt reports for a slot (R441): the one that it issues next, past one that has issued and is held (R147). -/
def State.haltWord (s : State) (p : Nat) (sl : SlotId) : Addr :=
  let g := s.group p
  let x := g.slot sl
  s.nextWord p (if g.hold.any fun h => h.slot = sl && h.issued then x.past else x)

/-- A group halted by request (R441, R442). -/
def State.haltPlace (s : State) (p : Nat) : State :=
  let g := s.group p
  if g.halted then s
  else
    let sl := g.mainSlot
    s.haltAt p sl (fault 0x13) (s.haltWord p sl)

/-- `HALT_GROUP` (R443). -/
def execHaltGroup (s : State) : Out :=
  match s.message 7 0x51 with
  | none => .next s
  | some m =>
    if bitOf (msgWord m 1) 0 then .next s
    else
      match s.tagPlace (msgTag m) with
      | none => .next (s.takeMessage 7)
      | some p => .next ((s.takeMessage 7).haltPlace p)

/-- `HALT_KERNEL` (R443). -/
def execHaltKernel (s : State) : Out :=
  match s.message 7 0x51 with
  | none => .next s
  | some m =>
    if !bitOf (msgWord m 1) 0 then .next s
    else
      let ps := s.livePlaces.filter fun p => (s.ctx (s.group p).ctx).runs (BitVec.ofNat 32 (msgWord m 2))
      .next (ps.foldl (fun s p => s.haltPlace p) (s.takeMessage 7))

/-- A halted group resumed, or let issue one instruction of a slot (R443). -/
def State.unhalt (s : State) (p : Nat) (stepped : Option SlotId) : State :=
  let g := s.group p
  if !g.halted then s
  else
    let s := s.setGroup p { g with halted := false, stepSlot := stepped, stepOver := false }
    if isMast p then s else s.resumeGroup p

/-- `RESUME` (R443). -/
def execResume (s : State) : Out :=
  match s.message 7 0x52 with
  | none => .next s
  | some m =>
    if bitOf (msgWord m 1) 0 then .next s
    else
      match s.tagPlace (msgTag m) with
      | none => .next (s.takeMessage 7)
      | some p => .next ((s.takeMessage 7).unhalt p none)

/-- `STEP` (R443). -/
def execStep (s : State) : Out :=
  match s.message 7 0x52 with
  | none => .next s
  | some m =>
    if !bitOf (msgWord m 1) 0 then .next s
    else
      match s.tagPlace (msgTag m) with
      | none => .next (s.takeMessage 7)
      | some p => .next ((s.takeMessage 7).unhalt p (some (if bitOf (msgWord m 1) 1 then .B else .A)))

/-- The halted group that a message names, with the address that it gives (R443). -/
def State.haltedBy (s : State) (m : List Dword) : Option (Nat × Nat) :=
  let a := msgWord m 1
  match s.tagPlace (msgTag m) with
  | none => none
  | some p =>
    let g := s.group p
    if g.halted && a % 128 = 0 && s.physOk a (groupRecordBytes g.vgran) then some (p, a) else none

/-- `STATE_WRITE` (R443, R342). -/
def execStateWrite (s : State) : Out :=
  match s.message 7 0x53 with
  | none => .next s
  | some m =>
    match s.haltedBy m with
    | none => .next (s.takeMessage 7)
    | some (p, a) => .next ((s.takeMessage 7).devPuts a (s.groupRecord p))

/-- A slot with the mode and the condition bits of its record (R343, R443). -/
def State.loadSlot (s : State) (x : Slot) (a : Nat) : Slot :=
  let y := (s.readSlot a).1
  let x := { x with cc := y.cc }
  if y.gmPoison || gmValid y.gm then { x with gm := y.gm, gmPoison := y.gmPoison } else x

/-- A group's registers loaded from a record (R443). -/
def State.loadGroup (s : State) (p a : Nat) : State :=
  let g := s.group p
  s.setGroup p { g with
    v := Tab.puts g.v (s.readV a g.vgran), s := Tab.puts g.s (s.readS a 63), p := Tab.puts g.p (s.readPs a),
    slotA := s.loadSlot g.slotA (a + 0x40), slotB := s.loadSlot g.slotB (a + 0x80) }

/-- `STATE_READ_BACK` (R443). -/
def execStateReadBack (s : State) : Out :=
  match s.message 7 0x54 with
  | none => .next s
  | some m =>
    match s.haltedBy m with
    | none => .next (s.takeMessage 7)
    | some (p, a) => .next ((s.takeMessage 7).loadGroup p a)

/-- A mast core claimed or released by a debugger (R443, R291). -/
def State.claimMast (s : State) (m : List Dword) (on : Bool) : State :=
  let k := field (msgWord m 1) 7 5 * 32 + field (msgWord m 1) 4 0
  (s.takeMessage 7).setMast k { s.mast k with claimed := on }

/-- `MAST_CLAIM` (R443). -/
def execMastClaim (s : State) : Out :=
  match s.message 7 0x55 with
  | none => .next s
  | some m => if bitOf (msgWord m 1) 8 then .next s else .next (s.claimMast m true)

/-- `MAST_RELEASE` (R443). -/
def execMastRelease (s : State) : Out :=
  match s.message 7 0x55 with
  | none => .next s
  | some m => if bitOf (msgWord m 1) 8 then .next (s.claimMast m false) else .next s

/-! Registers that a dump reads. -/

/-- MASTSTAT of a mast core (R299). -/
def State.mastStat (s : State) (k : Nat) : Nat :=
  let m := s.mast k
  let g := fun (n : Nat) => s.group (2 ^ 18 + 4 * k + n)
  let busy := ((List.range 4).map fun n => oneIf (g n).live * 2 ^ n).sum
  let parked := ((List.range 4).map fun n => oneIf ((g n).live && ((g n).fault.isSome || (g n).halted)) * 2 ^ n).sum
  oneIf m.allbroken * 2 ^ 63 + m.broken.length * 2 ^ 54 + m.queue.length * 2 ^ 41 + m.ring.length * 2 ^ 16 + busy * 2 ^ 5 +
    parked * 2 + oneIf (!m.ring.isEmpty)

/-- MIGSTAT (R390): the free frames, and the groups parked on deferred decisions. -/
def State.migStat (s : State) : Nat :=
  s.migfree.toNat * 2 ^ 40 +
    (((s.work.filter (·.deferred)).flatMap fun w => (s.waitingOn w.va).filter fun p => !isMast p)).length

/-! Core dumps (R429, R430). -/

/-- A dump's record: a prefix with its type and its bytes, and a body padded with zeros (R429). -/
def dumpRecord (type n : Nat) (body : List PWord) : List PWord :=
  recDword (type * 2 ^ 56 + n) ++ recDword 0 ++ body ++ recZeros (n / 4 - 4 - body.length)

/-- A mast core's record (R429). -/
def State.mastRecord (s : State) (k : Nat) : List PWord :=
  dumpRecord 2 128 (recDword (s.mastStat k) ++ (List.range 4).flatMap fun n =>
    let p := 2 ^ 18 + 4 * k + n
    let g := s.group p
    if !g.live then recDword 0 ++ recDword 0
    else recDword (s.nextWord p (g.slot g.mainSlot)).toNat ++ recDword ((g.sect.map fun x => x.req.lockpa).getD 0))

/-- The header of a context's image as it would stand if it were saved (R338, R344). -/
def State.ctxHeader (s : State) (c : Nat) : List PWord :=
  let x := s.ctx c
  let ks := s.ctxTeams c
  let n := ks.length + x.restore.length
  let put := fun (t : Tab PWord) (off v : Nat) => t.put (off / 4) (recWord v)
  let putD := fun (t : Tab PWord) (off v : Nat) => put (put t off v) (off + 4) (v / 2 ^ 32)
  let due := ((ks.flatMap fun k => s.liveGroupsOf (s.team k)).map fun p => s.answersDue p).sum
  let t : Tab PWord := (List.range 64).map fun i => (i, s.devWord (x.image + 4 * i))
  let t := putD (putD (put (put (putD (putD t 0x48 x.next) 0x50 x.finished) 0x58 n) 0x60 due) 0x68
    (if n = 0 then 0 else s.recordsOffset c)) 0x70 (s.imageSize c)
  let t := put t 0x5C 1
  (List.range 64).map fun i => t.look i {}

/-- The records of a context and of its teams (R429). -/
def State.ctxRecords (s : State) (c : Nat) : List (List PWord) :=
  dumpRecord 3 272 (s.ctxHeader c) :: (s.ctxTeams c).map fun k =>
    let r := s.teamRecord k
    dumpRecord 4 (16 + 4 * r.length) r

/-- The contexts of a dump's target, by queue and then launch order (R429). -/
def State.dumpCtxs (s : State) (queue : Option Nat) : List Nat :=
  match queue with
  | some q => (s.queueCtxs q).map (·.1)
  | none => (List.range 64).flatMap fun q => (s.queueCtxs q).map (·.1)

/-- The fault records of the target's groups that await a disposition, in fseq order (R429). -/
def State.dumpFaults (s : State) (cs : List Nat) : List (List PWord) :=
  let fs : List FaultRec := s.livePlaces.filterMap fun p =>
    match (s.group p).fault with
    | some f => if f.wait = .disposition && cs.contains (s.group p).ctx then some f.record else none
    | none => none
  (sortBy (fun (r : FaultRec) => r.d6.toNat % 2 ^ 32) fs).map fun r => dumpRecord 5 80 (r.dwords.flatMap fun d => recDword d.toNat)

/-- The records of a complete dump (R429). -/
def State.dumpRecords (s : State) (queue : Option Nat) : List (List PWord) :=
  let cs := s.dumpCtxs queue
  let l := s.rlog
  let package := dumpRecord 1 256 ([s.node.toNat, s.svn.toNat, s.clock.toNat, s.migStat, l.stale.toNat * 2 ^ 32 + l.loss.toNat,
    l.dropped.toNat * 2 ^ 32 + l.dup.toNat, s.err.tail.toNat].flatMap fun d => recDword d)
  package :: (List.range 256).map (fun k => s.mastRecord k) ++ cs.flatMap (fun c => s.ctxRecords c) ++ s.dumpFaults cs

/-- The closing zero-length read of a piece of a host buffer fails, with a PCI Express status, or a host's header write does: what the
host answers is free (R404, R430; log entry 42). -/
def State.pieceFails (s : State) (k : Nat) : Bool := (Config.freeWord (s.draws + 2 + k)).getLsbD 0
/-- The completion status of such a read: Unsupported Request 1 or Completer Abort 4. -/
def State.pieceCode (s : State) : Nat := if (Config.freeWord (s.draws + 1)).getLsbD 0 then 1 else 4

/-- The first byte of a run of a host buffer that lies in a 4 KiB piece whose closing read fails (R430). -/
def State.badPiece (s : State) (base off n : Nat) : Option Nat :=
  if !isHostPa base || !s.hostUp then none
  else (((List.range ((off + n - 1) / 4096 - off / 4096 + 1)).map (off / 4096 + ·)).find? fun k => s.pieceFails (k + 1)).map fun k =>
    max off (4096 * k)

/-- The offset of the first byte of a run that cannot be written, from the start of the dump (R430): a byte that is
not in the map, the first of a host run that no port reaches, or the first of a host piece whose closing read fails. -/
def State.badByte (s : State) (base off n : Nat) : Option Nat :=
  let out := if s.writable (base + off) n then none
    else ((List.range n).find? fun i =>
      let a := base + off + i
      !s.writable a 1).map (off + ·)
  match out, s.badPiece base off n with
  | some a, some b => some (min a b)
  | some a, none => some a
  | none, b => b

/-- How a dump stands: whether it has stopped, its status, the whole records and their end, and the failing byte. -/
structure DumpState where
  status : Nat := 0
  written : Nat := 0
  bytes : Nat := 0x80
  foff : Nat := 0
  deriving DecidableEq, Repr

/-- A dump's next record: it stops at a record that does not fit or at a write that fails (R430). -/
def State.dumpOne (s : State) (base size : Nat) (d : DumpState) (r : List PWord) : State × DumpState :=
  let n := 4 * r.length
  if d.status ≠ 0 then (s, d)
  else if size < d.bytes + n then (s, { d with status := 1 })
  else
    match s.badByte base d.bytes n with
    | none => (s.devPuts (base + d.bytes) r, { d with written := d.written + 1, bytes := d.bytes + n })
    | some f => (s.devPuts (base + d.bytes) (r.take ((f - d.bytes) / 4)), { d with status := 2, foff := f })

/-- The dump header (R430). -/
def dumpHeader (d : DumpState) (total needed fcode clock0 clock1 : Nat) : List Dword :=
  [0x50444B53 + 2 ^ 32 + 128 * 2 ^ 48, d.status + d.written * 2 ^ 32, total, d.bytes, needed, d.foff,
   if d.status = 2 then fcode else 0, clock0, clock1].map fun v => BitVec.ofNat 64 v

/-- The code of a dump's failed write (R430): `FLT.LINK` for a host piece that no port reaches (R404), the status of a closing read that
fails, and for an address without memory a class of R14, which the spec does not name (log entry 42). -/
def State.dumpCode (s : State) (a : Nat) : Nat :=
  if !isHostPa a || !s.physOk a 1 then 1 + (Config.freeWord s.draws).toNat % 0x14 else if !s.hostUp then 0x0B else s.pieceCode

/-- A dump written and reported (R429, R430), in one clock. -/
def State.dump (s : State) (base size : Nat) (queue : Option Nat) : State :=
  let rs := s.dumpRecords queue
  let needed := 0x80 + (rs.map fun r => 4 * r.length).sum
  let r := rs.foldl (fun (x : State × DumpState) r => x.1.dumpOne base size x.2 r) (s, {})
  let hdr := dumpHeader r.2 rs.length needed (s.dumpCode (base + r.2.foff)) s.clock.toNat s.clock.toNat
  let bad := !s.writable base 128 || (isHostPa base && s.pieceFails 0)
  let s := { r.1 with draws := s.draws + 3 + (size / 4096 + 1) }
  let s := if bad then s
    else s.devWrite base (bytesOfDwords (hdr ++ List.replicate (16 - hdr.length) 0))
  s.report 9 0 hdr

/-- `CORE_DUMP_REQUEST` (R429): the groups that it halts are resumed, unless they are to stay halted. -/
def execCoreDumpRequest (s : State) : Out :=
  match s.message 7 0x41 with
  | none => .next s
  | some m =>
    let base := msgWord m 1
    let d3 := msgWord m 3
    let s := s.takeMessage 7
    if msgWord m 2 < 128 || base % 4096 ≠ 0 || 1 < field d3 7 6 then .next s
    else
      let queue := if field d3 7 6 = 1 then some (field d3 5 0) else none
      let cs := s.dumpCtxs queue
      let ps := s.livePlaces.filter fun p => cs.contains (s.group p).ctx && !(s.group p).halted
      let s := (ps.foldl (fun s p => s.haltPlace p) s).dump base (msgWord m 2) queue
      .next (if bitOf d3 8 then s else ps.foldl (fun s p => s.unhalt p none) s)

/-! PC samples (R432 to R434). -/

/-- The records that the sample ring holds (R432). -/
def Sampler.entries (x : Sampler) : Nat := 2 ^ (6 + field x.ctl.toNat 55 52)

/-- The code of a wait (R434). -/
def waitStall : Wait → Nat
  | .shipW => 6 | .waitk _ _ => 7 | .cpwaitSrc _ => 8 | .cpwaitVis _ => 9 | .lzwait _ _ => 10 | .bar _ => 11
  | .cbar _ => 12 | .reggrow _ _ => 13 | .yieldc _ _ => 14 | .trap => 15

/-- The code of the moment's timing, which the state does not show (log entry 43): the clause fetch of a slot that runs no clause is not
complete, or the matrix engine does not accept the next word. -/
def momentCode (x : Slot) (code : Nat) : Nat :=
  if code = 19 && x.clause.isNone then 19
  else if code = 27 && (x.word?.any fun w => limitOf w = 3) then 27
  else 31

/-- The code of what keeps a slot that could issue from it in this clock (R434): its last issue, the limits of one clock with R113, or
the rotation. -/
def State.turnCode (s : State) (p : Nat) (sl : SlotId) : Nat :=
  let ns := s.issuesOf (schedOf p)
  if ns.any fun n => n.place = p && n.slot = sl && (s.clock - n.clock).toNat < 4 then 28
  else if (s.limited (p, sl) && ns.any fun n => n.clock = s.clock) || s.sharedHeld p sl then 29
  else if !s.turnOf p sl then 30
  else 31

/-- The stall reason of a slot (R434): the lowest code that applies. -/
def State.stallCode (s : State) (p : Nat) (sl : SlotId) (code : Nat) : Nat :=
  let g := s.group p
  if g.halted then 1
  else if g.fault.isSome then 2
  else if (s.ctx g.ctx).phase ≠ .run then 3
  else
    match (g.slot sl).state with
    | .parked _ => 4
    | .exitwait => 5
    | .waiting w => waitStall w
    | _ =>
      if g.hold.isSome then 16
      else
        let rest := min (min (momentCode (g.slot sl) code) ((s.stalled p sl).getD 31)) (s.turnCode p sl)
        match g.file with
        | .slow => if g.since.isSome then 17 else rest
        | .movingIn => 18
        | .movingOut => 18
        | .active => rest

/-- The resident groups of a scheduler, lowest slot first. -/
def State.residents (s : State) (core k : Nat) : List Nat :=
  ((List.range 32).map fun i => 4 * i + k).filter fun i =>
    let g := s.group (core * 128 + i)
    g.live && !g.ended

/-- The group that a scheduler samples next (R433). -/
def State.sampled (s : State) (core k : Nat) : Option Nat :=
  let slots := s.residents core k
  let last := s.samp.last.look (core * 4 + k) 128
  match slots.find? fun i => last < i with
  | some i => some i
  | none => slots.head?

/-- The clocks of a sampling period (R432). -/
def Sampler.period (x : Sampler) : Nat := 2 ^ field x.ctl.toNat 62 58

/-- The next scheduler that samples in this clock, by die, core and scheduler: the first with a resident group that has not
done so (R433). -/
def State.nextSampler (s : State) : Option Nat :=
  let x := s.samp
  let from_ := if x.at_ = s.clock then x.taken else 0
  ((s.groups.filter fun e => e.2.live && !e.2.ended && !isMast e.1 && from_ ≤ schedOf e.1).map fun e => schedOf e.1).foldl
    (fun b k => match b with
      | none => some k
      | some j => some (min j k)) none

/-- `PC_SAMPLE` (R433): each scheduler samples once in a clock, in ascending order. The sample reports the word that the group has issued in
the clock, which its scheduler ends by it. -/
def execPcSample (core sampler : Nat) (m : SampleMoment) (s : State) : Out :=
  if 4 ≤ sampler || s.clock.toNat % s.samp.period ≠ 0 || s.nextSampler ≠ some (core * 4 + sampler) then .next s
  else
    match s.sampled core sampler with
    | none => .next s
    | some i =>
      let p := core * 128 + i
      let g := s.group p
      let x := { s.samp with at_ := s.clock, taken := core * 4 + sampler + 1 }
      let s := { s with samp := { x with last := x.last.put (core * 4 + sampler) i } }
      if !x.ctl.getLsbD 63 || (x.tail - x.head).toNat = x.entries then
        .next { s with samp := { s.samp with lost := satAdd x.lost 1 } }
      else
        let ns := s.issuedNow p
        let n := (ns.find? (·.slot = .A)).or ns.head?
        let sl := (n.map (·.slot)).getD g.mainSlot
        let y := g.slot sl
        let o := s.originOf (s.ctx g.ctx) ((n.map (·.pc)).getD (s.nextWord p y))
        let stall := if n.isSome then 0 else s.stallCode p sl m.code.toNat
        let a := field x.ctl.toNat 51 12 * 2 ^ 12 + 32 * (x.tail.toNat % x.entries)
        let ds := [stall * 2 ^ 59 + oneIf n.isSome * 2 ^ 58 + slotBit sl * 2 ^ 57 + o.1.toNat,
          o.2.toNat * 2 ^ 32 + (placeKey p g).toNat, y.mask.toNat, s.clock.toNat]
        let s := s.devWrite a (ds.flatMap fun d => bytesOf 8 d)
        .next { s with samp := { s.samp with tail := x.tail + 1 } }

/-- The schedulers that have a resident group. -/
def State.samplers (s : State) : List Nat :=
  s.groups.foldl (fun l e => if e.2.live && !e.2.ended && !isMast e.1 && !l.contains (schedOf e.1) then schedOf e.1 :: l else l) []

/-- A scheduler takes `n` samples that are dropped, at least one (R433). -/
def State.dropSamples (s : State) (k n : Nat) : State :=
  let slots := s.residents (k / 4) (k % 4)
  let from_ := (slots.findIdx? fun i => s.samp.last.look k 128 < i).getD 0
  let x := s.samp
  { s with samp := { x with last := x.last.put k (slots.getD ((from_ + n - 1) % slots.length) 128), lost := satAdd x.lost n } }

/-- The samples that a sampler which is off takes and drops while `n` clocks pass: those of this clock which have not been taken, and one of
each scheduler in every sampling clock before the last of them (R433). -/
def State.missSamples (s : State) (n : Nat) : State :=
  let x := s.samp
  let c := s.clock.toNat
  let later := (c + n - 1) / x.period - c / x.period
  if x.ctl.getLsbD 63 then s
  else s.samplers.foldl (fun t k =>
    let m := later + oneIf (c % x.period = 0 && !(x.at_ = s.clock && k < x.taken))
    if m = 0 then t else t.dropSamples k m) s

/-! Trace rings (R438, R439). -/

/-- `TRACE_SYNC` (R438): once in a clock. -/
def execTraceSync (die : Nat) (s : State) : Out :=
  if 8 ≤ die then .next s else .next (s.sync die)

/-- `TRACE_LOSS_RECOVERY` (R439): a loss packet and a sync packet. -/
def execTraceLossRecovery (die : Nat) (s : State) : Out :=
  if 8 ≤ die then .next s else .next (s.recover die)

end Sys2Proof.Machine
end

