-- ==== Sys2Proof/Machine/Host.lean ====
section
/-! DEFINITION. The host's registers (R8, R378, R379): the queues (R331, R333, R364), mailboxes (R353), format windows
(R234), mast rings and broken marks (R293, R299), race log (R312), page-table root (R383), error, sample, sketch and trace
registers (R428, R431 to R440), and the host's accesses through BAR2 (R403). Where each register lies, and what it reads as,
stands in Bar0.lean. -/

namespace Sys2Proof.Machine

open Sys2Proof

/-! Fields. -/

/-- The bits of a value in fields given as highest and lowest bit. -/
def keepBits (v : Nat) (fs : List (Nat × Nat)) : Dword := BitVec.ofNat 64 ((fs.map fun f => field v f.1 f.2 * 2 ^ f.2).sum)
/-- A 32-bit W1C field after a write (R8). -/
def clearBits (x : Word) (v : Dword) : Word := x &&& ~~~(v.setWidth 32)
/-- The enable bit of a register. -/
def en (v : Dword) : Bool := v.getLsbD 63
/-- A pin is released where an enable bit goes from 1 to 0 (R240). -/
def State.pinOff (s : State) (old new : Dword) : State := if en old && !en new then s.unpinned else s

/-- Bring-up has come to PTROOT: the host has enabled ERRCTL, HRCTL and RLOGCTL since firmware was ready (R453). -/
def State.mayRoot (s : State) : Bool := s.bootReady && s.begun.err && s.begun.hr && s.begun.rlog
/-- Bring-up has come to the queues: the host has enabled PTROOT (R453). -/
def State.mayQueue (s : State) : Bool := s.bootReady && s.begun.root

/-! Queues. -/

/-- `QCTL_WRITE` (R331, R347): refused before bring-up has come to the queues (R453), for a size above 10, and where it changes the
size while the queue is enabled. -/
def execQctlWrite (q : BitVec 6) (v : Dword) (s : State) : Out :=
  let x := s.queue q.toNat
  let v' := keepBits v.toNat [(63, 63), (58, 56), (55, 52), (47, 32)]
  let size := field v.toNat 55 52
  if !s.mayQueue || 10 < size || (en x.ctl && size ≠ field x.ctl.toNat 55 52) then .next s
  else .next ((s.setQueue q.toNat { x with ctl := v' }).setPrio q.toNat (field v.toNat 58 56))

/-- `QTAIL_WRITE` (R331): the doorbell. -/
def execQtailWrite (q : BitVec 6) (v : Dword) (s : State) : Out :=
  .next (s.setQueue q.toNat { s.queue q.toNat with tail := v.setWidth 32 })

/-- `QSTAT_WRITE` (R333): a queue whose error is cleared goes on at the same command. -/
def execQstatWrite (q : BitVec 6) (v : Dword) (s : State) : Out :=
  let x := s.queue q.toNat
  let y := { x with stat := x.stat &&& ~~~(keepBits v.toNat [(63, 56)]) }
  .next (s.setQueue q.toNat (if x.err ≠ 0 && y.err = 0 then y.restart else y))

/-- `QSPBUF_WRITE` (R364): dword 0 or dword 1, refused while a fused context of the queue is live. -/
def execQspbufWrite (q : BitVec 6) (hi : Bool) (v : Dword) (s : State) : Out :=
  let x := s.queue q.toNat
  if s.fusedLive q.toNat then .next s
  else if hi then .next (s.setQueue q.toNat { x with spbuf1 := keepBits v.toNat [(56, 16)] })
  else if en v && field v.toNat 62 52 = 0 then .next s
  else
    let y := keepBits v.toNat [(63, 63), (62, 52), (51, 16)]
    .next ((s.setQueue q.toNat { x with spbuf0 := y }).pinOff x.spbuf0 y)

/-- A write of QBASE (R331, R453), refused while the queue is enabled. -/
def State.writeQbase (s : State) (q : Nat) (v : Dword) : State :=
  let x := s.queue q
  if en x.ctl || !s.mayQueue then s else s.setQueue q { x with base := keepBits v.toNat [(51, 12)] }

/-! Mailboxes. -/

/-- `MBIN3_WRITE` (R352, R353, R351, R358): the four dwords as one message of the host, discarded where its type is 0. Until
a firmware image has been loaded, only F5's mailbox accepts it. -/
def execMbin3Write (f : BitVec 3) (v : Dword) (s : State) : Out :=
  let k := f.toNat
  let m := s.mail k
  let d0 := BitVec.ofNat 64 (m.in0.toNat - field m.in0.toNat 55 52 * 2 ^ 52 + 9 * 2 ^ 52)
  if k = 1 || k = 2 || k = 4 then .next (s.setMail k { m with hbad := true })
  else if !s.bootLoaded && k ≠ 5 then .next s
  else if 64 ≤ m.msgs.length then .next (s.setMail k { m with hovf := true })
  else if field d0.toNat 63 56 = 0 then .next s
  else .next (s.setMail k (m.add s.clock hostSource [d0, m.in1, m.in2, v]))

/-- The first message of a function's mailbox is one that no event of the opcode table acts on: a host message of another
type, or this package's own about what is over or needs nothing more. -/
def State.idleMail (s : State) (f : Nat) : Bool :=
  match (s.mail f).msgs with
  | [] => false
  | m :: _ =>
    if msgOfHost m then !knownType f (field (m.getD 0 0).toNat 63 56)
    else if (s.told f .fault).isSome then
      !s.groups.any fun e => s.faultTold e.1 && (match e.2.fault with
        | some x => x.wait = .service
        | none => false)
    else (s.told f .hint).isNone && (s.told f .residency).isNone

/-- A function takes a message that no event of the opcode table acts on (R351). -/
def State.readMail (s : State) (f : Nat) : State := if s.idleMail f then s.takeMessage f else s

/-- A write of MBIN0 to MBIN2 or of MBSTAT. -/
def State.writeMail (s : State) (k off : Nat) (v : Dword) : State :=
  let m := s.mail k
  match off with
  | 0x00 => s.setMail k { m with in0 := v }
  | 0x08 => s.setMail k { m with in1 := v }
  | 0x10 => s.setMail k { m with in2 := v }
  | 0x20 => s.setMail k { m with hbad := m.hbad && !v.getLsbD 9, hovf := m.hovf && !v.getLsbD 8 }
  | _ => s

/-! Format windows (R233, R234). -/

/-- A format window's dwords. -/
def State.window (s : State) (w : Nat) : List Dword := s.fwin.look w [0, 0, 0, 0]
/-- A refused write of a window (R234). -/
def State.refuseWindow (s : State) (w cause : Nat) : State := { s with fwstat := BitVec.ofNat 64 (w * 2 ^ 12 + cause) }
/-- The lines of a window's view are dropped from the L2 (R234). -/
def State.dropView (s : State) (w : List Dword) : State :=
  let a := (w.getD 1 0).toNat
  s.dropL2 fun l => a ≤ l * 128 && l * 128 < a + viewBytes w

/-- The cause for which a window is not enabled, 0 for none (R234). -/
def State.windowCause (s : State) (n : Nat) (w : List Dword) : Nat :=
  let d := fun (i : Nat) => (w.getD i 0).toNat
  let kind := field (d 0) 57 56
  let D := field (d 0) 55 52
  let k := field (d 0) 51 48
  let N := field (d 0) 39 0
  let a := d 1
  let z := viewBytes w
  let others := s.fwin.filter fun e => e.1 != n && winOk e.2
  if field (d 0) 62 58 ≠ 0 || field (d 0) 47 40 ≠ 0 || 2 ≤ kind || (kind = 0 && d 3 ≠ 0) then 1
  else if D < 2 || 8 < D || k < 2 || D < k then 2
  else if N = 0 || N % 8 ≠ 0 || (kind = 1 && N % 32 ≠ 0) then 3
  else if a % 65536 ≠ 0 || !isAperture a || 2 ^ 51 < a + z ||
      others.any (fun e => (e.2.getD 1 0).toNat < a + z && a < (e.2.getD 1 0).toNat + viewBytes e.2) then 4
  else if d 2 % 128 ≠ 0 || isHostPa (d 2) || !s.physOk (d 2) (D * N / 8) ||
      (kind = 1 && (isHostPa (d 3) || !s.physOk (d 3) (N / 32))) then 5
  else 0

/-- `FWIN_ENABLE` (R234). -/
def execFwinEnable (w : BitVec 4) (v : Dword) (s : State) : Out :=
  let n := w.toNat
  let x := s.window n
  if !en v then .next s
  else if winOk x then .next (s.refuseWindow n 6)
  else
    let y := x.set 0 v
    let c := s.windowCause n y
    if c ≠ 0 then .next (s.refuseWindow n c)
    else .next (({ s with fwin := s.fwin.put n y } : State).dropView y)

/-- `FWIN_DISABLE` (R234): the window of an enabled one ends once what it decodes is written. A write with en = 0 whose other fields differ
from the enabled window's counts as one of the fields of dword 0 while en = 1, and is refused (DESIGN CHOICE, log entry 39). -/
def execFwinDisable (w : BitVec 4) (v : Dword) (s : State) : Out :=
  let n := w.toNat
  let x := s.window n
  let y := keepBits v.toNat [(57, 56), (55, 52), (51, 48), (39, 0)]
  if en v then .next s
  else if !winOk x then .next { s with fwin := s.fwin.put n (x.set 0 y) }
  else if y ≠ (x.getD 0 0) &&& ~~~(BitVec.twoPow 64 63) then .next (s.refuseWindow n 6)
  else .next { s with fwinOff := s.fwinOff.put n true }

/-- `FWIN_DISABLE_COMPLETE` (R234). -/
def execFwinDisableComplete (w : BitVec 4) (s : State) : Out :=
  let n := w.toNat
  if s.fwinOff.look n false then
    let x := s.window n
    let y := x.set 0 ((x.getD 0 0) &&& ~~~(BitVec.twoPow 64 63))
    .next (({ s with fwin := s.fwin.put n y, fwinOff := s.fwinOff.drop n } : State).dropView x).unpinned
  else .next s

/-- A write of dwords 1 to 3 of a window (R233, R234). -/
def State.writeWindow (s : State) (n i : Nat) (v : Dword) : State :=
  let x := s.window n
  if winOk x then s.refuseWindow n 6 else { s with fwin := s.fwin.put n (x.set i (keepBits v.toNat [(51, 0)])) }

/-! Mast cores (R293, R299). -/

/-- A value that MASTRING may take while the ring holds nothing (R299). -/
def State.ringOk (s : State) (v : Dword) : Bool :=
  let size := field v.toNat 55 52
  let a := field v.toNat 51 0
  let n := 128 * 2 ^ (16 + size)
  !en v || (size ≤ 8 && a % n = 0 && s.physOk a n && !isHostPa a)

/-- `MASTRING_WRITE` (R299). -/
def execMastringWrite (die : BitVec 3) (m : BitVec 5) (v : Dword) (s : State) : Out :=
  let k := die.toNat * 32 + m.toNat
  let x := s.mast k
  let y := keepBits v.toNat [(63, 63), (55, 52), (51, 0)]
  if !x.ring.isEmpty || !s.ringOk y then .next s
  else .next ((s.setMast k { x with ringCtl := y, stuck := false }).pinOff x.ringCtl y)

/-- A MASTCLR write is not ignored: its reserved fields are 0 (R299). -/
def mastclrOk (v : Dword) : Bool := field v.toNat 62 52 = 0 && field v.toNat 2 0 = 0

/-- `MASTCLR_CLEAR_LOCK` (R293). -/
def execMastclrClearLock (die : BitVec 3) (m : BitVec 5) (v : Dword) (s : State) : Out :=
  let k := die.toNat * 32 + m.toNat
  let x := s.mast k
  if en v || !mastclrOk v then .next s
  else .next (s.setMast k { x with broken := x.broken.filter (· != field v.toNat 51 3 * 8) })

/-- `MASTCLR_CLEAR_ALL` (R293). -/
def execMastclrClearAll (die : BitVec 3) (m : BitVec 5) (v : Dword) (s : State) : Out :=
  let k := die.toNat * 32 + m.toNat
  if !en v || !mastclrOk v then .next s
  else .next (s.setMast k { s.mast k with broken := [], allbroken := false })

/-! The race log (R312, R313). -/

/-- `RLOGCTL_WRITE` (R312, R453). -/
def execRlogctlWrite (v : Dword) (s : State) : Out :=
  let l := s.rlog
  if !s.bootReady || 12 < field v.toNat 55 52 || field v.toNat 11 0 ≠ 0 then .next s
  else
    let y := keepBits v.toNat [(63, 63), (55, 52), (51, 0)] |||
      (if l.alias_ && !v.getLsbD 62 then BitVec.twoPow 64 62 else 0)
    let b := { s.begun with rlog := s.begun.rlog || en v }
    .next (({ s with begun := b, rlog := { l with ctl := y, dedup := if en v then [] else l.dedup } } : State).pinOff l.ctl y)

/-! The page-table root (R383, R298). -/

/-- `PTROOT_WRITE` (R383, R298, R453). -/
def execPtrootWrite (v : Dword) (s : State) : Out :=
  let busy := (List.range 256).any fun k => s.mastStat k % 2 ^ 54 ≠ 0
  if !s.mayRoot || busy || !s.liveCtxs.isEmpty then .next s
  else .next { s with ptroot := keepBits v.toNat [(63, 63), (51, 14)], begun := { s.begun with root := s.begun.root || en v } }

/-! Rings of records (R428, R431). -/

/-- A ring's control register may be written (R428, R431, R406): the size is in range, and an enabled ring is empty. -/
def ringWriteOk (old new : Dword) (head tail : Word) : Bool := field new.toNat 55 52 ≤ 10 && !(en old && tail != head)
/-- The fields of a ring's control register (R428). -/
def ringFields (v : Dword) : Dword := keepBits v.toNat [(63, 63), (55, 52), (51, 12)]

/-- A write of a register of the error ring (R428). -/
def State.writeErr (s : State) (off : Nat) (v : Dword) : State :=
  let e := s.err
  match off with
  | 0x00 =>
    if !s.bootReady || !ringWriteOk e.ctl v e.head e.tail then s
    else
      let b := { s.begun with err := s.begun.err || en v }
      ({ s with begun := b, err := { e with ctl := ringFields v } } : State).pinOff e.ctl v
  | 0x08 => { s with err := { e with head := v.setWidth 32 } }
  | 0x18 => { s with err := { e with lost := clearBits e.lost v } }
  | _ => s

/-- A write of a register of the sampler (R431, R432). -/
def State.writeSamp (s : State) (off : Nat) (v : Dword) : State :=
  let x := s.samp
  let per := field v.toNat 62 58
  match off with
  | 0x00 =>
    if !ringWriteOk x.ctl v x.head x.tail || (en v && (per < 8 || 20 < per)) then s
    else ({ s with samp := { x with ctl := keepBits v.toNat [(63, 63), (62, 58), (55, 52), (51, 12)] } } : State).pinOff x.ctl v
  | 0x08 => { s with samp := { x with head := v.setWidth 32 } }
  | 0x18 => { s with samp := { x with lost := clearBits x.lost v } }
  | _ => s

/-- A write of SKCTL (R435): `clr` zeroes the unit's counters and its total. -/
def State.writeSk (s : State) (u : Nat) (v : Dword) : State :=
  let x := s.sk.look u {}
  let y := keepBits v.toNat [(63, 63), (61, 61), (55, 48), (31, 0)]
  if 9 < field v.toNat 55 48 then s
  else if v.getLsbD 62 then
    { s with sk := s.sk.put u { ctl := y, tot := 0 }, skc := s.skc.dropIf fun k => k / 8192 % 4 = u }
  else { s with sk := s.sk.put u { x with ctl := y ||| (x.ctl &&& BitVec.twoPow 64 60) } }

/-- `SKCTL_CLR` (R435). -/
def execSkctlClr (u : BitVec 2) (v : Dword) (s : State) : Out :=
  if v.getLsbD 62 then .next (s.writeSk u.toNat v) else .next s

/-- `TRCTL_WRITE` (R437, R438): a ring that is enabled takes a sync packet first, or its drops begin with it. -/
def execTrctlWrite (die : BitVec 3) (v : Dword) (s : State) : Out :=
  let d := die.toNat
  let r := s.ring d
  if !ringWriteOk r.ctl v r.head r.tail then .next s
  else
    let s := if en r.ctl && !en v then s.flushRing d else s
    let r := s.ring d
    let y := if en r.ctl || !en v then { r with ctl := ringFields v } else { r with ctl := ringFields v, synced := some s.clock }
    let t := ({ s with trace := s.trace.put d y } : State).pinOff r.ctl v
    if en r.ctl || !en v then .next t
    else if y.drops ≠ 0 || y.room = 0 then
      .next { t with trace := t.trace.put d { y with lost := satAdd y.lost 1, drops := satAdd y.drops 1, due := t.duesOf d } }
    else .next (t.putPacket d (1 * 2 ^ 60) s.clock.toNat)

/-- A write of TRHEAD or TRLOST (R431). A ring that has dropped packets recovers as soon as it has room (R439): packets of the clock that it
has not taken yet come after that (log entry 68). -/
def State.writeTrace (s : State) (d off : Nat) (v : Dword) : State :=
  let r := s.ring d
  match off with
  | 0x08 => ({ s with trace := s.trace.put d { r with head := v.setWidth 32 } } : State).recover d
  | 0x18 => { s with trace := s.trace.put d { r with lost := clearBits r.lost v } }
  | _ => s

/-- A write of a register of the host request ring (R406, R453): what waits for room tries again. -/
def State.writeHr (s : State) (off : Nat) (v : Dword) : State :=
  let x := s.hr
  match off with
  | 0x00 =>
    if !s.bootReady || !ringWriteOk x.ctl v x.head x.tail then s
    else
      let b := { s.begun with hr := s.begun.hr || en v }
      ({ s with begun := b, hr := { x with ctl := ringFields v } } : State).retryRings
  | 0x08 => ({ s with hr := { x with head := v.setWidth 32 } } : State).retryRings
  | _ => s

/-! Other registers. -/

/-- A write of BPADDR or BPKID (R440). -/
def State.writeBp (s : State) (n off : Nat) (v : Dword) : State :=
  if off = 8 then { s with bpkid := s.bpkid.put n (v.setWidth 32) }
  else if field v.toNat 1 0 ≠ 0 then s
  else { s with bpaddr := s.bpaddr.put n (keepBits v.toNat [(63, 63), (56, 0)]) }

/-- A write of LINKSTAT (R396). -/
def State.writeLink (s : State) (p : Nat) (v : Dword) : State :=
  let l := s.links.look p {}
  { s with links := s.links.put p { l with lost := l.lost && !v.getLsbD 62, tagfail := BitVec.ofNat 16 (field v.toNat 31 16),
                                           expired := BitVec.ofNat 16 (field v.toNat 15 0) } }

/-- A write of PWRSTAT (R449): bit 7 clears the cause. -/
def State.writePstat (s : State) (d : Nat) (v : Dword) : State :=
  if v.getLsbD 7 then { s with power := s.power.put d { s.power.look d {} with stat := 0 } } else s

/-! BAR2 (R403). -/

/-- Bytes that BAR2 maps. -/
def State.bar2Ok (s : State) (a n : Nat) : Bool := s.physOk a n && !isHostPa a

/-- `HOST_BAR2_READ` (R403, R425): a read at the L2 home at `.s`, which returns the bytes to the host, those of poisoned
words as poisoned; an address with no memory is a fault of the model. -/
def execHostBar2Read (addr len : Nat) (s : State) : Out :=
  if s.bar2Ok addr len then
    .next { s with hostData := (wordParts addr len).flatMap fun e =>
      let x := s.homeWord e.1
      (((bytesOf 4 x.val.toNat).drop e.2.1).take e.2.2.2).map fun b => (b, x.poison) }
  else .fault (.outsideMap addr)

/-- The race metadata of the granules that a write reaches becomes unknown (R403, R303). -/
def State.clearGranules (s : State) (a n : Nat) : State :=
  (s.leaves.filter fun l => l.2.rc && !l.2.rem).foldl (fun s l =>
    let e := l.2
    (List.range (pageBytes e.psize / 64)).foldl (fun s g =>
      let b := e.frame + 64 * g
      if b < a + n && a < b + 64 then s.putDword (e.mbase + 8 * g) 0 else s) s) s

/-- `HOST_BAR2_WRITE` (R403, R425): at the L2 home at `.s`; the words written are poisoned no longer. Before HBM is
trained it is refused (R453). -/
def execHostBar2Write (addr : Nat) (data : List Byte) (s : State) : Out :=
  let n := data.length
  if !s.bar2Ok addr n then .fault (.outsideMap addr)
  else if !s.bootHbm then .next s
  else
    let t := s.devWrite addr data
    let t := (wordParts addr n).foldl (fun t e => t.setWordPoison e.1 false) t
    .next (t.clearGranules addr n)

end Sys2Proof.Machine
end

