-- ==== Sys2Proof/Machine/Crypto.lean ====
section
/-! DEFINITION. The named algorithms of the security function: SHA-384, and RSASSA-PKCS1-v1_5 with it (R357, R358,
R452). -/

namespace Sys2Proof.Machine

open Sys2Proof

/-! SHA-384. -/

/-- The first 80 primes. -/
def shaPrimes : List Nat := (List.range 410).filter fun n => 2 ≤ n && (List.range 21).all fun d => d < 2 || n = d || n % d ≠ 0

/-- The whole part of a root: the largest r below 2^n with r^k at most v. -/
def rootOf (k v : Nat) : Nat → Nat → Nat
  | 0, r => r
  | n + 1, r => rootOf k v n (if (r + 2 ^ n) ^ k ≤ v then r + 2 ^ n else r)

/-- The first 64 bits of the fractional part of a root of a prime. -/
def rootBits (k p : Nat) : Dword := BitVec.ofNat 64 (rootOf k (p * 2 ^ (64 * k)) 72 0)

/-- The constants of the 80 rounds. -/
def shaK : List Dword := shaPrimes.map (rootBits 3)
/-- The initial hash value of SHA-384. -/
def shaInit : List Dword := ((shaPrimes.drop 8).take 8).map (rootBits 2)

/-- The message schedule from its first sixteen words, the latest word first. -/
def shaSchedule : Nat → List Dword → List Dword
  | 0, w => w
  | n + 1, w =>
    let a := w.getD 1 0
    let b := w.getD 14 0
    let s1 := a.rotateRight 19 ^^^ a.rotateRight 61 ^^^ (a >>> 6)
    let s0 := b.rotateRight 1 ^^^ b.rotateRight 8 ^^^ (b >>> 7)
    shaSchedule n ((s1 + w.getD 6 0 + s0 + w.getD 15 0) :: w)

/-- One round on the eight working words. -/
def shaRound (x : List Dword) (k w : Dword) : List Dword :=
  match x with
  | [a, b, c, d, e, f, g, h] =>
    let t1 := h + (e.rotateRight 14 ^^^ e.rotateRight 18 ^^^ e.rotateRight 41) + ((e &&& f) ^^^ (~~~e &&& g)) + k + w
    let t2 := (a.rotateRight 28 ^^^ a.rotateRight 34 ^^^ a.rotateRight 39) + ((a &&& b) ^^^ (a &&& c) ^^^ (b &&& c))
    [t1 + t2, a, b, c, d + t1, e, f, g]
  | _ => x

/-- A big-endian number of bytes. -/
def beNat (bs : List Byte) : Nat := bs.foldl (fun n b => n * 256 + b.toNat) 0
/-- A number as big-endian bytes. -/
def beBytes (n v : Nat) : List Byte := (bytesOf n v).reverse

/-- One block of 128 bytes hashed. -/
def shaBlock (h : List Dword) (b : List Byte) : List Dword :=
  let w := (List.range 16).map fun i => BitVec.ofNat 64 (beNat ((b.drop (8 * i)).take 8))
  let ws := (shaSchedule 64 w.reverse).reverse
  let x := (shaK.zip ws).foldl (fun x e => shaRound x e.1 e.2) h
  (h.zip x).map fun e => e.1 + e.2

/-- The SHA-384 digest of bytes, as 48 bytes. -/
def sha384 (m : List Byte) : List Byte :=
  let pad := m ++ [0x80] ++ List.replicate ((239 - m.length % 128) % 128) 0 ++ beBytes 16 (8 * m.length)
  let h := (List.range (pad.length / 128)).foldl (fun h i => shaBlock h ((pad.drop (128 * i)).take 128)) shaInit
  (h.take 6).flatMap fun d => beBytes 8 d.toNat

/-! RSASSA-PKCS1-v1_5. -/

/-- A power modulo n, for an exponent of at most `k` bits. -/
def powMod (b n : Nat) : Nat → Nat → Nat
  | 0, _ => 1 % n
  | k + 1, e =>
    let r := powMod (b * b % n) n k (e / 2)
    if e % 2 = 1 then r * b % n else r

/-- The encoded message of 384 bytes for a digest. -/
def pkcsEncode (digest : List Byte) : List Byte :=
  [0x00, 0x01] ++ List.replicate 314 0xFF ++
    [0x00, 0x30, 0x41, 0x30, 0x0D, 0x06, 0x09, 0x60, 0x86, 0x48, 0x01, 0x65, 0x03, 0x04, 0x02, 0x02, 0x05, 0x00, 0x04, 0x30] ++ digest

/-- A signature is that of a message under a modulus with the public exponent 65537. -/
def rsaVerify (n sig : Nat) (m : List Byte) : Bool :=
  sig < n && powMod sig n 17 65537 = beNat (pkcsEncode (sha384 m))

/-- The signature of a message under the identity key. -/
def rsaSign (m : List Byte) : Nat := powMod (beNat (pkcsEncode (sha384 m))) Config.identity.1 3072 Config.identity.2

end Sys2Proof.Machine
end

