-- ==== Sys2Proof/Machine/Power.lean ====
section
/-! DEFINITION. Soft errors (R424 to R426), power states, sensors and wear (R449 to R451), bring-up (R358, R453), attestation
(R452) and package reset (R8). -/

namespace Sys2Proof.Machine

open Sys2Proof

/-! Soft errors. -/

/-- The structure of an error as a row of R424's table, its die, the lane or word index, and the physical address, or the register:
its number with, from bit 16, which file it is in: vector 0, scalar 1, predicate 2, translation 3, `gm` 4 (by its slot), uniform 5,
tile 6, accumulator 7, shadow 8 (R427 kind 5; log entry 43). -/
def errReport : ErrPlace → Nat × Nat × Nat × Nat
  | .vreg p r l => (0, placeDie p, l, r)
  | .sreg p r => (1, placeDie p, 0, 0x10000 + r)
  | .preg p r => (1, placeDie p, 0, 0x20000 + r)
  | .xreg p r => (1, placeDie p, 0, 0x30000 + r)
  | .gm p sl => (1, placeDie p, 0, 0x40000 + slotBit sl)
  | .kreg t r => (1, coreDie (t / 16), 0, 0x50000 + r)
  | .tile t n row w => (0, coreDie (t / 16), 32 * row + w, 0x60000 + n)
  | .acc t a i j => (0, coreDie (t / 16), 32 * i + j, 0x70000 + a)
  | .shadow t m i j => (0, coreDie (t / 16), 32 * i + j, 0x80000 + m)
  | .sram c off => (2, coreDie c, off / 4, off)
  | .l1 c w => (if c < 2048 then 2 else 3, coreDie c, w % 32, 4 * w)
  | .l2 w => (3, homeDie (4 * w), w % 32, 4 * w)
  | .dram a => (4, homeDie a, a % 32 / 4, a)
  | .tlb => (5, 0, 0, 0)
  | .metadata a => (6, homeDie a, 0, a)
  | .control die _ => (7, die, 0, 0)

/-- Words poisoned that a slice holds: the copies of host, peer and view words, or those of local memory, whose DRAM keeps its own mark
(R424). -/
def State.poisonSlice (s : State) (w n : Nat) : State :=
  (List.range n).foldl (fun s i =>
    let x := s.l2Word (w + i)
    if !x.valid then s
    else if isFar (4 * (w + i)) || isAperture (4 * (w + i)) then s.setL2 (w + i) { x with poison := true }
    else
      let s := if x.dirty then s
        else { s with dramPoison := s.dramPoison.put (w + i) (s.dramPoison.look (w + i) (s.wordPoison (w + i))) }
      s.setWordPoison (w + i) true) s

/-- Words of memory poisoned in their DRAM: where the slice has a valid copy, that stays as it is (R424). -/
def State.poisonDram (s : State) (w n : Nat) : State :=
  (List.range n).foldl (fun s i =>
    let x := s.l2Word (w + i)
    if !x.valid then s.setWordPoison (w + i) true
    else if x.dirty then s
    else { s with dramPoison := s.dramPoison.put (w + i) true }) s

/-- Words of the race metadata poisoned, wherever they stand. -/
def State.poisonMeta (s : State) (w n : Nat) : State := (List.range n).foldl (fun s i => s.setWordPoison (w + i) true) s

/-- What an uncorrectable error poisons (R424). A table entry is dropped and read again, with no effect. -/
def State.poisonPlace (s : State) (e : ErrPlace) : State :=
  match e with
  | .vreg p r l => let g := s.group p; s.setGroup p (g.setV r l { g.getV r l with poison := true })
  | .sreg p r => let g := s.group p; s.setGroup p { g with s := g.s.put r { g.getS r with poison := true } }
  | .kreg t r => let x := s.team t; s.setTeam t { x with k := x.k.put r { x.k.look r {} with poison := true } }
  | .preg p r => let g := s.group p; s.setGroup p (g.setP r { g.p.look r {} with poison := true })
  | .xreg p r => let g := s.group p; s.setGroup p (g.setX r { g.getX r with poison := true })
  | .gm p sl => let g := s.group p; s.setGroup p (g.setSlot sl { g.slot sl with gmPoison := true })
  | .tile t n row w =>
    let x := s.team t
    let i := n * 4096 + row * 32 + w
    s.setTeam t { x with tile := x.tile.put i { x.tile.look i {} with poison := true } }
  | .acc t a i j =>
    let x := s.team t
    let k := a * 1024 + i * 32 + j
    s.setTeam t { x with acc := x.acc.put k { x.acc.look k {} with poison := true } }
  | .shadow t m i j =>
    let x := s.team t
    let k := m * 1024 + i * 32 + j
    s.setTeam t { x with shadow := x.shadow.put k { x.shadow.look k {} with poison := true } }
  | .sram c off => s.setWordPoison ((2 ^ 52 + c * 2 ^ 20 + off) / 4) true
  | .l1 c w =>
    if c < 2048 then s.setL1 c w { s.l1Word c w with poison := true }
    else
      let v := w / 2 * 2
      let s := s.setL1 c v { s.l1Word c v with poison := true }
      s.setL1 c (v + 1) { s.l1Word c (v + 1) with poison := true }
  | .l2 w => s.poisonSlice (w / 2 * 2) 2
  | .dram a => s.poisonDram (a / 32 * 8) 8
  | .metadata a => s.poisonMeta (a / 8 * 2) 2
  | .tlb => s
  | .control die firmware => s.report 7 die [BitVec.ofNat 64 (if firmware then 3 else 2)] (frontSource die)

/-- A team's group that has read one of its registers: the one that has issued last, or else the team's first (log entry 43). -/
def State.readerOf (s : State) (t : Nat) : Option Nat :=
  if (s.group s.cur).live && (s.group s.cur).team = t && !isMast s.cur then some s.cur else (s.team t).groups.head?

/-- The place of the group whose register an error is in, or that has read a register of its team. -/
def State.errGroup (s : State) : ErrPlace → Option Nat
  | .vreg p _ _ => some p
  | .sreg p _ => some p
  | .preg p _ => some p
  | .xreg p _ => some p
  | .gm p _ => some p
  | .kreg t _ => s.readerOf t
  | .tile t _ _ _ => s.readerOf t
  | .acc t _ _ _ => s.readerOf t
  | .shadow t _ _ _ => s.readerOf t
  | _ => none

/-- An error that nothing consumed is reported as latent (R426, R427). The entry names the group of a register in a third
dword, with the node, as R427 lays down no field for it (log entry 43). -/
def State.latent (s : State) (e : ErrPlace) : State :=
  let r := errReport e
  let key := (s.errGroup e).map fun p => s.node.toNat * 2 ^ 24 + (placeKey p (s.group p)).toNat
  s.report 5 r.2.1 [BitVec.ofNat 64 (r.1 * 2 ^ 32 + r.2.2.1), BitVec.ofNat 64 r.2.2.2, BitVec.ofNat 64 (key.getD 0)]

/-- The error leaves a poisoned word that an access may have found without using it. -/
def errPoisons : ErrPlace → Bool
  | .tlb | .control _ _ | .metadata _ => false
  | _ => true

/-- `UNCORRECTABLE_ERROR` (R424, R426): `latent` says that the access that found it consumed nothing. -/
def execUncorrectableError (e : ErrPlace) (latent : Bool) (s : State) : Out :=
  let s := s.poisonPlace e
  .next (if latent && errPoisons e then s.latent e else s)

/-- `SCRUB` (R424, R426): an uncorrectable word of the L2 or of HBM is poisoned and reported. -/
def execScrub (e : ErrPlace) (s : State) : Out :=
  match e with
  | .l2 _ | .dram _ => .next ((s.poisonPlace e).latent e)
  | _ => .next s

/-- The error is in HBM, whose 768 GiB lie below the second tier (R227). -/
def inHbm : ErrPlace → Bool
  | .dram a => a < 0xC000000000
  | _ => false

/-- `CORRECTED_ERROR` (R424): counted per die. -/
def execCorrectedError (die : BitVec 3) (e : ErrPlace) (s : State) : Out :=
  let x := s.power.look die.toNat {}
  .next { s with power := s.power.put die.toNat { x with corrected := x.corrected + 1, hbm := x.hbm + oneIf (inHbm e) } }

/-! Power, sensors and wear. -/

/-- A team is resident on a gated row of a die (R449). -/
def State.rowHeld (s : State) (die rows : Nat) : Bool :=
  s.teams.any fun e => e.2.live && e.1 / 16 / 256 = die && bitOf rows (e.1 / 16 % 256 / 16)

/-- The cause for which a power state is refused, 0 for none (R449). -/
def State.powerCause (s : State) (die : Nat) (v : Dword) : Nat :=
  let fclk := field v.toNat 7 0
  if s.emerg then 5
  else if fclk = 0 || 60 < fclk then 1
  else if field v.toNat 11 8 < 5 + fclk / 6 then 2
  else if s.rowHeld die (field v.toNat 26 16) then 3
  else if field v.toNat 31 30 ≠ 0 && !s.liveCtxs.isEmpty then 4
  else 0

/-- `PWRCTL_WRITE` (R449). -/
def execPwrctlWrite (die : BitVec 3) (v : Dword) (s : State) : Out :=
  let d := die.toNat
  let x := s.power.look d {}
  let c := s.powerCause d v
  let y := if c = 0 then { x with ctl := keepBits v.toNat [(31, 30), (26, 16), (11, 0)] } else { x with stat := BitVec.ofNat 64 c }
  .next { s with power := s.power.put d y }

/-- The emergency stop (R450): a kind-8 entry. -/
def State.emergency (s : State) (sensor die limit reading : Nat) : State :=
  if s.emerg then s
  else ({ s with emerg := true } : State).report 8 die
    [BitVec.ofNat 64 (sensor * 2 ^ 56 + die * 2 ^ 48 + limit * 2 ^ 24 + reading % 2 ^ 24)]

/-- `SENSOR_SAMPLE` (R450): a junction at 115 degrees, or the package above 4.4 kW for the last 1 ms. -/
def execSensorSample (r : SensorReading) (s : State) : Out :=
  let x := s.power.look r.die {}
  let v := BitVec.ofNat 64 (r.temp.toNat + r.power.toNat * 2 ^ 32)
  let s := { s with power := s.power.put r.die { x with sens := v } }
  if 115 * 16 ≤ r.temp.toNat then .next (s.emergency 1 r.die (115 * 16) r.temp.toNat)
  else if r.above && 4400 < r.packagePower.toNat then .next (s.emergency 2 r.die 4400 r.packagePower.toNat)
  else .next s

/-- The used fractions of a die's indicators (R451). -/
def wearUsed (w : WearReading) (rate : Nat) : List Nat :=
  [w.drift * 1024 / 60, w.rowsUsed * 1024 / w.rowsSpare, rate * 1024 / 10000, ((40 - w.margin) * 1024 / 40).toNat].map
    fun u => min u 1024

/-- WEAR (R451): the hours left, and the first indicator that gives the largest fraction. -/
def wearWord (w : WearReading) (rate : Nat) : Nat :=
  let u := wearUsed w rate
  let m := u.foldl max 0
  87600 * (1024 - m) / 1024 * 2 ^ 32 + (u.findIdx (· = m)) * 2 ^ 24

/-- The corrected errors of a die's HBM since the recomputation 24 before this one, which comes every hour, or since reset
(R424, R451; log entry 43). -/
def DiePower.hbmRate (x : DiePower) : Nat := x.hbm - x.daily.getD 23 0

/-- `WEAR_UPDATE` (R451). -/
def execWearUpdate (w : WearReading) (s : State) : Out :=
  let x := s.power.look w.die {}
  let y := { x with daily := (x.hbm :: x.daily).take 24 }
  if w.rowsSpare = 0 then .next { s with power := s.power.put w.die y }
  else .next { s with power := s.power.put w.die { y with wear := BitVec.ofNat 64 (wearWord w x.hbmRate) } }

/-! Bring-up (R453). -/

/-- `HBM_TRAINING_COMPLETE` (R453). -/
def execHbmTrainingComplete (s : State) : Out := .next { s with bootHbm := true }

/-- The place of the firmware image (R453). -/
def firmwareBase : Nat := 0xBFFF000000

/-- The segments of the firmware image, for F0 to F7 in order (R357). -/
def State.segments (s : State) : List (List Byte) :=
  let w := fun (off : Nat) => s.devNat (firmwareBase + off) 8
  (List.range 8).map fun i => (s.devRead (firmwareBase + w (0x10 + 64 * i)) (w (0x18 + 64 * i))).1

/-- The first check of R358 that the firmware image fails, 0 where it passes every one. -/
def State.bootFail (s : State) : Nat :=
  let b := fun (off n : Nat) => (s.devRead (firmwareBase + off) n).1
  let w := fun (off n : Nat) => s.devNat (firmwareBase + off) n
  if w 0 4 ≠ 0x514E4545 || w 4 2 ≠ 1 || w 6 2 ≠ 0x510 || w 0x0C 4 ≠ 0 then 1
  else if sha384 (b 0x390 384) ≠ Config.keyDigest then 2
  else if !rsaVerify (beNat (b 0x390 384)) (beNat (b 0x210 384)) (b 0 0x210) then 3
  else if w 8 4 < Config.fusedSvn then 4
  else if (s.segments.zipIdx).any fun e => sha384 e.1 ≠ b (0x20 + 64 * e.2) 48 then 5
  else 0

/-- `BOOTGO_WRITE` (R358, R453): refused before HBM is trained. Each core's 2 MiB of SRAM takes what it holds of its segment
(R350; log entry 33). -/
def execBootgoWrite (v : Dword) (s : State) : Out :=
  if v ≠ 1 || !s.bootHbm || s.bootLoaded then .next s
  else
    let c := s.bootFail
    if c ≠ 0 then .next { s with bootCheck := BitVec.ofNat 8 c }
    else .next { s with bootCheck := 0, bootLoaded := true, svn := (s.devWord (firmwareBase + 8)).val,
                        fwDigest := sha384 (s.devRead firmwareBase 0x510).1, fwsram := s.segments.map (·.take (2 ^ 21)) }

/-- `FIRMWARE_READY` (R453): firmware has enabled every MASTRING and knows the free frames. -/
def execFirmwareReady (b : BringUp) (s : State) : Out :=
  if !s.bootLoaded || s.bootReady || b.rings.length ≠ 256 || !b.rings.all (fun v => en v && s.ringOk v) then .next s
  else
    let s := b.rings.zipIdx.foldl (fun s e =>
      s.setMast e.2 { s.mast e.2 with ringCtl := keepBits e.1.toNat [(63, 63), (55, 52), (51, 0)] }) s
    .next { s with bootReady := true, migfree := b.free }

/-! Attestation (R452). -/

/-- The signed part of an attestation report. -/
def State.attestBody (s : State) (nonce0 nonce1 : Nat) : List Byte :=
  bytesOf 4 0x54414B53 ++ bytesOf 4 s.svn.toNat ++ bytesOf 8 nonce0 ++ bytesOf 8 nonce1 ++ s.fwDigest ++
    bytesOf 8 s.node.toNat ++ beBytes 384 Config.identity.1

/-- `ATTESTATION_REQUEST` (R452): the report is written at `.s`, and F5 answers with a message of type 0x62. A request whose address cannot
take the report has no answer (DESIGN CHOICE, log entry 33). -/
def execAttestationRequest (s : State) : Out :=
  match s.message 5 0x61 with
  | none => .next s
  | some m =>
    let a := msgWord m 1
    let b := s.attestBody (msgWord m 2) (msgWord m 3)
    let s := s.takeMessage 5
    if a % 1024 ≠ 0 || !s.physOk a 1024 then .next s
    else .next ((s.devWrite a (b ++ beBytes 384 (rsaSign b))).tellHost 0x62 5 (BitVec.ofNat 32 (msgTag m)))

/-! Package reset. -/

/-- `PACKAGE_RESET` (R8): every register takes its reset value, and no cache, queue or group keeps anything. What is no
register keeps its contents: the memory, and the outside world's part of the model. -/
def execPackageReset (s : State) : Out :=
  let s := s.bareDram fun _ => true
  .next { State.reset with node := s.node, tier2 := s.tier2, mem := s.mem, mpoison := s.mpoison, agenda := s.agenda,
                           draws := s.draws, nextId := s.nextId }

end Sys2Proof.Machine
end

