-- ==== Sys2Proof/Machine/Bar0.lean ====
section
/-! DEFINITION. BAR0, the host's register window (R8, R9, R378, R379, R431): where each register lies, what a read of it
returns, and what a write of it does. -/

namespace Sys2Proof.Machine

open Sys2Proof

/-- A register of BAR0, by its block, its unit and its dword in the unit's run of offsets. -/
inductive Reg
  | queue (q i : Nat)
  | mail (f i : Nat)
  | window (n i : Nat)
  | fwstat
  | mast (k i : Nat)
  | rlog (i : Nat)
  | ptroot
  | migcfg
  | migstat
  | hr (i : Nat)
  | link (p : Nat)
  | bootstat
  | bootgo
  | err (i : Nat)
  | samp (i : Nat)
  | sk (u i : Nat)
  | trace (d i : Nat)
  | bp (n i : Nat)
  | trkid
  | dbgctl
  | sketch (pair : Nat)
  | power (d i : Nat)
  deriving DecidableEq, Repr

/-- A run of units of `z` bytes from an offset of BAR0: the unit and its dword that an offset names. -/
def inRun (off base units z : Nat) : Option (Nat × Nat) :=
  if base ≤ off && off < base + units * z then some ((off - base) / z, (off - base) % z / 8) else none

/-- The runs of registers (R379, R428, R431, and the tables of 27_power_health_security_bringup.md): first offset,
units, bytes of a unit, dwords in use, and the register. -/
def regRuns : List (Nat × Nat × Nat × Nat × (Nat → Nat → Reg)) :=
  [(0x100000, 64, 0x40, 8, .queue), (0x200000, 8, 0x40, 5, .mail), (0x300000, 16, 0x20, 4, .window),
   (0x300200, 1, 8, 1, fun _ _ => .fwstat),
   (0x400000, 1024, 0x20, 3, fun u i => .mast (u / 128 * 32 + u % 128) i),
   (0x500000, 1, 0x20, 4, fun _ i => .rlog i), (0x600000, 1, 8, 1, fun _ _ => .ptroot),
   (0x600008, 1, 8, 1, fun _ _ => .migcfg), (0x600010, 1, 8, 1, fun _ _ => .migstat),
   (0x700000, 1, 0x18, 3, fun _ i => .hr i), (0x800000, 16, 8, 1, fun p _ => .link p),
   (0x1000000, 1, 8, 1, fun _ _ => .bootstat), (0x1000008, 1, 8, 1, fun _ _ => .bootgo),
   (0x1100000, 1, 0x20, 4, fun _ i => .err i), (0x1200000, 1, 0x20, 4, fun _ i => .samp i),
   (0x1200100, 4, 0x10, 2, .sk), (0x1200200, 8, 0x20, 4, .trace), (0x1200300, 4, 0x10, 2, .bp),
   (0x1200400, 1, 8, 1, fun _ _ => .trkid), (0x1200408, 1, 8, 1, fun _ _ => .dbgctl),
   (0x1400000, 131072, 8, 1, fun u _ => .sketch u), (0x1500000, 8, 0x20, 4, .power)]

/-- The register at an offset of BAR0, if the offset names one (R378, R379). -/
def regAt (off : Nat) : Option Reg :=
  if off % 8 ≠ 0 then none
  else
    regRuns.findSome? fun r =>
      match inRun off r.1 r.2.1 r.2.2.1 with
      | some (u, i) => if i < r.2.2.2.1 && (r.1 ≠ 0x400000 || u % 128 < 32) then some (r.2.2.2.2 u i) else none
      | none => none

/-! Reads. -/

/-- Two 32-bit fields as a register (R8). -/
def pair (hi lo : Word) : Dword := hi ++ lo
/-- A 32-bit field with the reserved upper half reading 0 (R9). -/
def low (w : Word) : Dword := w.setWidth 64

/-- MBSTAT (R353). -/
def Mailbox.stat (m : Mailbox) : Dword := BitVec.ofNat 64 (oneIf m.hbad * 2 ^ 9 + oneIf m.hovf * 2 ^ 8 + m.msgs.length)
/-- LINKSTAT (R396). -/
def State.linkStat (s : State) (p : Nat) : Dword :=
  let l := s.link p
  BitVec.ofNat 64 (oneIf l.up * 2 ^ 63 + oneIf l.lost * 2 ^ 62 + s.qdepth p * 2 ^ 32 + l.tagfail.toNat * 2 ^ 16 + l.expired.toNat)
/-- What a host read of a register returns: a WO register and a reserved field read 0 (R8, R9). -/
def State.readReg (s : State) : Reg → Dword
  | .queue q i =>
    let x := s.queue q
    [x.base, x.ctl, low x.head, low x.tail, x.stat, x.splice, x.spbuf0, x.spbuf1].getD i 0
  | .mail f i => if i = 4 then (s.mail f).stat else 0
  | .window n i => (s.window n).getD i 0
  | .fwstat => s.fwstat
  | .mast k i => [BitVec.ofNat 64 (s.mastStat k), (s.mast k).ringCtl, 0].getD i 0
  | .rlog i => [s.rlog.ctl, pair s.rlog.head s.rlog.tail, pair s.rlog.stale s.rlog.loss, pair s.rlog.dropped s.rlog.dup].getD i 0
  | .ptroot => s.ptroot
  | .migcfg => s.migcfg
  | .migstat => BitVec.ofNat 64 s.migStat
  | .hr i => [s.hr.ctl, low s.hr.head, low s.hr.tail].getD i 0
  | .link p => s.linkStat p
  | .bootstat => BitVec.ofNat 64 (oneIf s.bootReady * 2 ^ 63 + oneIf s.bootHbm * 2 ^ 62 + s.bootCheck.toNat % 16)
  | .bootgo => 0
  | .err i => [s.err.ctl, low s.err.head, low s.err.tail, low s.err.lost].getD i 0
  | .samp i => [s.samp.ctl, low s.samp.head, low s.samp.tail, low s.samp.lost].getD i 0
  | .sk u i => let x := s.sk.look u {}; [x.ctl, x.tot].getD i 0
  | .trace d i => let r := s.ring d; [r.ctl, low r.head, low r.tail, low r.lost].getD i 0
  | .bp n i => if i = 0 then s.bpaddr.look n 0 else low (s.bpkid.look n 0)
  | .trkid => low s.trkid
  | .dbgctl => BitVec.ofNat 64 (oneIf s.dbgctl)
  | .sketch k => pair (s.skc.look (2 * k + 1) 0) (s.skc.look (2 * k) 0)
  | .power d i => let x := s.power.look d {}; [x.ctl, x.stat, x.sens, x.wear].getD i 0

/-- What a host read at an offset of BAR0 returns: 0 where it names no register (R378). -/
def State.readRegister (s : State) (off : Nat) : Dword := ((regAt off).map s.readReg).getD 0

/-- The host reads at an offset of BAR0; one that is not aligned completes with Unsupported Request (R378). -/
def State.hostRead (s : State) (off : Nat) : State :=
  if off % 8 ≠ 0 then s else { s with hostData := (bytesOf 8 (s.readRegister off).toNat).map fun b => (b, false) }

/-! Writes. -/

/-- The state that a register's own row gives. -/
def State.after (s : State) : Out → State
  | .next t => t
  | _ => s

/-- A write of a register (R8): a read-only one ignores it, and one that has a row of its own does what that row does. -/
def State.writeReg (s : State) (v : Dword) : Reg → State
  | .queue q i =>
    match i with
    | 0 => s.writeQbase q v
    | 1 => s.after (execQctlWrite (BitVec.ofNat 6 q) v s)
    | 3 => s.after (execQtailWrite (BitVec.ofNat 6 q) v s)
    | 4 => s.after (execQstatWrite (BitVec.ofNat 6 q) v s)
    | 5 =>
      if v.getLsbD 63 then s.setQueue q { s.queue q with splice := (s.queue q).splice &&& ~~~(BitVec.twoPow 64 63) } else s
    | 6 => s.after (execQspbufWrite (BitVec.ofNat 6 q) false v s)
    | 7 => s.after (execQspbufWrite (BitVec.ofNat 6 q) true v s)
    | _ => s
  | .mail f i => if i = 3 then s.after (execMbin3Write (BitVec.ofNat 3 f) v s) else s.writeMail f (8 * i) v
  | .window n i =>
    if i ≠ 0 then s.writeWindow n i v
    else if en v then s.after (execFwinEnable (BitVec.ofNat 4 n) v s)
    else s.after (execFwinDisable (BitVec.ofNat 4 n) v s)
  | .fwstat => { s with fwstat := s.fwstat &&& ~~~(keepBits v.toNat [(7, 0)]) }
  | .mast k i =>
    let d := BitVec.ofNat 3 (k / 32)
    let m := BitVec.ofNat 5 (k % 32)
    match i with
    | 1 => s.after (execMastringWrite d m v s)
    | 2 => if en v then s.after (execMastclrClearAll d m v s) else s.after (execMastclrClearLock d m v s)
    | _ => s
  | .rlog i =>
    match i with
    | 0 => s.after (execRlogctlWrite v s)
    | 1 => { s with rlog := { s.rlog with tail := v.setWidth 32 } }
    | 2 => { s with rlog := { s.rlog with stale := BitVec.ofNat 32 (v.toNat / 2 ^ 32), loss := v.setWidth 32 } }
    | _ => { s with rlog := { s.rlog with dropped := BitVec.ofNat 32 (v.toNat / 2 ^ 32), dup := v.setWidth 32 } }
  | .ptroot => s.after (execPtrootWrite v s)
  | .migcfg => { s with migcfg := keepBits v.toNat [(63, 12), (7, 0)] }
  | .migstat => s
  | .hr i => s.writeHr (8 * i) v
  | .link p => s.writeLink p v
  | .bootstat => s
  | .bootgo => s.after (execBootgoWrite v s)
  | .err i => s.writeErr (8 * i) v
  | .samp i => s.writeSamp (8 * i) v
  | .sk u i => if i = 0 then s.writeSk u v else s
  | .trace d i => if i = 0 then s.after (execTrctlWrite (BitVec.ofNat 3 d) v s) else s.writeTrace d (8 * i) v
  | .bp n i => s.writeBp n (8 * i) v
  | .trkid => { s with trkid := v.setWidth 32 }
  | .dbgctl => { s with dbgctl := v.getLsbD 0 }
  | .sketch _ => s
  | .power d i =>
    match i with
    | 0 => s.after (execPwrctlWrite (BitVec.ofNat 3 d) v s)
    | 1 => s.writePstat d v
    | _ => s

/-- A write at an offset of BAR0: one that names no register is ignored (R378). -/
def State.writeRegister (s : State) (off : Nat) (v : Dword) : State :=
  match regAt off with
  | some r => s.writeReg v r
  | none => s

/-- `GENERIC_REGISTER_WRITE` (R8, R379). -/
def execGenericRegisterWrite (off : Nat) (v : Dword) (s : State) : Out := .next (s.writeRegister off v)

/-- `BAR0_BAD_ACCESS` (R378): Unsupported Request, and nothing changes. -/
def execBar0BadAccess (_off _width : Nat) (_write : Bool) (s : State) : Out := .next s

end Sys2Proof.Machine
end

