-- ==== Sys2Proof/Machine/IntVec.lean ====
section
/-! DEFINITION. The integer vector instructions: R81 to R90. -/

namespace Sys2Proof.Machine

open Sys2Proof

/-- One element operation of R82 over two integers, with the element type and sat. -/
abbrev IntOp := Ty → Bool → Int → Int → Nat

/-- `x + y` fitted (R82). -/
def opAdd : IntOp := fun t sat x y => fitInt t sat (x + y)
/-- `x − y` fitted (R82). -/
def opSub : IntOp := fun t sat x y => fitInt t sat (x - y)
/-- `x × y` fitted (R82). -/
def opMul : IntOp := fun t sat x y => fitInt t sat (x * y)
/-- floor(x × y / 2^w) (R82); a negative product under an n type is reduced to the width (log entry 10). -/
def opMulh : IntOp := fun t _ x y => wrapTo (tyWidth t) (x * y / (2 ^ tyWidth t : Nat))
/-- The smaller value (R82). -/
def opMin : IntOp := fun t _ x y => wrapTo (tyWidth t) (if x ≤ y then x else y)
/-- The larger value (R82). -/
def opMax : IntOp := fun t _ x y => wrapTo (tyWidth t) (if x ≤ y then y else x)

/-- A register form of R82. -/
def intReg (s : State) (d a b : BitVec 8) (op : IntOp) : Out :=
  vec2 s d a b fun m => (intDtype m).map fun t x y =>
    wordOf t fun i => op t (gmSat m) (intOf t (elem x t i)) (intOf t (elem y t i))

/-- An immediate form of R82: the immediate is a signed value, whether T is s or n (R81). -/
def intImm (s : State) (d a i : BitVec 8) (op : IntOp) : Out :=
  vec1 s d a fun m => (intDtype m).map fun t x =>
    wordOf t fun e => op t (gmSat m) (intOf t (elem x t e)) (imm8s i)

/-- `IADD` (R82). -/
def execIadd (d a b : BitVec 8) (s : State) : Out := intReg s d a b opAdd
/-- `ISUB` (R82). -/
def execIsub (d a b : BitVec 8) (s : State) : Out := intReg s d a b opSub
/-- `IMUL` (R82). -/
def execImul (d a b : BitVec 8) (s : State) : Out := intReg s d a b opMul
/-- `IMULH` (R82). -/
def execImulh (d a b : BitVec 8) (s : State) : Out := intReg s d a b opMulh
/-- `IADD` immediate (R82). -/
def execIaddImm (d a i : BitVec 8) (s : State) : Out := intImm s d a i opAdd
/-- `ISUB` immediate (R82). -/
def execIsubImm (d a i : BitVec 8) (s : State) : Out := intImm s d a i opSub
/-- `IMUL` immediate (R82). -/
def execImulImm (d a i : BitVec 8) (s : State) : Out := intImm s d a i opMul
/-- `IMULH` immediate (R82). -/
def execImulhImm (d a i : BitVec 8) (s : State) : Out := intImm s d a i opMulh
/-- `IMAD`: the exact product and sum, fitted once (R82). -/
def execImad (d a b : BitVec 8) (s : State) : Out :=
  vec3 s d a b fun m => (intDtype m).map fun t z x y =>
    wordOf t fun i =>
      fitInt t (gmSat m) (intOf t (elem x t i) * intOf t (elem y t i) + intOf t (elem z t i))
/-- `IMIN` (R82). -/
def execImin (d a b : BitVec 8) (s : State) : Out := intReg s d a b opMin
/-- `IMAX` (R82). -/
def execImax (d a b : BitVec 8) (s : State) : Out := intReg s d a b opMax
/-- `IABS` (R82). -/
def execIabs (d a : BitVec 8) (s : State) : Out :=
  vec1 s d a fun m => (intDtype m).map fun t x =>
    wordOf t fun i => fitInt t (gmSat m) ((intOf t (elem x t i)).natAbs : Int)

/-- A logic instruction on whole words, which ignores `gm` but for the guard (R83). -/
def logicReg (s : State) (d a b : BitVec 8) (f : Word → Word → Word) : Out := vec2 s d a b fun _ => .ok f
/-- A logic instruction with an immediate sign-extended to 32 bits (R83). -/
def logicImm (s : State) (d a i : BitVec 8) (f : Word → Word → Word) : Out :=
  vec1 s d a fun _ => .ok fun x => f x (i.signExtend 32)

/-- `AND` (R83). -/
def execAnd (d a b : BitVec 8) (s : State) : Out := logicReg s d a b (· &&& ·)
/-- `OR` (R83). -/
def execOr (d a b : BitVec 8) (s : State) : Out := logicReg s d a b (· ||| ·)
/-- `XOR` (R83). -/
def execXor (d a b : BitVec 8) (s : State) : Out := logicReg s d a b (· ^^^ ·)
/-- `NOT` (R83). -/
def execNot (d a : BitVec 8) (s : State) : Out := vec1 s d a fun _ => .ok fun x => ~~~x
/-- `AND` immediate (R83). -/
def execAndImm (d a i : BitVec 8) (s : State) : Out := logicImm s d a i (· &&& ·)
/-- `OR` immediate (R83). -/
def execOrImm (d a i : BitVec 8) (s : State) : Out := logicImm s d a i (· ||| ·)
/-- `XOR` immediate (R83). -/
def execXorImm (d a i : BitVec 8) (s : State) : Out := logicImm s d a i (· ^^^ ·)

/-- The shifts of R84 on an element of width `w`, by an unsigned count. -/
inductive ShiftKind | left | right | arith
  deriving DecidableEq, Repr

/-- One element shifted (R84). -/
def shiftElem (k : ShiftKind) (w x c : Nat) : Nat :=
  match k with
  | .left => if w ≤ c then 0 else x * 2 ^ c % 2 ^ w
  | .right => if w ≤ c then 0 else x / 2 ^ c
  | .arith => wrapTo w (signedOf w x / (2 ^ min c w : Nat))

/-- A register form of R84. -/
def shiftReg (s : State) (d a b : BitVec 8) (k : ShiftKind) : Out :=
  vec2 s d a b fun m => (intDtype m).map fun t x y =>
    wordOf t fun i => shiftElem k (tyWidth t) (elem x t i) (elem y t i)
/-- An immediate form of R84. -/
def shiftImm (s : State) (d a i : BitVec 8) (k : ShiftKind) : Out :=
  vec1 s d a fun m => (intDtype m).map fun t x =>
    wordOf t fun e => shiftElem k (tyWidth t) (elem x t e) i.toNat

/-- `SHL` (R84). -/
def execShl (d a b : BitVec 8) (s : State) : Out := shiftReg s d a b .left
/-- `SHR` (R84). -/
def execShr (d a b : BitVec 8) (s : State) : Out := shiftReg s d a b .right
/-- `SAR` (R84). -/
def execSar (d a b : BitVec 8) (s : State) : Out := shiftReg s d a b .arith
/-- `SHL` immediate (R84). -/
def execShlImm (d a i : BitVec 8) (s : State) : Out := shiftImm s d a i .left
/-- `SHR` immediate (R84). -/
def execShrImm (d a i : BitVec 8) (s : State) : Out := shiftImm s d a i .right
/-- `SAR` immediate (R84). -/
def execSarImm (d a i : BitVec 8) (s : State) : Out := shiftImm s d a i .arith

/-- Leading zero bits of an element of width `w` (R85). -/
def clzOf (w x : Nat) : Nat := if x = 0 then w else w - 1 - Nat.log2 x
/-- Set bits of an element of width `w` (R85). -/
def popcOf (w x : Nat) : Nat := ((List.range w).filter (fun i => bitOf x i)).length
/-- An element of width `w` with its bits reversed (R85). -/
def brevOf (w x : Nat) : Nat :=
  (List.range w).foldl (fun acc i => acc + oneIf (bitOf x i) * 2 ^ (w - 1 - i)) 0

/-- One element operation of R85. -/
def bitElems (s : State) (d a : BitVec 8) (f : Nat → Nat → Nat) : Out :=
  vec1 s d a fun m => (intDtype m).map fun t x => wordOf t fun i => f (tyWidth t) (elem x t i)

/-- `CLZ` (R85). -/
def execClz (d a : BitVec 8) (s : State) : Out := bitElems s d a clzOf
/-- `POPC` (R85). -/
def execPopc (d a : BitVec 8) (s : State) : Out := bitElems s d a popcOf
/-- `BREV` (R85). -/
def execBrev (d a : BitVec 8) (s : State) : Out := bitElems s d a brevOf
/-- `MOV` (R85). -/
def execMov (d a : BitVec 8) (s : State) : Out := vec1 s d a fun _ => .ok fun x => x

/-- The length of a bit field: the requested one cut at bit 32 (R86). -/
def fieldLen (y : Word) : Nat :=
  let pos := field y.toNat 7 0
  if pos ≥ 32 then 0 else min (field y.toNat 15 8) (32 - pos)

/-- `BFE` of one word (R86). -/
def bfeWord (signed : Bool) (x y : Word) : Word :=
  let pos := field y.toNat 7 0
  let len := fieldLen y
  let f := x.toNat / 2 ^ pos % 2 ^ len
  if len = 0 then 0 else if signed then BitVec.ofInt 32 (signedOf len f) else BitVec.ofNat 32 f

/-- `BFI` of one word (R86). -/
def bfiWord (z x y : Word) : Word :=
  let pos := field y.toNat 7 0
  let m : Word := BitVec.ofNat 32 ((2 ^ fieldLen y - 1) * 2 ^ pos)
  (z &&& ~~~m) ||| (x <<< pos &&& m)

/-- `BFE`: sign-extended for an s type or a non-integer dtype (R86). -/
def execBfe (d a b : BitVec 8) (s : State) : Out :=
  vec2 s d a b fun m => (vecDtype m).map fun t => bfeWord (!tyN t)
/-- `BFI` (R86). -/
def execBfi (d a b : BitVec 8) (s : State) : Out := vec3 s d a b fun _ => .ok bfiWord

/-- `SEL` (R87): `v[a]` where the predicate bit is set, `v[a + 1]` elsewhere. With no active lane no result depends on the
predicate (R80). -/
def execSel (d a : BitVec 8) (p : BitVec 4) (s : State) : Out :=
  issueG s fun g => do
    need (a.toNat < 255) opnd
    need (g.vOk d.toNat && g.spanOk a.toNat 2) opnd
    let act ← g.active s.curSlot
    let q ← g.readPFor act p.toNat
    let src := fun l => if q.getLsbD l then a.toNat else a.toNat + 1
    checkPoison g (act &&& q) [a.toNat]
    checkPoison g (act &&& ~~~q) [a.toNat + 1]
    .ok (g.setVs d.toNat ((lanesOf act).map (fun l => (l, (g.getV (src l) l).val))))

/-- `LEA` (R88). -/
def execLea (sh : BitVec 2) (d a b : BitVec 8) (s : State) : Out :=
  vec2 s d a b fun _ => .ok fun x y => x + y <<< sh.toNat

/-- `MOVI` (R89). -/
def execMovi (d : BitVec 8) (i : BitVec 16) (s : State) : Out :=
  vecInstr s d.toNat [] [] fun _ _ => .ok fun _ => i.signExtend 32
/-- `MOVHI` (R89): bits [15:0] are kept. -/
def execMovhi (d : BitVec 8) (i : BitVec 16) (s : State) : Out :=
  vecInstr s d.toNat [] [d.toNat] fun g _ => .ok fun l => i ++ (g.getV d.toNat l).val.setWidth 16

/-- A condition of `ICMP` over two integers (R64, R90). -/
def icondHolds (c : ICond) (x y : Int) : Bool :=
  match c with
  | .eq => x = y | .ne => x ≠ y | .lt => x < y | .le => x ≤ y | .gt => x > y | .ge => x ≥ y

/-- `ICMP` of two registers (R90): element 0 of each word. -/
def execIcmp (c : ICond) (p : BitVec 4) (a b : BitVec 8) (s : State) : Out :=
  predInstr s p [a.toNat, b.toNat] fun g m => (intDtype m).map fun t l =>
    icondHolds c (intOf t (elem (g.getV a.toNat l).val t 0)) (intOf t (elem (g.getV b.toNat l).val t 0))
/-- `ICMP` with an immediate sign-extended to the element width (R90; log entry 10). -/
def execIcmpImm (c : ICond) (p : BitVec 4) (a : BitVec 8) (i : BitVec 8) (s : State) : Out :=
  predInstr s p [a.toNat] fun g m => (intDtype m).map fun t l =>
    icondHolds c (intOf t (elem (g.getV a.toNat l).val t 0)) (intOf t (wrapTo (tyWidth t) (imm8s i)))

end Sys2Proof.Machine
end

