-- ==== Sys2Proof/Machine/Lane.lean ====
section
/-! DEFINITION. The cross-lane instructions: R107 to R111. -/

namespace Sys2Proof.Machine

open Sys2Proof

/-- Active lanes whose result depends on a poisoned word, when lane l depends on the words `dep l` of
register r (R80, R107). -/
def checkDeps (g : Group) (act : Word) (r : Nat) (dep : Nat → List Nat) : Chk Unit :=
  match (lanesOf act).filter (fun l => (dep l).any (fun k => (g.getV r k).poison)) with
  | [] => .ok ()
  | ls => .error (poisonOf 0 r (maskOf ls))

/-- The source lane of a shuffle (R108). -/
def shflSrc (m : ShflMode) (l c : Nat) : Nat :=
  match m with
  | .idx => c
  | .xor => l ^^^ c
  | .up => if c ≤ l then l - c else l
  | .dn => if l + c ≤ 31 then l + c else l

/-- A move of words between lanes: lane l takes the word of lane `src l` (R107, R108). -/
def moveLanes (g : Group) (act : Word) (d a : Nat) (src : Nat → Nat) : Chk Group := do
  checkDeps g act a (fun l => [src l])
  .ok (g.setVs d ((lanesOf act).map fun l => (l, (g.getV a (src l)).val)))

/-- `SHFL` of a register (R108). -/
def execShfl (m : ShflMode) (d a b : BitVec 8) (s : State) : Out :=
  issueG s fun g => do
    need (g.vOk d.toNat && g.vOk a.toNat && g.vOk b.toNat) opnd
    let act ← g.active s.curSlot
    checkPoison g act [b.toNat]
    moveLanes g act d.toNat a.toNat fun l => shflSrc m l ((g.getV b.toNat l).val.toNat % 32)
/-- `SHFL` of an immediate (R108). -/
def execShflImm (m : ShflMode) (d a i : BitVec 8) (s : State) : Out :=
  issueG s fun g => do
    need (i.toNat < 32 && g.vOk d.toNat && g.vOk a.toNat) opnd
    let act ← g.active s.curSlot
    moveLanes g act d.toNat a.toNat fun l => shflSrc m l i.toNat
/-- `BCAST` (R109). -/
def execBcast (d a i : BitVec 8) (s : State) : Out :=
  issueG s fun g => do
    need (i.toNat < 32 && g.vOk d.toNat && g.vOk a.toNat) opnd
    let act ← g.active s.curSlot
    moveLanes g act d.toNat a.toNat fun _ => i.toNat
/-- `MBCNT`: set bits below the lane, whatever the active mask (R109). No result depends on the predicate where no lane above
lane 0 is active (R80, R107). -/
def execMbcnt (d : BitVec 8) (p : BitVec 4) (s : State) : Out :=
  issueG s fun g => do
    need (g.vOk d.toNat) opnd
    let act ← g.active s.curSlot
    let q ← g.readPFor (act &&& ~~~1) p.toNat
    .ok (g.setVs d.toNat ((lanesOf act).map fun l =>
      (l, BitVec.ofNat 32 ((lanesOf q).filter (· < l)).length)))

/-- The scalar of a vote (R109). -/
def voteOf (mode : Nat) (act q : Word) : Dword :=
  let x := act &&& q
  match mode with
  | 0 => if x = 0 then 0 else 1
  | 1 => if x = act then 1 else 0
  | _ => x.setWidth 64
/-- `VOTE` (R109). -/
def execVote (d : BitVec 6) (p : BitVec 4) (i : BitVec 8) (s : State) : Out :=
  issue s fun s => do
    need (i.toNat < 3) opnd
    let act ← s.g.active s.curSlot
    let q ← s.g.readPFor act p.toNat
    let r := voteOf i.toNat act q
    let g := s.g.setS d.toNat r
    .ok (s.setG (g.setSlot s.curSlot { g.slot s.curSlot with cc := condZero r }))

/-- The element type of `REDX` and `SCAN` (R110): the types of R92 as they stand, any other as an integer. -/
def laneDtype (m : Word) : Chk Ty := do
  let t ← vecDtype m
  match t with
  | .f32 => .ok .f32
  | .f16 => .ok .f16
  | .bf16 => .ok .bf16
  | t => .ok (intTy t)

/-- A floating-point sum of two values, rounded and fitted (R93, R110). A denormal sum goes into the next one unflushed:
`gm.fout` flushes only the element that is written (R45, R111; DESIGN CHOICE, log entry 62). -/
def addFit (t : Ty) (m : Word) (x y : Num) : Num :=
  let md := if gmRnd m = 4 then 0 else gmRnd m
  let z := (roundF t md 0 (addNum md x y)).1
  match z with
  | .nan => .nan
  | z => decodeNum t false (encodeNum t (gmSat m) false md z)

/-- The combination of two elements' values (R110, R111). -/
def combineNum (o : RedOp) (t : Ty) (m : Word) (x y : Num) : Num :=
  match o with
  | .add => addFit t m x y
  | .min => minNum x y
  | .max => maxNum x y
/-- The combination of two integers, exact (R110). -/
def combineInt (o : RedOp) (x y : Int) : Int :=
  match o with
  | .add => x + y
  | .min => if x ≤ y then x else y
  | .max => if x ≤ y then y else x

/-- One place of the tree: EMPTY combines as the other (R110). -/
def treeNode (f : Num → Num → Num) : Option Num → Option Num → Option Num
  | none, y => y
  | x, none => x
  | some x, some y => some (f x y)
/-- One step of the tree over neighbouring places (R110). -/
def treeStep (f : Num → Num → Num) : List (Option Num) → List (Option Num)
  | x :: y :: r => treeNode f x y :: treeStep f r
  | l => l
/-- The fixed tree over the 32 places: steps 1, 2, 4, 8, 16 (R110). -/
def treeOf (f : Num → Num → Num) (l : List (Option Num)) : Option Num :=
  (treeStep f (treeStep f (treeStep f (treeStep f (treeStep f l))))).headD none

/-- The word of a reduction over the active lanes (R110). Its element honours `gm`.sat and fout as R92 says: under sat = 1 an
infinity is the largest finite value (R53; log entry 62). -/
def redWord (o : RedOp) (t : Ty) (m : Word) (act : Word) (w : Nat → Word) : Word :=
  if tyF t then
    wordOf t fun i =>
      let vals := (List.range 32).map fun l =>
        if act.getLsbD l then some (decodeNum t (gmFin m) (elem (w l) t i)) else none
      encodeNum t (gmSat m) (gmFout m) 0 ((treeOf (combineNum o t m) vals).getD (.fin false 0 0))
  else
    wordOf t fun i =>
      match (lanesOf act).map fun l => intOf t (elem (w l) t i) with
      | [] => 0
      | x :: r => fitInt t (gmSat m) (r.foldl (combineInt o) x)

/-- `REDX` (R110). -/
def execRedx (o : RedOp) (d a : BitVec 8) (s : State) : Out :=
  issueG s fun g => do
    let m ← (g.slot s.curSlot).mode
    need (g.vOk d.toNat && g.vOk a.toNat) opnd
    let t ← laneDtype m
    let act ← g.active s.curSlot
    checkDeps g act a.toNat fun _ => lanesOf act
    let r := redWord o t m act fun l => (g.getV a.toNat l).val
    .ok (g.setVs d.toNat ((lanesOf act).map fun l => (l, r)))

/-- The operation of a prefix (R111). -/
def scanOp : ScanOp → RedOp
  | .add | .xadd => .add
  | .min => .min
  | .max => .max
/-- The lanes that a lane's prefix covers: the lower active ones, and itself but for `XADD` (R111). -/
def scanLanes (o : ScanOp) (act : Word) (l : Nat) : List Nat :=
  (lanesOf act).filter fun k => k < l || (k = l && o != .xadd)

/-- The word of a prefix at a lane (R111): floating-point strictly left to right, integers exact. A floating-point prefix starts
from the lowest active lane's element itself and not from +0, so that a lone -0 stays -0 (DESIGN CHOICE, log entry 62), and its
element honours `gm`.sat and fout (R92). -/
def scanWord (o : ScanOp) (t : Ty) (m : Word) (act : Word) (w : Nat → Word) (l : Nat) : Word :=
  let ls := scanLanes o act l
  if tyF t then
    wordOf t fun i =>
      match ls.map fun k => decodeNum t (gmFin m) (elem (w k) t i) with
      | [] => 0
      | x :: r => encodeNum t (gmSat m) (gmFout m) 0 (r.foldl (combineNum (scanOp o) t m) x)
  else
    wordOf t fun i =>
      match ls.map fun k => intOf t (elem (w k) t i) with
      | [] => 0
      | x :: r => fitInt t (gmSat m) (r.foldl (combineInt (scanOp o)) x)

/-- `SCAN` (R111). -/
def execScan (o : ScanOp) (d a : BitVec 8) (s : State) : Out :=
  issueG s fun g => do
    let m ← (g.slot s.curSlot).mode
    need (g.vOk d.toNat && g.vOk a.toNat) opnd
    let t ← laneDtype m
    let act ← g.active s.curSlot
    checkDeps g act a.toNat (scanLanes o act)
    .ok (g.setVs d.toNat ((lanesOf act).map fun l =>
      (l, scanWord o t m act (fun k => (g.getV a.toNat k).val) l)))

end Sys2Proof.Machine
end

