-- ==== Sys2Proof/Machine/Scalar.lean ====
section
/-! DEFINITION. The scalar pipe (R99 to R101), predicates (R105, R106) and `KMOV` (R102, R104). -/

namespace Sys2Proof.Machine

open Sys2Proof

/-- A scalar destination and the condition bits written as one step (R101). -/
def State.setScalar (s : State) (d : BitVec 6) (r : Dword) (c : Cond) : State :=
  let g := s.g.setS d.toNat r
  s.setG (g.setSlot s.curSlot { g.slot s.curSlot with cc := c })
/-- The condition bits of the issuing slot written. -/
def State.setCond (s : State) (c : Cond) : State := s.setSl { s.sl with cc := c }

/-- A scalar instruction of two sources (R100). -/
def scalar2 (s : State) (d : BitVec 6) (a b : BitVec 7) (f : Dword → Dword → Dword)
    (c : Dword → Dword → Cond) : Out :=
  issue s fun s => do
    let x ← s.readSide a
    let y ← s.readSide b
    .ok (s.setScalar d (f x y) (c x y))

/-- An imm16 sign-extended to 64 bits (R38, R100). -/
def imm16s (i : BitVec 16) : Dword := i.signExtend 64

/-- `SADD` (R100). -/
def execSadd (d : BitVec 6) (a b : BitVec 7) (s : State) : Out := scalar2 s d a b (· + ·) condAdd
/-- `SSUB` (R100). -/
def execSsub (d : BitVec 6) (a b : BitVec 7) (s : State) : Out := scalar2 s d a b (· - ·) condSub
/-- `SMUL` (R100). -/
def execSmul (d : BitVec 6) (a b : BitVec 7) (s : State) : Out := scalar2 s d a b (· * ·) condMul
/-- `SCMP` (R100). -/
def execScmp (a b : BitVec 7) (s : State) : Out :=
  issue s fun s => do
    let x ← s.readSide a
    let y ← s.readSide b
    .ok (s.setCond (condSub x y))
/-- `SAND` (R100). -/
def execSand (d : BitVec 6) (a b : BitVec 7) (s : State) : Out :=
  scalar2 s d a b (· &&& ·) fun x y => condLogic (x &&& y)
/-- `SOR` (R100). -/
def execSor (d : BitVec 6) (a b : BitVec 7) (s : State) : Out :=
  scalar2 s d a b (· ||| ·) fun x y => condLogic (x ||| y)
/-- `SXOR` (R100). -/
def execSxor (d : BitVec 6) (a b : BitVec 7) (s : State) : Out :=
  scalar2 s d a b (· ^^^ ·) fun x y => condLogic (x ^^^ y)
/-- `SMOV` of a register (R100). -/
def execSmov (d : BitVec 6) (a : BitVec 7) (s : State) : Out :=
  issue s fun s => do
    let x ← s.readSide a
    .ok (s.setScalar d x (condLogic x))
/-- `SSHL` (R100). -/
def execSshl (d : BitVec 6) (a b : BitVec 7) (s : State) : Out := scalar2 s d a b shl64 condShl
/-- `SSHR` (R100). -/
def execSshr (d : BitVec 6) (a b : BitVec 7) (s : State) : Out := scalar2 s d a b shr64 condShr
/-- `SSAR` (R100). -/
def execSsar (d : BitVec 6) (a b : BitVec 7) (s : State) : Out := scalar2 s d a b sar64 condSar
/-- `SMOV` of an immediate (R100). -/
def execSmovImm (d : BitVec 6) (i : BitVec 16) (s : State) : Out :=
  issue s fun s => .ok (s.setScalar d (imm16s i) (condLogic (imm16s i)))
/-- `SADD` of an immediate to its own register (R100). -/
def execSaddImm (d : BitVec 6) (i : BitVec 16) (s : State) : Out :=
  issue s fun s => do
    let x ← s.readSide (d.setWidth 7)
    .ok (s.setScalar d (x + imm16s i) (condAdd x (imm16s i)))
/-- `SCMP` with an immediate (R100). -/
def execScmpImm (a : BitVec 7) (i : BitVec 16) (s : State) : Out :=
  issue s fun s => do
    let x ← s.readSide a
    .ok (s.setCond (condSub x (imm16s i)))

/-! Predicates. -/

/-- A predicate instruction of two sources, bit by bit over the active lanes (R105). -/
def pred2src (s : State) (d a b : BitVec 4) (f : Word → Word → Word) : Out :=
  issueG s fun g => do
    let act ← g.active s.curSlot
    let x ← g.readPFor act a.toNat
    let y ← g.readPFor act b.toNat
    .ok (g.setPBits d.toNat act (f x y))

/-- `PAND` (R105). -/
def execPand (d a b : BitVec 4) (s : State) : Out := pred2src s d a b (· &&& ·)
/-- `POR` (R105). -/
def execPor (d a b : BitVec 4) (s : State) : Out := pred2src s d a b (· ||| ·)
/-- `PXOR` (R105). -/
def execPxor (d a b : BitVec 4) (s : State) : Out := pred2src s d a b (· ^^^ ·)
/-- `PNOT` (R105). -/
def execPnot (d a : BitVec 4) (s : State) : Out := pred2src s d a a fun x _ => ~~~x
/-- `PMOV` (R105). -/
def execPmov (d a : BitVec 4) (s : State) : Out := pred2src s d a a fun x _ => x

/-- The lowest lane of a mask, as a mask. -/
def lowestOf (m : Word) : Word :=
  match lanesOf m with
  | [] => 0
  | l :: _ => BitVec.twoPow 32 l

/-- `PFIRST` (R105). -/
def execPfirst (d a : BitVec 4) (s : State) : Out :=
  issueG s fun g => do
    let act ← g.active s.curSlot
    let x ← g.readPFor act a.toNat
    .ok (g.setPBits d.toNat act (lowestOf (act &&& x)))

/-- `PCNT`: the count of set bits over the active lanes (R106). -/
def execPcnt (d : BitVec 6) (a : BitVec 4) (s : State) : Out :=
  issue s fun s => do
    let act ← s.g.active s.curSlot
    let x ← s.g.readPFor act a.toNat
    let r := BitVec.ofNat 64 (popcount (act &&& x))
    .ok (s.setScalar d r (condZero r))

end Sys2Proof.Machine
end

