-- ==== Sys2Proof/Machine/Transfer.lean ====
section
/-! DEFINITION. How a transfer operation drains, lands and fails, with its peers' answers (R178, R259 to R263, R271, R394, R398 to
R401). -/

namespace Sys2Proof.Machine

open Sys2Proof

/-! The answers that an operation waits for (R399). -/

/-- How many bytes the answer to a read brings: from the packet's address to the end of the last source byte in its line. -/
def Xfer.readLen (x : Xfer) (q : Parcel) : Nat :=
  (x.sources.filter fun p => p.node = q.node && p.key = q.packet.key && p.addr / 128 = q.packet.addr / 128).foldl
    (fun n p => max n (p.addr + p.n - q.packet.addr)) 0

/-- The packets that acknowledge an operation's: one for each, and of a multicast `CPL` one for each of its slots (R271, R399). -/
def Xfer.acks (x : Xfer) : List (Nat × BitVec 19 × Packet) :=
  x.parts.flatMap fun q =>
    match x.targets with
    | [] => [(q.lot, q.node, { addr := q.addr, key := q.key, gkey := x.key })]
    | ts => ts.map fun t =>
        (q.lot, q.node, { addr := slotAddr t.core t.zone t.slot q.addr, key := t.gen ++ (0 : BitVec 24), gkey := x.key })

/-- The messages that read an operation's sources in peers have left, and none was discarded (R394, R397). -/
def State.readsAway (s : State) (x : Xfer) : Bool := x.sources.isEmpty || x.asked.any fun l => l.all s.away

/-- The message of some of an operation's packets has left and was not discarded. -/
def State.lotAway (s : State) (x : Xfer) (lot : Nat) : Bool := x.told.any fun t => t.1 = lot && s.away t.2

/-- The messages that carry an operation's bytes to its peer have left, and none was discarded (R394, R397). -/
def State.writesAway (s : State) (x : Xfer) : Bool := x.parts.all fun q => s.lotAway x q.lot

/-- Answers to one operation received, each as its envelope, its kind, its node and its packet: whether all were. -/
def State.hearAll (s : State) (l : List (Envelope × Nat × BitVec 19 × Packet)) : State × Bool :=
  l.foldl (fun st a => let r := st.1.hear a.1 a.2.1 a.2.2.1 [a.2.2.2]; (r.1, st.2 && r.2)) (s, true)

/-- Answers of peers to an operation, and what they then do while it is there. One whose answer is dropped hears no more of it (R394,
R398). -/
def State.onXfer (s : State) (id : Nat) (l : List (Envelope × Nat × BitVec 19 × Packet)) (f : State → Xfer → State) : Out :=
  if l.all fun a => s.mayArrive a.1 a.2.2.1 then
    let r := s.hearAll l
    match r.1.xfer? id with
    | none => .next r.1
    | some x => .next (if r.2 then f r.1 x else r.1.setXfer { x with deaf := true })
  else .next s

/-! Draining (R263). -/

/-- A byte that the answers to an operation's reads bring, with its word's poison. -/
def answered (l : List (Parcel × List (Byte × Bool))) (node : BitVec 19) (key : Word) (a : Nat) : Byte × Bool :=
  match l.find? fun e => e.1.node = node && e.1.packet.key = key && e.1.packet.addr ≤ a && a < e.1.packet.addr + e.2.length with
  | some e => e.2.getD (a - e.1.packet.addr) (0, false)
  | none => (0, false)

/-- Pieces with the bytes of their sources: those of peers come with the answers (R177). -/
def State.readMoves (s : State) (l : List (Parcel × List (Byte × Bool))) (ms : List Move) : List Move :=
  ms.map fun m =>
    match m.src with
    | .peer n k a => { m with data := (List.range m.n).map fun i => answered l n k (a + i) }
    | src => { m with data := s.engineRead src m.n }

/-- An operation with every source byte read (R263). -/
def State.drain (s : State) (x : Xfer) (l : List (Parcel × List (Byte × Bool))) : State :=
  let s := s.engineFill x
  let y := { x with drained := true, moves := s.readMoves l x.moves }
  ((s.setXfer y).countDrained y |>.settleViews x.place).wakeCopies x.place

/-- The data have the lengths that an operation's reads ask for. -/
def Xfer.dataOk (x : Xfer) (ext : List (Envelope × List (Byte × Bool))) : Bool :=
  ext.map (·.2.length) = x.reads.map x.readLen

/-- `TRANSFER_OP_DRAINED` (R263): every source byte is read, of peers from the answers to the operation's reads. -/
def execTransferOpDrained (id : Nat) (ext : List (Envelope × List (Byte × Bool))) (s : State) : Out :=
  match s.xfer? id with
  | none => .next s
  | some x =>
    if x.isCpq || x.drained || x.deaf || !x.dataOk ext || s.xferLost x || s.readLocked x || !s.readsAway x then .next s
    else
      let l := x.reads.zip (ext.map (·.2))
      s.onXfer id ((x.reads.zip ext).map fun e => (e.2.1, 3, e.1.node, { e.1.packet with payload := e.2.2.map (·.1) }))
        fun s x => s.drain x l

/-! Landing (R263). -/

/-- `TRANSFER_OP_LANDED` (R263), with the acknowledgments of its packets: a write to a held twin frame waits at the memory controller
(R164). -/
def execTransferOpLanded (e : Nat × List Envelope) (s : State) : Out :=
  match s.xfer? e.1 with
  | none => .next s
  | some x =>
    if !x.drained || x.twin || x.deaf || !s.landsAlone x || s.xferLost x || s.writeLocked x || !s.writesAway x ||
        e.2.length ≠ x.acks.length then .next s
    else
      s.onXfer e.1 ((e.2.zip x.acks).map fun a => (a.1, 7, a.2.2.1, { a.2.2.2 with payload := [0] }))
        fun s x => if s.twinHeld x then s.setXfer { x with twin := true } else s.landXfer x

/-! Failing (R178). -/

/-- The packet of an operation that a peer's refusal answers: a read before it has drained, else one of what it writes. -/
def State.refusable (s : State) (x : Xfer) (i : Nat) : Option (BitVec 19 × Packet) :=
  if x.drained then
    match x.acks[i]? with
    | some a => if s.lotAway x a.1 then some a.2 else none
    | none => none
  else if s.readsAway x then (x.reads[i]?).map fun q => (q.node, q.packet)
  else none

/-- The classes that a peer's refusal carries (R178, R271). -/
def refusalOk (x : Xfer) (cls : BitVec 8) : Bool :=
  cls = 0x01 || cls = 0x02 || cls = 0x09 || (x.drained && x.kind = .cpl && (cls = 0x0A || cls = 0x0B))

/-- The operations that fail together: those whose landing packets shared a message whose tag has failed (R271), else the one. -/
def State.failsWith (s : State) (x : Xfer) (cls : BitVec 8) : List Xfer :=
  if x.kind = .cpl && cls = 0x0B then
    s.xfers.filter fun y => y.id = x.id || (y.kind = .cpl && y.told.any fun n => x.told.any fun m => m.2 = n.2)
  else [x]

/-- An operation fails, and those that fail with it. -/
def State.failXfers (s : State) (x : Xfer) (cls : BitVec 8) : State := (s.failsWith x cls).foldl (fun s y => s.failXfer y cls) s

/-- `TRANSFER_OP_FAILED` (R178, R271): a peer refuses one of its packets, or the host has no port (R404). -/
def execTransferOpFailed (id : Nat) (cls : BitVec 8 × Option (Nat × Envelope)) (s : State) : Out :=
  match s.xfer? id with
  | none => .next s
  | some x =>
    match cls.2 with
    | none => if cls.1 = 0x0B && s.xferLost x then .next (s.failXfers x 0x0B) else .next s
    | some (i, e) =>
      match s.refusable x i with
      | none => .next s
      | some q =>
        if refusalOk x cls.1 && !x.deaf then
          s.onXfer id [(e, 7, q.1, { q.2 with payload := [cls.1] })] fun s x => s.failXfers x cls.1
        else .next s

end Sys2Proof.Machine
end

