-- ==== Sys2Proof/Machine/Dispatch.lean ====
section
/-! DEFINITION. One arm per constructor of `Instr`: the meaning it calls. -/

namespace Sys2Proof.Machine

open Sys2Proof

/-- The effect of an instruction or event on a state: one call of its own meaning. -/
def exec (i : Instr) (s : State) : Host.Outcome State Fault Refusal :=
  match i with
  | .iadd d a b => Sys2Proof.Machine.execIadd d a b s
  | .isub d a b => Sys2Proof.Machine.execIsub d a b s
  | .imul d a b => Sys2Proof.Machine.execImul d a b s
  | .imulh d a b => Sys2Proof.Machine.execImulh d a b s
  | .iaddImm d a imm => Sys2Proof.Machine.execIaddImm d a imm s
  | .isubImm d a imm => Sys2Proof.Machine.execIsubImm d a imm s
  | .imulImm d a imm => Sys2Proof.Machine.execImulImm d a imm s
  | .imulhImm d a imm => Sys2Proof.Machine.execImulhImm d a imm s
  | .imad d a b => Sys2Proof.Machine.execImad d a b s
  | .imin d a b => Sys2Proof.Machine.execImin d a b s
  | .imax d a b => Sys2Proof.Machine.execImax d a b s
  | .iabs d a => Sys2Proof.Machine.execIabs d a s
  | .and d a b => Sys2Proof.Machine.execAnd d a b s
  | .or d a b => Sys2Proof.Machine.execOr d a b s
  | .xor d a b => Sys2Proof.Machine.execXor d a b s
  | .not d a => Sys2Proof.Machine.execNot d a s
  | .andImm d a imm => Sys2Proof.Machine.execAndImm d a imm s
  | .orImm d a imm => Sys2Proof.Machine.execOrImm d a imm s
  | .xorImm d a imm => Sys2Proof.Machine.execXorImm d a imm s
  | .shl d a b => Sys2Proof.Machine.execShl d a b s
  | .shr d a b => Sys2Proof.Machine.execShr d a b s
  | .sar d a b => Sys2Proof.Machine.execSar d a b s
  | .shlImm d a imm => Sys2Proof.Machine.execShlImm d a imm s
  | .shrImm d a imm => Sys2Proof.Machine.execShrImm d a imm s
  | .sarImm d a imm => Sys2Proof.Machine.execSarImm d a imm s
  | .clz d a => Sys2Proof.Machine.execClz d a s
  | .popc d a => Sys2Proof.Machine.execPopc d a s
  | .brev d a => Sys2Proof.Machine.execBrev d a s
  | .mov d a => Sys2Proof.Machine.execMov d a s
  | .bfe d a b => Sys2Proof.Machine.execBfe d a b s
  | .bfi d a b => Sys2Proof.Machine.execBfi d a b s
  | .sel d a p => Sys2Proof.Machine.execSel d a p s
  | .lea sh d a b => Sys2Proof.Machine.execLea sh d a b s
  | .movi d imm => Sys2Proof.Machine.execMovi d imm s
  | .movhi d imm => Sys2Proof.Machine.execMovhi d imm s
  | .icmp c p a b => Sys2Proof.Machine.execIcmp c p a b s
  | .icmpImm c p a imm => Sys2Proof.Machine.execIcmpImm c p a imm s
  | .fcmp c p a b => Sys2Proof.Machine.execFcmp c p a b s
  | .sadd d a b => Sys2Proof.Machine.execSadd d a b s
  | .ssub d a b => Sys2Proof.Machine.execSsub d a b s
  | .smul d a b => Sys2Proof.Machine.execSmul d a b s
  | .scmp a b => Sys2Proof.Machine.execScmp a b s
  | .sand d a b => Sys2Proof.Machine.execSand d a b s
  | .sor d a b => Sys2Proof.Machine.execSor d a b s
  | .sxor d a b => Sys2Proof.Machine.execSxor d a b s
  | .smov d a => Sys2Proof.Machine.execSmov d a s
  | .sshl d a b => Sys2Proof.Machine.execSshl d a b s
  | .sshr d a b => Sys2Proof.Machine.execSshr d a b s
  | .ssar d a b => Sys2Proof.Machine.execSsar d a b s
  | .smovImm d imm => Sys2Proof.Machine.execSmovImm d imm s
  | .saddImm d imm => Sys2Proof.Machine.execSaddImm d imm s
  | .scmpImm a imm => Sys2Proof.Machine.execScmpImm a imm s
  | .fadd d a b => Sys2Proof.Machine.execFadd d a b s
  | .fsub d a b => Sys2Proof.Machine.execFsub d a b s
  | .fmul d a b => Sys2Proof.Machine.execFmul d a b s
  | .fma d a b => Sys2Proof.Machine.execFma d a b s
  | .fmin d a b => Sys2Proof.Machine.execFmin d a b s
  | .fmax d a b => Sys2Proof.Machine.execFmax d a b s
  | .fabs d a => Sys2Proof.Machine.execFabs d a s
  | .fneg d a => Sys2Proof.Machine.execFneg d a s
  | .frcp d a => Sys2Proof.Machine.execFrcp d a s
  | .frsq d a => Sys2Proof.Machine.execFrsq d a s
  | .fsqrt d a => Sys2Proof.Machine.execFsqrt d a s
  | .fscale d a b => Sys2Proof.Machine.execFscale d a b s
  | .fexp2 d a => Sys2Proof.Machine.execFexp2 d a s
  | .flog2 d a => Sys2Proof.Machine.execFlog2 d a s
  | .fsin d a => Sys2Proof.Machine.execFsin d a s
  | .fcos d a => Sys2Proof.Machine.execFcos d a s
  | .ftanh d a => Sys2Proof.Machine.execFtanh d a s
  | .cvt d a => Sys2Proof.Machine.execCvt d a s
  | .pack d a imm => Sys2Proof.Machine.execPack d a imm s
  | .unpack d a imm => Sys2Proof.Machine.execUnpack d a imm s
  | .shfl m d a b => Sys2Proof.Machine.execShfl m d a b s
  | .shflImm m d a imm => Sys2Proof.Machine.execShflImm m d a imm s
  | .bcast d a imm => Sys2Proof.Machine.execBcast d a imm s
  | .mbcnt d p => Sys2Proof.Machine.execMbcnt d p s
  | .vote d p imm => Sys2Proof.Machine.execVote d p imm s
  | .redx o d a => Sys2Proof.Machine.execRedx o d a s
  | .scan o d a => Sys2Proof.Machine.execScan o d a s
  | .pand d a b => Sys2Proof.Machine.execPand d a b s
  | .por d a b => Sys2Proof.Machine.execPor d a b s
  | .pxor d a b => Sys2Proof.Machine.execPxor d a b s
  | .pnot d a => Sys2Proof.Machine.execPnot d a s
  | .pmov d a => Sys2Proof.Machine.execPmov d a s
  | .pcnt d a => Sys2Proof.Machine.execPcnt d a s
  | .pfirst d a => Sys2Proof.Machine.execPfirst d a s
  | .kmov d a => Sys2Proof.Machine.execKmov d a s
  | .kld d a imm => Sys2Proof.Machine.execKld d a imm s
  | .sread d n => Sys2Proof.Machine.execSread d n s
  | .swrite a n => Sys2Proof.Machine.execSwrite a n s
  | .br o => Sys2Proof.Machine.execBr o s
  | .brc c o => Sys2Proof.Machine.execBrc c o s
  | .brz p o => Sys2Proof.Machine.execBrz p o s
  | .brnz p o => Sys2Proof.Machine.execBrnz p o s
  | .call o => Sys2Proof.Machine.execCall o s
  | .fork p o => Sys2Proof.Machine.execFork p o s
  | .yieldc b o => Sys2Proof.Machine.execYieldc b o s
  | .nop => Sys2Proof.Machine.execNop s
  | .exit => Sys2Proof.Machine.execExit s
  | .yield => Sys2Proof.Machine.execYield s
  | .join => Sys2Proof.Machine.execJoin s
  | .ret a => Sys2Proof.Machine.execRet a s
  | .setmode a => Sys2Proof.Machine.execSetmode a s
  | .trap n => Sys2Proof.Machine.execTrap n s
  | .brk n => Sys2Proof.Machine.execBrk n s
  | .modef f imm => Sys2Proof.Machine.execModef f imm s
  | .bar b => Sys2Proof.Machine.execBar b s
  | .cbar b => Sys2Proof.Machine.execCbar b s
  | .reggrow n => Sys2Proof.Machine.execReggrow n s
  | .regshrink n => Sys2Proof.Machine.execRegshrink n s
  | .ld sc z d x o => Sys2Proof.Machine.execLd sc z d x o s
  | .st sc z d x o => Sys2Proof.Machine.execSt sc z d x o s
  | .ldn sc n d x o => Sys2Proof.Machine.execLdn sc n d x o s
  | .stn sc n d x o => Sys2Proof.Machine.execStn sc n d x o s
  | .ldp p z d x o => Sys2Proof.Machine.execLdp p z d x o s
  | .atom sc op x d o => Sys2Proof.Machine.execAtom sc op x d o s
  | .atomr sc op x d o => Sys2Proof.Machine.execAtomr sc op x d o s
  | .preq x o => Sys2Proof.Machine.execPreq x o s
  | .pref x o => Sys2Proof.Machine.execPref x o s
  | .rcmark x o => Sys2Proof.Machine.execRcmark x o s
  | .fenceAcq sc => Sys2Proof.Machine.execFenceAcq sc s
  | .fenceRel sc => Sys2Proof.Machine.execFenceRel sc s
  | .fenceAr sc => Sys2Proof.Machine.execFenceAr sc s
  | .xlat d a b => Sys2Proof.Machine.execXlat d a b s
  | .publish a => Sys2Proof.Machine.execPublish a s
  | .xrel d => Sys2Proof.Machine.execXrel d s
  | .mma sh d a b => Sys2Proof.Machine.execMma sh d a b s
  | .mmaq d a => Sys2Proof.Machine.execMmaq d a s
  | .mmaqs d a m => Sys2Proof.Machine.execMmaqs d a m s
  | .acommit m => Sys2Proof.Machine.execAcommit m s
  | .adiscard m => Sys2Proof.Machine.execAdiscard m s
  | .azero d => Sys2Proof.Machine.execAzero d s
  | .amov d a imm => Sys2Proof.Machine.execAmov d a imm s
  | .acvt d a imm => Sys2Proof.Machine.execAcvt d a imm s
  | .cpy z dx sx dv sv => Sys2Proof.Machine.execCpy z dx sx dv sv s
  | .cpg dx sx dv sv => Sys2Proof.Machine.execCpg dx sx dv sv s
  | .cpt d x b => Sys2Proof.Machine.execCpt d x b s
  | .cpq d a b => Sys2Proof.Machine.execCpq d a b s
  | .cpwaitSrc n => Sys2Proof.Machine.execCpwaitSrc n s
  | .cpwaitVis n => Sys2Proof.Machine.execCpwaitVis n s
  | .cptest d n => Sys2Proof.Machine.execCptest d n s
  | .seal d sc => Sys2Proof.Machine.execSeal d sc s
  | .lzopen d a => Sys2Proof.Machine.execLzopen d a s
  | .lzclose a => Sys2Proof.Machine.execLzclose a s
  | .lzres d a b => Sys2Proof.Machine.execLzres d a b s
  | .lzstat d a b => Sys2Proof.Machine.execLzstat d a b s
  | .lzwait a b => Sys2Proof.Machine.execLzwait a b s
  | .lzfree a b => Sys2Proof.Machine.execLzfree a b s
  | .cpl z h x m a => Sys2Proof.Machine.execCpl z h x m a s
  | .shipW a e x => Sys2Proof.Machine.execShipW a e x s
  | .shipT a e x t => Sys2Proof.Machine.execShipT a e x t s
  | .waitk k => Sys2Proof.Machine.execWaitk k s
  | .testk d k => Sys2Proof.Machine.execTestk d k s
  | .sret => Sys2Proof.Machine.execSret s
  | .illegalInstructionWord w => Sys2Proof.Machine.execIllegalInstructionWord w s
  | .clauseStart p sl => Sys2Proof.Machine.execClauseStart p sl s
  | .breakpointMatch p sl => Sys2Proof.Machine.execBreakpointMatch p sl s
  | .loadReturn p id => Sys2Proof.Machine.execLoadReturn p id s
  | .emptyOperationComplete p id => Sys2Proof.Machine.execEmptyOperationComplete p id s
  | .atomrReturn p id => Sys2Proof.Machine.execAtomrReturn p id s
  | .xlatComplete p id => Sys2Proof.Machine.execXlatComplete p id s
  | .sreadComplete p id => Sys2Proof.Machine.execSreadComplete p id s
  | .functionResult p id => Sys2Proof.Machine.execFunctionResult p id s
  | .lzopenComplete p id tag => Sys2Proof.Machine.execLzopenComplete p id tag s
  | .lzstatComplete p id => Sys2Proof.Machine.execLzstatComplete p id s
  | .lzresRequestArrival a => Sys2Proof.Machine.execLzresRequestArrival a s
  | .lzresAnswer p id a => Sys2Proof.Machine.execLzresAnswer p id a s
  | .mmaPerformed team => Sys2Proof.Machine.execMmaPerformed team s
  | .mmaqPerformed team => Sys2Proof.Machine.execMmaqPerformed team s
  | .mmaqsPerformed team => Sys2Proof.Machine.execMmaqsPerformed team s
  | .azeroPerformed team => Sys2Proof.Machine.execAzeroPerformed team s
  | .acommitPerformed team => Sys2Proof.Machine.execAcommitPerformed team s
  | .adiscardPerformed team => Sys2Proof.Machine.execAdiscardPerformed team s
  | .joinRedecide p sl => Sys2Proof.Machine.execJoinRedecide p sl s
  | .exitRedecide p sl => Sys2Proof.Machine.execExitRedecide p sl s
  | .teamBarrierComplete team b => Sys2Proof.Machine.execTeamBarrierComplete team b s
  | .clusterBarrierComplete ctx cluster b => Sys2Proof.Machine.execClusterBarrierComplete ctx cluster b s
  | .groupSlotRelease p => Sys2Proof.Machine.execGroupSlotRelease p s
  | .scratchpadRelease team => Sys2Proof.Machine.execScratchpadRelease team s
  | .teamPlacement ctx die core => Sys2Proof.Machine.execTeamPlacement ctx die core s
  | .timeSliceExpiry ctx => Sys2Proof.Machine.execTimeSliceExpiry ctx s
  | .checkpointImageWrite ctx => Sys2Proof.Machine.execCheckpointImageWrite ctx s
  | .savedResponseRecord a => Sys2Proof.Machine.execSavedResponseRecord a s
  | .fileMoveStart p => Sys2Proof.Machine.execFileMoveStart p s
  | .groupMoveOutComplete p => Sys2Proof.Machine.execGroupMoveOutComplete p s
  | .groupMoveInComplete p => Sys2Proof.Machine.execGroupMoveInComplete p s
  | .reggrowGrant core => Sys2Proof.Machine.execReggrowGrant core s
  | .regpoolRefusal core => Sys2Proof.Machine.execRegpoolRefusal core s
  | .remoteRequestArrival r => Sys2Proof.Machine.execRemoteRequestArrival r s
  | .remoteAnswer t a => Sys2Proof.Machine.execRemoteAnswer t a s
  | .fenceMarkerArrival node gkey e => Sys2Proof.Machine.execFenceMarkerArrival node gkey e s
  | .messageExpiry m => Sys2Proof.Machine.execMessageExpiry m s
  | .ackTimeout a => Sys2Proof.Machine.execAckTimeout a s
  | .hseqGapTimeout port node => Sys2Proof.Machine.execHseqGapTimeout port node s
  | .hostAtomicopCompletion p st => Sys2Proof.Machine.execHostAtomicopCompletion p st s
  | .releaseReadCompletion p port => Sys2Proof.Machine.execReleaseReadCompletion p port s
  | .l1Eviction core words => Sys2Proof.Machine.execL1Eviction core words s
  | .l2WriteBack line => Sys2Proof.Machine.execL2WriteBack line s
  | .transferOpDrained id ext => Sys2Proof.Machine.execTransferOpDrained id ext s
  | .transferOpLanded id => Sys2Proof.Machine.execTransferOpLanded id s
  | .transferOpFailed id cls => Sys2Proof.Machine.execTransferOpFailed id cls s
  | .emptyBatchComplete p b => Sys2Proof.Machine.execEmptyBatchComplete p b s
  | .cpqComplete id => Sys2Proof.Machine.execCpqComplete id s
  | .twinWritePerformed id => Sys2Proof.Machine.execTwinWritePerformed id s
  | .publishPerformed id => Sys2Proof.Machine.execPublishPerformed id s
  | .landingPacketArrival a => Sys2Proof.Machine.execLandingPacketArrival a s
  | .landingTagCheck msg tag => Sys2Proof.Machine.execLandingTagCheck msg tag s
  | .zoneNumberCooldownEnd core zone => Sys2Proof.Machine.execZoneNumberCooldownEnd core zone s
  | .hoistArrival h => Sys2Proof.Machine.execHoistArrival h s
  | .sectionStart mast ctx => Sys2Proof.Machine.execSectionStart mast ctx s
  | .watchdogExpiry p => Sys2Proof.Machine.execWatchdogExpiry p s
  | .hoistResponseArrival id a => Sys2Proof.Machine.execHoistResponseArrival id a s
  | .linkDown port => Sys2Proof.Machine.execLinkDown port s
  | .ucieLinkFailure dieA dieB => Sys2Proof.Machine.execUcieLinkFailure dieA dieB s
  | .pciePortDown port => Sys2Proof.Machine.execPciePortDown port s
  | .pageFaultService p => Sys2Proof.Machine.execPageFaultService p s
  | .migrationDecision va m => Sys2Proof.Machine.execMigrationDecision va m s
  | .pageFaultResolved va ext => Sys2Proof.Machine.execPageFaultResolved va ext s
  | .uncorrectableError e latent => Sys2Proof.Machine.execUncorrectableError e latent s
  | .scrub e => Sys2Proof.Machine.execScrub e s
  | .sensorSample r => Sys2Proof.Machine.execSensorSample r s
  | .wearUpdate w => Sys2Proof.Machine.execWearUpdate w s
  | .pcSample core sampler m => Sys2Proof.Machine.execPcSample core sampler m s
  | .traceSync die => Sys2Proof.Machine.execTraceSync die s
  | .traceLossRecovery die => Sys2Proof.Machine.execTraceLossRecovery die s
  | .launch q => Sys2Proof.Machine.execLaunch q s
  | .launchWaitResume q => Sys2Proof.Machine.execLaunchWaitResume q s
  | .signalWrite q => Sys2Proof.Machine.execSignalWrite q s
  | .signalAdd q => Sys2Proof.Machine.execSignalAdd q s
  | .waitGe q => Sys2Proof.Machine.execWaitGe q s
  | .waitEq q => Sys2Proof.Machine.execWaitEq q s
  | .waitSatisfied q => Sys2Proof.Machine.execWaitSatisfied q s
  | .queueCall q => Sys2Proof.Machine.execQueueCall q s
  | .queueReturn q => Sys2Proof.Machine.execQueueReturn q s
  | .queueJoin q => Sys2Proof.Machine.execQueueJoin q s
  | .queueFence q => Sys2Proof.Machine.execQueueFence q s
  | .queueFenceDone q => Sys2Proof.Machine.execQueueFenceDone q s
  | .prio q => Sys2Proof.Machine.execPrio q s
  | .region q tag gen => Sys2Proof.Machine.execRegion q tag gen s
  | .revoke q => Sys2Proof.Machine.execRevoke q s
  | .destroy q => Sys2Proof.Machine.execDestroy q s
  | .destroySave q => Sys2Proof.Machine.execDestroySave q s
  | .lookaheadRead q => Sys2Proof.Machine.execLookaheadRead q s
  | .serviceAnswer => Sys2Proof.Machine.execServiceAnswer s
  | .dispositionResume => Sys2Proof.Machine.execDispositionResume s
  | .dispositionEnd => Sys2Proof.Machine.execDispositionEnd s
  | .coreDumpRequest => Sys2Proof.Machine.execCoreDumpRequest s
  | .haltGroup => Sys2Proof.Machine.execHaltGroup s
  | .haltKernel => Sys2Proof.Machine.execHaltKernel s
  | .resume => Sys2Proof.Machine.execResume s
  | .step => Sys2Proof.Machine.execStep s
  | .stateWrite => Sys2Proof.Machine.execStateWrite s
  | .stateReadBack => Sys2Proof.Machine.execStateReadBack s
  | .mastClaim => Sys2Proof.Machine.execMastClaim s
  | .mastRelease => Sys2Proof.Machine.execMastRelease s
  | .attestationRequest => Sys2Proof.Machine.execAttestationRequest s
  | .genericRegisterWrite off v => Sys2Proof.Machine.execGenericRegisterWrite off v s
  | .bar0BadAccess off width write => Sys2Proof.Machine.execBar0BadAccess off width write s
  | .qctlWrite q v => Sys2Proof.Machine.execQctlWrite q v s
  | .qtailWrite q v => Sys2Proof.Machine.execQtailWrite q v s
  | .qstatWrite q v => Sys2Proof.Machine.execQstatWrite q v s
  | .qspbufWrite q hi v => Sys2Proof.Machine.execQspbufWrite q hi v s
  | .mbin3Write f v => Sys2Proof.Machine.execMbin3Write f v s
  | .fwinEnable w v => Sys2Proof.Machine.execFwinEnable w v s
  | .fwinDisable w v => Sys2Proof.Machine.execFwinDisable w v s
  | .fwinDisableComplete w => Sys2Proof.Machine.execFwinDisableComplete w s
  | .mastringWrite die m v => Sys2Proof.Machine.execMastringWrite die m v s
  | .mastclrClearLock die m v => Sys2Proof.Machine.execMastclrClearLock die m v s
  | .mastclrClearAll die m v => Sys2Proof.Machine.execMastclrClearAll die m v s
  | .rlogctlWrite v => Sys2Proof.Machine.execRlogctlWrite v s
  | .ptrootWrite v => Sys2Proof.Machine.execPtrootWrite v s
  | .skctlClr u v => Sys2Proof.Machine.execSkctlClr u v s
  | .trctlWrite die v => Sys2Proof.Machine.execTrctlWrite die v s
  | .pwrctlWrite die v => Sys2Proof.Machine.execPwrctlWrite die v s
  | .bootgoWrite v => Sys2Proof.Machine.execBootgoWrite v s
  | .firmwareReady b => Sys2Proof.Machine.execFirmwareReady b s
  | .hostBar2Read addr len => Sys2Proof.Machine.execHostBar2Read addr len s
  | .hostBar2Write addr data => Sys2Proof.Machine.execHostBar2Write addr data s
  | .packageReset => Sys2Proof.Machine.execPackageReset s
  | .hbmTrainingComplete => Sys2Proof.Machine.execHbmTrainingComplete s
  | .correctedError die e => Sys2Proof.Machine.execCorrectedError die e s
  | .reggrowSpillLoadComplete p => Sys2Proof.Machine.execReggrowSpillLoadComplete p s
  | .residencyRequestService => Sys2Proof.Machine.execResidencyRequestService s
  | .fenceMarkerAckArrival n p => Sys2Proof.Machine.execFenceMarkerAckArrival n p s
  | .hoistAcknowledgmentArrival a => Sys2Proof.Machine.execHoistAcknowledgmentArrival a s
  | .linkUp port => Sys2Proof.Machine.execLinkUp port s
  | .pciePortUp port => Sys2Proof.Machine.execPciePortUp port s
  | .l2Eviction line => Sys2Proof.Machine.execL2Eviction line s

end Sys2Proof.Machine
end

