-- ==== Sys2Proof/Machine/Turns.lean ====
section
/-! DEFINITION. What a step does around `exec` (log entry 1): whose turn it is, the word that a slot issues, and what the
issue of an instruction brings with it (R22, R27, R66, R435, R440, R443). -/

namespace Sys2Proof.Machine

open Sys2Proof

/-- An event that may come about by itself: not an instruction word, which only a slot issues. -/
def isEvent (i : Instr) : Bool :=
  (encode i).isNone && (match i with
    | .illegalInstructionWord _ => false
    | _ => true)

/-- The turn of a slot: what it does, none where it cannot issue (R20, R22, R440) or where the rotation of its scheduler
gives another slot the turn (R208). -/
def State.slotTurn (s : State) (p : Nat) (sl : SlotId) : Option Instr :=
  if !s.slotReady p sl || !s.turnOf p sl then none
  else if (s.breakDue p sl).isSome then some (.breakpointMatch p sl)
  else
    match ((s.group p).slot sl).word? with
    | none => some (.clauseStart p sl)
    | some w => some (instrOf w)

/-- The slot of a step request has issued its one instruction: the group halts once what it holds the group by is complete (R443). -/
def State.endStep (s : State) (p : Nat) (sl : SlotId) : State :=
  let g := s.group p
  if g.stepSlot = some sl then s.setGroup p { g with stepOver := true } else s

/-- A step request that is over (R443): with a fault of its slot, which stands, or with its instruction. A group that has ended takes none. -/
def State.closeStep (s : State) (p : Nat) : State :=
  let g := s.group p
  match g.stepSlot with
  | none => s
  | some sl =>
    if !g.live || g.ended || g.halted then s
    else if g.fault.any fun f => f.slot = sl then s.setGroup p { g with halted := true, stepSlot := none, stepOver := false }
    else if g.stepOver && g.hold.isNone && g.rel.isNone then
      s.haltAt p sl { fault 0x13 with num := 0xFFFF } (s.haltWord p sl)
    else s

/-- The step requests that are over are closed. -/
def State.closeSteps (s : State) : State :=
  (s.groups.filter fun e => e.2.stepSlot.isSome).foldl (fun s e => s.closeStep e.1) s

/-- What follows an instruction of a slot: the sketch counts of its issue, its place in the rotation, the breakpoint that it
has passed, and the end of a step. `s` is the state that it issued in, and `t` the one that it gave. -/
def afterIssue (s t : State) (p : Nat) (sl : SlotId) : State :=
  if !issued s t p sl then t
  else
    let x := (s.group p).slot sl
    let t := t.rotate p sl x
    let pc := x.pc
    let lanes := match (s.group p).active sl with
      | .ok a => (lanesOf a).length
      | .error _ => 0
    let t := (t.count p pc 1 1).count p pc 2 lanes
    let g := t.group p
    (t.setGroup p { g with passBp := g.passBp.filter fun e => e.1 != sl }).endStep p sl

/-- What a slot does in its turn is the issue of an instruction word. -/
def isIssue (i : Instr) : Bool := !isEvent i

/-- A result word of an outstanding operation that lands before the operation completes (R27). -/
def State.landEarly (s : State) (p id n : Nat) : State :=
  let g := s.group p
  match g.ops.find? (fun o => o.id = id) with
  | none => s
  | some o =>
    match o.writes[n]? with
    | none => s
    | some w =>
      let s := s.applyWrite p w
      let g := s.group p
      s.setGroup p { g with ops := g.ops.map fun x => if x.id = id then { x with writes := x.writes.eraseIdx n } else x }

/-- The host writes its own memory (R227, R404), but not between the lanes of an atomic on it (R252). -/
def State.hostWrite (s : State) (addr : Nat) (data : List Byte) : State :=
  if addr + data.length ≤ 2 ^ 51 && !s.locked (2 ^ 51 + addr) data.length then s.putClean (2 ^ 51 + addr) data else s

/-! The emergency stop (R450). -/

/-- An event of the outside world: the host's accesses, package reset, the ports, and the sensors. -/
def fromOutside (i : Instr) : Bool :=
  match i with
  | .genericRegisterWrite _ _ | .bar0BadAccess _ _ _ | .qctlWrite _ _ | .qtailWrite _ _ | .qstatWrite _ _ | .qspbufWrite _ _ _ | .mbin3Write _ _
  | .fwinEnable _ _ | .fwinDisable _ _ | .mastringWrite _ _ _ | .mastclrClearLock _ _ _ | .mastclrClearAll _ _ _ | .rlogctlWrite _
  | .ptrootWrite _ | .skctlClr _ _ | .trctlWrite _ _ | .pwrctlWrite _ _ | .bootgoWrite _ | .hostBar2Read _ _ | .hostBar2Write _ _
  | .packageReset | .pciePortDown _ | .pciePortUp _ | .linkDown _ | .linkUp _ | .sensorSample _ => true
  | _ => false

/-- A turn that comes about while the emergency stop has gated every die's clocks (R450): only what comes from outside the dies. The
model gates them in the step of the trip, of the 5 µs that R450 allows none (DESIGN CHOICE, log entry 69). -/
def Turn.ungated : Turn → Bool
  | .event i => fromOutside i
  | .host _ _ | .hostRead _ | .fabric _ => true
  | _ => false

/-! What follows every step. -/

/-- The decisions of a group's slots that are due, until none is (R120). Two slots need no more than four. -/
def State.redecideAll (s : State) (p : Nat) : State := [SlotId.A, .B, .A, .B].foldl (fun s sl => s.redecide p sl) s

/-- The decisions that are due are made (R120), step requests that are over end (R443), lines leave the caches that are over their size (R2, R229), the messages to
peers are formed (R260), and the scheduler notes since when groups are ready or evictable (R210). -/
def State.settled (s : State) : State :=
  (((((s.groups.map (·.1)).foldl (fun s p => s.redecideAll p) s).closeSteps).fitCaches).formMessages).stampFiles

/-! Time. -/

/-- The clocks to the next multiple of a period. -/
def toNext (c period : Nat) : Nat := period - c % period

/-- The clocks that pass in a turn of time: none before every scheduler has taken the sample of this clock, and none beyond the clock of
the next sample or of a trace ring's next sync (R433, R438). -/
def State.passes (s : State) (n : Nat) : Nat :=
  let x := s.samp
  let c := s.clock.toNat
  let n := if (List.range 8).any fun d => (s.ring d).ctl.getLsbD 63 then min n (toNext c 4096) else n
  if !x.ctl.getLsbD 63 || !(s.groups.any fun e => e.2.live && !e.2.ended && !isMast e.1) then n
  else if c % x.period = 0 && s.nextSampler.isSome then 0
  else min n (toNext c x.period)

/-- Clocks pass: the trace rings take the packets of the clock that ends, and a sampler that is off drops its samples (R433, R438). -/
def State.tick (s : State) (n : Nat) : State :=
  if n = 0 then s
  else
    let s := ((List.range 8).foldl (fun s d => s.flushRing d) s).missSamples n
    (List.range 8).foldl (fun s d => s.refreshDue d) { s with clock := s.clock + BitVec.ofNat 64 n }

/-! The word of a test placed where the machine fetches (log entry 1). -/

/-- The largest allotments of a kernel (R74). -/
def widestKernel : Kernel := { vgran := 32, kgran := 8, tiles := 16, accs := 32 }

/-- A group as it is placed for a kernel of the widest allotments and seed 0 (R34, R52, R304). -/
def freshGroup : Group :=
  { live := true, gk := 0x100001, startGen := 1, vgran := 32, race := { live := true }, rng := seedStates 0,
    slotA := { state := .live, mask := BitVec.allOnes 32 } }

/-- The state with a live group at group slot 0, if there is none: its context and its team with it. -/
def State.withGroup (s : State) : State :=
  if (s.group 0).live then s
  else
    let s := s.setCtx 0 { s.ctx 0 with live := true, kernel := widestKernel, next := 1 }
    let s := s.setTeam 0 { s.team 0 with live := true, groups := [0], kgran := 8, tiles := 16, accs := 32 }
    s.setGroup 0 freshGroup

/-- A group that may issue from slot A, at a clause of the one word. -/
def Group.ready (g : Group) (w : Word) : Group :=
  let x := g.slotA
  { g with ended := false, hold := none, rel := none, fault := none, halted := false, stepSlot := none, stepOver := false, service := none,
           passBp := [(.A, x.pc)], file := .active,
           slotA := { x with state := .live, left := none, clause := some { hdr := x.pc - 4, header := 0xFF00, words := [w], idx := 0 } } }

/-- The state in which slot A of group slot 0 issues the one word next. -/
def State.placeWord (s : State) (w : Word) : State :=
  let s := s.withGroup
  let g := s.group 0
  let s := s.setCtx g.ctx { s.ctx g.ctx with phase := .run }
  { (s.setGroup 0 (g.ready w)).putFirst 0 .A with agenda := [], cur := 0, curSlot := .A, stopped := false }

end Sys2Proof.Machine
end

