-- ==== Sys2Proof/Machine/Step.lean ====
section
/-! DEFINITION. One step: the turn at the head of the agenda, or of the current slot where there is none (log entry 1). -/

namespace Sys2Proof.Machine

open Sys2Proof

/-- A slot's turn: what it does, with what its issue brings. -/
def stepSlot (s : State) (p : Nat) (sl : SlotId) : Host.Outcome State Fault Refusal :=
  let s := s.focus p sl
  match s.slotTurn p sl with
  | none => .next s
  | some i =>
    match exec i s with
    | .next t => .next (if isIssue i then afterIssue s t p sl else t)
    | .fault f => .fault f
    | .refused r => .refused r

/-- A turn, of a machine whose clocks run. -/
def stepTurn (s : State) : Turn → Host.Outcome State Fault Refusal
  | .issue p sl => stepSlot s p sl
  | .event i => if isEvent i then exec i s else .next s
  | .time n => .next (s.tick (s.passes n))
  | .land p id n => .next (s.landEarly p id n)
  | .host addr data => .next (s.hostWrite addr data)
  | .hostRead off => .next (s.hostRead off)
  | .mail f => .next (s.readMail f)
  | .send port => .next (s.sendNext port)
  | .fabric us => .next { s with ftime := s.ftime + us }

/-- What the turn of the next step does: nothing once the emergency stop has gated the clocks, but for what comes from outside (R450). -/
def turn (s : State) : Host.Outcome State Fault Refusal :=
  match s.agenda with
  | [] => stepSlot s s.cur s.curSlot
  | t :: r => if s.emerg && !t.ungated then .next { s with agenda := r } else stepTurn { s with agenda := r } t

/-- One step of the machine: a turn, and what follows every step. -/
def step (s : State) : Host.Outcome State Fault Refusal :=
  match turn s with
  | .next t => .next t.settled
  | .fault f => .fault f
  | .refused r => .refused r

/-- The state with an instruction of the opcode table's numbering where the next step issues it (log entry 1). -/
def State.withFetchWord (s : State) (_nbits w : Nat) : State := s.placeWord (BitVec.ofNat 32 w)

end Sys2Proof.Machine
end

