-- ==== Sys2Proof/Safety.lean ====
section
/-! DEFINITION. What counts as a safe step and a safe state, and the terms in which statements speak of an instruction
that completes: what its operands must meet, and what it leaves. -/

namespace Sys2Proof.Machine

open Sys2Proof

/-- A step is safe when the machine answers a next state: it neither faults nor refuses. -/
def SafeStep (s : State) : Prop := ∃ t, step s = .next t

/-- A state is well-formed when its memory is in canonical form: addresses strictly rising and no
listed byte equal to what an unlisted address reads as. -/
def State.Inv (s : State) : Prop := Memory.wf s.mem = true

/-! What the operands of an instruction meet. -/

/-- active(g) of the issuing slot is `act`, and neither `gm` nor the guard predicate is poisoned (R10, R37, R425). -/
def Lanes (s : State) (act : Word) : Prop :=
  s.sl.gmPoison = false ∧ (s.g.getP (gmGuard s.sl.gm)).poison = false ∧
    s.sl.mask &&& (s.g.getP (gmGuard s.sl.gm)).val = act

/-- The vector registers lie in the group's allotment (R34). -/
def Owned (s : State) (rs : List Nat) : Prop := ∀ r ∈ rs, r < 8 * s.g.vgran

/-- No word of the registers is poisoned in a lane of the mask (R80). -/
def Clean (s : State) (act : Word) (rs : List Nat) : Prop :=
  ∀ r ∈ rs, ∀ l < 32, act.getLsbD l = true → (s.g.getV r l).poison = false

/-- `gm`.dtype names a type that has a place in a vector register (R36, R79). -/
def HasDtype (s : State) (T : Ty) : Prop := tyOf (gmDtype s.sl.gm) = some T ∧ ty64 T = false

/-- A scalar-side register may be read: in the allotment and not poisoned (R34, R425). -/
def SideOk (s : State) (f : BitVec 7) : Prop := s.sideOk f = true ∧ (s.side f).poison = false

/-- The operands of a memory instruction are in order (R34, R80, R141, R145, R146): its lanes are `act`, the registers `srcs`
that it reads are clean there, its translation register is valid, and every unit translates for it. -/
def Accessible (s : State) (x : BitVec 3) (act : Word) (srcs : List Nat) (units : List MUnit) : Prop :=
  Lanes s act ∧ Owned s srcs ∧ Clean s act srcs ∧
    ((s.g.getX x.toNat).valid = true ∧ (s.g.getX x.toNat).poison = false) ∧ badUnits units = []

/-- The access of a memory instruction whose units translate, as a hold would keep it: what each unit stores and what an
atomic compares. -/
def State.access (s : State) (i : Instr) (act : Word) (units : List MUnit) (store : Bool) (data : Nat → Nat → List Byte)
    (compare : Nat → List Byte) : Hold :=
  { slot := s.curSlot, instr := i, lanes := act,
    units := (goodUnits units).map (holdUnit s (memScope i).1 (!store) data compare) }

/-- An access goes through at once: no earlier `PUBLISH` of its group is open (R242), the transaction table has the entries that it needs
(R262), none of its units waits for a peer (R147) or lies in a unit that an atomic holds between its lanes (R252), and it is no
atomic that goes to host memory lane by lane (R405). -/
def Goes (s : State) (h : Hold) : Prop :=
  s.memReady = true ∧ (∀ u ∈ h.units, s.locked u.loc.key u.bytes = false ∧ u.waits = false) ∧
    (s.txRoom (txLines h.instr h.units)).isSome = true ∧ h.sequenced = false

/-- The state in which an access that goes through meets its last checks and is performed: it waits for no table entry, and
nothing holds its group. -/
def State.open_ (s : State) : State := s.txDone.endHold

/-- The last checks of a span, whose registers all translate: what peers refuse, then the race check of the whole span (R146, R153,
R309). -/
def State.spanChecks (s : State) (store : Bool) (h : Hold) : State × Option FaultInfo :=
  match s.spanStop store (memScope h.instr).1 h with
  | some f => (s, some f)
  | none => s.raceSpan (oneIf store) (memScope h.instr).1 h.units

/-! What an instruction leaves. -/

/-- The word of a vector register in a lane of the issuing group. -/
def State.vw (s : State) (r : BitVec 8) (l : Nat) : Word := (s.g.getV r.toNat l).val

/-- The instruction completes, and each lane of `act` gets the word `f l` in vector register `d`: the next state is this
one with words of `d` written in those lanes and the issuing slot past its word. All else is as before: every other lane
and register, the other slot, every other group, every byte of memory. -/
def WritesVector (i : Instr) (s : State) (act : Word) (d : Nat) (f : Nat → Word) : Prop :=
  ∃ v, exec i s = .next (s.setG { s.g with v := v }).advance ∧
    (∀ r l, l < 32 → v.look (r * 32 + l) {} = if r = d ∧ act.getLsbD l = true then { val := f l } else s.g.getV r l) ∧
    ∀ a, memRead (s.setG { s.g with v := v }).advance.mem a = memRead s.mem a

/-- The instruction completes, and predicate `p` gets the bits of `bits` in the lanes of `act`; its other bits and all else
are as before, and a write of `p0` is discarded (R33). -/
def WritesPredicate (i : Instr) (s : State) (act : Word) (p : Nat) (bits : Word) : Prop :=
  exec i s = .next (s.setG (if p = 0 then s.g else
    { s.g with p := s.g.p.put p { s.g.getP p with val := ((s.g.getP p).val &&& ~~~act) ||| (bits &&& act) } })).advance

/-- The instruction completes, and writes scalar register `d` and the issuing slot's condition bits; all else is as before. -/
def WritesScalar (i : Instr) (s : State) (d : BitVec 6) (r : Dword) (c : Cond) : Prop :=
  exec i s = .next (s.setG (({ s.g with s := s.g.s.put d.toNat { val := r } } : Group).setSlot s.curSlot
    { s.sl with cc := c })).advance

end Sys2Proof.Machine
end

