-- ==== Sys2Proof/WellFormed.lean ====
section
/-! DEFINITION. Well-formed instructions: those whose operands R66 does not refuse from the word's bits. -/

namespace Sys2Proof

/-- The instruction's operands are in range, as far as its word shows. -/
abbrev Instr.WellFormed (i : Instr) : Prop := operandBitsOk i = true

end Sys2Proof
end

