-- ==== Sys2Proof/Certificates/Slice0/Obligations.lean ====
section
/-! DEFINITION. The statements for the provers. -/

open Sys2Proof Sys2Proof.Machine

/-- IADD, ISUB, IMUL, IMULH and their immediate forms, IMIN, IMAX, IMAD and IABS, in every element type: with gm and the
guard predicate readable, the registers in the allotment and no source word of an active lane poisoned, the
instruction completes; each element of each active lane of v[d] is the exact result of the operation on the elements'
integers, fitted to the type under gm.sat (IMULH, IMIN and IMAX as they stand), an immediate taken as a signed value,
and nothing else changes but the slot's place. What IMULH of an n type and a negative immediate gives is the model's
choice (log entry 10). (R34, R79, R80, R81, R82) -/
def Obligations.IntegerArithmetic : Prop :=
  ∀ (s : State) (act : Word) (T : Ty) (d a b i : BitVec 8), Lanes s act → HasDtype s T →
    let R := intTy T
    let w := tyWidth R
    let sat := gmSat s.sl.gm
    let x := fun l e => intOf R (elem (s.vw a l) R e)
    let y := fun l e => intOf R (elem (s.vw b l) R e)
    (Owned s [d.toNat, a.toNat, b.toNat] → Clean s act [a.toNat, b.toNat] →
      WritesVector (.iadd d a b) s act d.toNat (fun l => wordOf R fun e => fitInt R sat (x l e + y l e)) ∧
      WritesVector (.isub d a b) s act d.toNat (fun l => wordOf R fun e => fitInt R sat (x l e - y l e)) ∧
      WritesVector (.imul d a b) s act d.toNat (fun l => wordOf R fun e => fitInt R sat (x l e * y l e)) ∧
      WritesVector (.imulh d a b) s act d.toNat (fun l => wordOf R fun e => wrapTo w (x l e * y l e / (2 ^ w : Nat))) ∧
      WritesVector (.imin d a b) s act d.toNat (fun l => wordOf R fun e => wrapTo w (min (x l e) (y l e))) ∧
      WritesVector (.imax d a b) s act d.toNat (fun l => wordOf R fun e => wrapTo w (max (x l e) (y l e))) ∧
      (Clean s act [d.toNat] →
        WritesVector (.imad d a b) s act d.toNat (fun l => wordOf R fun e =>
          fitInt R sat (x l e * y l e + intOf R (elem (s.vw d l) R e))))) ∧
    (Owned s [d.toNat, a.toNat] → Clean s act [a.toNat] →
      WritesVector (.iaddImm d a i) s act d.toNat (fun l => wordOf R fun e => fitInt R sat (x l e + i.toInt)) ∧
      WritesVector (.isubImm d a i) s act d.toNat (fun l => wordOf R fun e => fitInt R sat (x l e - i.toInt)) ∧
      WritesVector (.imulImm d a i) s act d.toNat (fun l => wordOf R fun e => fitInt R sat (x l e * i.toInt)) ∧
      WritesVector (.imulhImm d a i) s act d.toNat
        (fun l => wordOf R fun e => wrapTo w (x l e * i.toInt / (2 ^ w : Nat))) ∧
      WritesVector (.iabs d a) s act d.toNat (fun l => wordOf R fun e => fitInt R sat (x l e).natAbs))

/-- For every integer type (s, n and bit-plane types) and every integer z: the element that fitting z gives denotes z
clamped to the type's least and greatest value when sat = 1; when sat = 0 it denotes an integer within that range that
differs from z by a multiple of 2^width. The range of an s type of width w is −2^(w−1) to 2^(w−1) − 1, that of an n
type 0 to 2^w − 1. (R41, R49) -/
def Obligations.IntegerResultsFit : Prop :=
  ∀ (T : Ty) (z : Int), tyS T = true ∨ tyN T = true →
    let w := tyWidth T
    let lo : Int := if tyS T then -2 ^ (w - 1) else 0
    let hi : Int := if tyS T then 2 ^ (w - 1) - 1 else 2 ^ w - 1
    intOf T (fitInt T true z) = max lo (min hi z) ∧
    lo ≤ intOf T (fitInt T false z) ∧ intOf T (fitInt T false z) ≤ hi ∧
    (2 ^ w : Int) ∣ intOf T (fitInt T false z) - z

/-- AND, OR, XOR, NOT, their immediate forms, MOV, MOVI and MOVHI complete under the conditions on their operands,
whatever gm.dtype and sat are; each active lane of v[d] gets the named word (an immediate sign-extended to 32 bits;
MOVHI keeps bits 15 to 0), and nothing else changes but the slot's place. (R34, R80, R83, R85, R89) -/
def Obligations.WordLogicAndMoves : Prop :=
  ∀ (s : State) (act : Word) (d a b i : BitVec 8) (j : BitVec 16), Lanes s act →
    (Owned s [d.toNat, a.toNat, b.toNat] → Clean s act [a.toNat, b.toNat] →
      WritesVector (.and d a b) s act d.toNat (fun l => s.vw a l &&& s.vw b l) ∧
      WritesVector (.or d a b) s act d.toNat (fun l => s.vw a l ||| s.vw b l) ∧
      WritesVector (.xor d a b) s act d.toNat (fun l => s.vw a l ^^^ s.vw b l)) ∧
    (Owned s [d.toNat, a.toNat] → Clean s act [a.toNat] →
      WritesVector (.not d a) s act d.toNat (fun l => ~~~s.vw a l) ∧
      WritesVector (.andImm d a i) s act d.toNat (fun l => s.vw a l &&& BitVec.ofInt 32 i.toInt) ∧
      WritesVector (.orImm d a i) s act d.toNat (fun l => s.vw a l ||| BitVec.ofInt 32 i.toInt) ∧
      WritesVector (.xorImm d a i) s act d.toNat (fun l => s.vw a l ^^^ BitVec.ofInt 32 i.toInt) ∧
      WritesVector (.mov d a) s act d.toNat (fun l => s.vw a l)) ∧
    (Owned s [d.toNat] →
      WritesVector (.movi d j) s act d.toNat (fun _ => BitVec.ofInt 32 j.toInt) ∧
      (Clean s act [d.toNat] →
        WritesVector (.movhi d j) s act d.toNat (fun l => j ++ (s.vw d l).extractLsb' 0 16)))

/-- SHL, SHR and SAR of registers and of immediates complete under the conditions on their operands. With w the element
width, x the element's bits and c the unsigned count: SHL gives x × 2^c modulo 2^w, SHR gives floor(x / 2^c), and SAR
gives the floor of the signed element over 2^c, reduced to w bits, for every c including c ≥ w. Nothing else changes
but the slot's place. (R34, R79, R80, R81, R84) -/
def Obligations.Shifts : Prop :=
  ∀ (s : State) (act : Word) (T : Ty) (d a b i : BitVec 8), Lanes s act → HasDtype s T →
    let R := intTy T
    let w := tyWidth R
    let x := fun l e => elem (s.vw a l) R e
    let c := fun l e => elem (s.vw b l) R e
    (Owned s [d.toNat, a.toNat, b.toNat] → Clean s act [a.toNat, b.toNat] →
      WritesVector (.shl d a b) s act d.toNat (fun l => wordOf R fun e => x l e * 2 ^ c l e % 2 ^ w) ∧
      WritesVector (.shr d a b) s act d.toNat (fun l => wordOf R fun e => x l e / 2 ^ c l e) ∧
      WritesVector (.sar d a b) s act d.toNat
        (fun l => wordOf R fun e => wrapTo w (signedOf w (x l e) / (2 ^ c l e : Nat)))) ∧
    (Owned s [d.toNat, a.toNat] → Clean s act [a.toNat] →
      WritesVector (.shlImm d a i) s act d.toNat (fun l => wordOf R fun e => x l e * 2 ^ i.toNat % 2 ^ w) ∧
      WritesVector (.shrImm d a i) s act d.toNat (fun l => wordOf R fun e => x l e / 2 ^ i.toNat) ∧
      WritesVector (.sarImm d a i) s act d.toNat
        (fun l => wordOf R fun e => wrapTo w (signedOf w (x l e) / (2 ^ i.toNat : Nat))))

/-- CLZ, POPC, BREV, BFE and BFI complete under the conditions on their operands. CLZ writes the n ≤ w for which the
element is below 2^(w−n) and, unless n = w, not below 2^(w−n−1); POPC the number of set bits; BREV the element with
bit j moved to bit w−1−j; BFE and BFI work on whole words with pos and len from v[b], len cut at bit 32, and BFE
sign-extends from the field's top bit unless dtype is an n type. Nothing else changes but the slot's place. (R34, R79,
R80, R81, R85, R86) -/
def Obligations.BitCountsAndFields : Prop :=
  ∀ (s : State) (act : Word) (T : Ty) (d a b : BitVec 8), Lanes s act → HasDtype s T →
    let R := intTy T
    let w := tyWidth R
    let x := fun l e => elem (s.vw a l) R e
    let pos := fun l => (s.vw b l).toNat % 256
    let len := fun l => if 32 ≤ pos l then 0 else min ((s.vw b l).toNat / 256 % 256) (32 - pos l)
    let fld := fun l => (s.vw a l).toNat / 2 ^ pos l % 2 ^ len l
    let m : Nat → Word := fun l => BitVec.ofNat 32 ((2 ^ len l - 1) * 2 ^ pos l)
    (Owned s [d.toNat, a.toNat] → Clean s act [a.toNat] →
      (∃ clz : Nat → Nat → Nat, WritesVector (.clz d a) s act d.toNat (fun l => wordOf R (clz l)) ∧
        ∀ l, ∀ e < tyCount R, clz l e ≤ w ∧ x l e < 2 ^ (w - clz l e) ∧ (clz l e < w → 2 ^ (w - clz l e - 1) ≤ x l e)) ∧
      WritesVector (.popc d a) s act d.toNat
        (fun l => wordOf R fun e => ((List.range w).filter (fun j => (x l e).testBit j)).length) ∧
      ∃ rev : Nat → Nat → Nat, WritesVector (.brev d a) s act d.toNat (fun l => wordOf R (rev l)) ∧
        ∀ l, ∀ e < tyCount R, ∀ j < w, (rev l e).testBit (w - 1 - j) = (x l e).testBit j) ∧
    (Owned s [d.toNat, a.toNat, b.toNat] → Clean s act [a.toNat, b.toNat] →
      WritesVector (.bfe d a b) s act d.toNat (fun l =>
        if len l = 0 then 0
        else if tyN T then BitVec.ofNat 32 (fld l)
        else BitVec.ofInt 32 (if 2 ^ (len l - 1) ≤ fld l then (fld l : Int) - 2 ^ len l else fld l)) ∧
      (Clean s act [d.toNat] →
        WritesVector (.bfi d a b) s act d.toNat (fun l => (s.vw d l &&& ~~~m l) ||| (s.vw a l <<< pos l &&& m l))))

/-- ICMP of registers and with an immediate, and FCMP, complete under the conditions on their operands: bit l of p[p] of
each active lane becomes 1 exactly when the condition holds of element 0 of the words, ICMP by the integers of the
element type (an immediate reduced to its width: under an n type the model's choice, log entry 10), FCMP by the
decoded f32 values, where a NaN makes only NE and UN true; the other bits of the predicate and everything else but the
slot's place are unchanged, and p0 discards the result. (R33, R34, R80, R81, R90, R91) -/
def Obligations.ComparesWritePredicates : Prop :=
  ∀ (s : State) (act : Word) (T : Ty) (p : BitVec 4) (a b i : BitVec 8), Lanes s act → HasDtype s T →
    let R := intTy T
    let int := fun (c : ICond) (x y : Int) => match c with
      | .eq => decide (x = y) | .ne => decide (x ≠ y) | .lt => decide (x < y)
      | .le => decide (x ≤ y) | .gt => decide (y < x) | .ge => decide (y ≤ x)
    let x := fun l => intOf R (elem (s.vw a l) R 0)
    let y := fun l => intOf R (elem (s.vw b l) R 0)
    let fx := fun l => decodeNum .f32 (gmFin s.sl.gm) (s.vw a l).toNat
    let fy := fun l => decodeNum .f32 (gmFin s.sl.gm) (s.vw b l).toNat
    let nan := fun l => isNan (fx l) || isNan (fy l)
    let float := fun (c : FCond) (l : Nat) => match c with
      | .un => nan l | .ord => !nan l
      | .eq => !nan l && !ltNum (fx l) (fy l) && !ltNum (fy l) (fx l)
      | .ne => nan l || ltNum (fx l) (fy l) || ltNum (fy l) (fx l)
      | .lt => !nan l && ltNum (fx l) (fy l) | .gt => !nan l && ltNum (fy l) (fx l)
      | .le => !nan l && !ltNum (fy l) (fx l) | .ge => !nan l && !ltNum (fx l) (fy l)
    (Owned s [a.toNat, b.toNat] → Clean s act [a.toNat, b.toNat] →
      (∀ c, ∃ bits, WritesPredicate (.icmp c p a b) s act p.toNat bits ∧
        ∀ l < 32, act.getLsbD l = true → bits.getLsbD l = int c (x l) (y l)) ∧
      (T = .f32 → ∀ c, ∃ bits, WritesPredicate (.fcmp c p a b) s act p.toNat bits ∧
        ∀ l < 32, act.getLsbD l = true → bits.getLsbD l = float c l)) ∧
    (Owned s [a.toNat] → Clean s act [a.toNat] →
      ∀ c, ∃ bits, WritesPredicate (.icmpImm c p a i) s act p.toNat bits ∧
        ∀ l < 32, act.getLsbD l = true → bits.getLsbD l = int c (x l) (intOf R (wrapTo (tyWidth R) i.toInt)))

/-- PAND, POR, PXOR, PNOT, PMOV and PFIRST complete when their sources are not poisoned: the bits of the active lanes of
p[d] become those of the named combination (PFIRST: 1 in the lowest active lane whose bit of p[a] is set, 0 in the
others, all 0 where there is none); the other bits and everything else but the slot's place are unchanged; p0 reads
all-true and discards a write. VOTE writes whether some active bit is set (mode 0), whether every one is (mode 1, 1
with no active lane), or those bits (mode 2), with Z from the result and N, C, V cleared; a mode above 2 raises
FLT.OPND. (R33, R105, R107, R109) -/
def Obligations.PredicateInstructions : Prop :=
  ∀ (s : State) (act : Word) (d a b : BitVec 4), Lanes s act →
    let x := (s.g.getP a.toNat).val
    let y := (s.g.getP b.toNat).val
    (s.g.getP a.toNat).poison = false →
    ((s.g.getP b.toNat).poison = false →
      WritesPredicate (.pand d a b) s act d.toNat (x &&& y) ∧
      WritesPredicate (.por d a b) s act d.toNat (x ||| y) ∧
      WritesPredicate (.pxor d a b) s act d.toNat (x ^^^ y)) ∧
    WritesPredicate (.pnot d a) s act d.toNat (~~~x) ∧
    WritesPredicate (.pmov d a) s act d.toNat x ∧
    (∃ bits, WritesPredicate (.pfirst d a) s act d.toNat bits ∧
      (∀ l < 32, bits.getLsbD l = true ↔
        (act &&& x).getLsbD l = true ∧ ∀ k < l, (act &&& x).getLsbD k = false)) ∧
    (s.g.sect = none → s.g.getP 0 = { val := BitVec.allOnes 32 }) ∧
    ∀ e : BitVec 6,
      let z := act &&& x
      let one := fun (b : Bool) => if b then (1 : Dword) else 0
      WritesScalar (.vote e a 0) s e (one (z != 0)) { z := z == 0 } ∧
      WritesScalar (.vote e a 1) s e (one (z == act)) { z := z != act } ∧
      WritesScalar (.vote e a 2) s e (z.setWidth 64) { z := z == 0 } ∧
      ∀ i : BitVec 8, 2 < i.toNat → exec (.vote e a i) s = .next (s.raise { cls := 0x06 })

/-- FADD, FSUB, FMUL, FMA and FSCALE in f32, f16 and bf16 complete under the conditions on their operands: each element of
each active lane of v[d] is the exact sum, difference, product, product and sum, or x × 2^j, rounded once under gm.rnd
(4 as nearest-even) and fitted under sat and fout; FMIN, FMAX, FABS and FNEG give the chosen or changed value
unrounded, fitted likewise (that sat = 1 makes an infinity the largest finite value there too is the model's reading,
log entry 62). Nothing else changes but the slot's place. (R34, R37, R80, R92, R93, R94, R95) -/
def Obligations.FloatArithmetic : Prop :=
  ∀ (s : State) (act : Word) (T : Ty) (d a b : BitVec 8), Lanes s act → HasDtype s T →
    T = .f32 ∨ T = .f16 ∨ T = .bf16 →
    let m := s.sl.gm
    let rnd := if gmRnd m = 4 then 0 else gmRnd m
    let x := fun l e => decodeNum T (gmFin m) (elem (s.vw a l) T e)
    let y := fun l e => decodeNum T (gmFin m) (elem (s.vw b l) T e)
    let z := fun l e => decodeNum T (gmFin m) (elem (s.vw d l) T e)
    let j := fun l e => signedOf (tyWidth T) (elem (s.vw b l) T e)
    let fit := fun v => finish T (gmRnd m) (gmSat m) (gmFout m) v
    let keep := fun v => encodeNum T (gmSat m) (gmFout m) 0 v
    (Owned s [d.toNat, a.toNat, b.toNat] → Clean s act [a.toNat, b.toNat] →
      WritesVector (.fadd d a b) s act d.toNat (fun l => wordOf T fun e => fit (addNum rnd (x l e) (y l e))) ∧
      WritesVector (.fsub d a b) s act d.toNat (fun l => wordOf T fun e => fit (addNum rnd (x l e) (negNum (y l e)))) ∧
      WritesVector (.fmul d a b) s act d.toNat (fun l => wordOf T fun e => fit (mulNum (x l e) (y l e))) ∧
      WritesVector (.fscale d a b) s act d.toNat (fun l => wordOf T fun e => fit (scaleNum (j l e) (x l e))) ∧
      WritesVector (.fmin d a b) s act d.toNat (fun l => wordOf T fun e => keep (minNum (x l e) (y l e))) ∧
      WritesVector (.fmax d a b) s act d.toNat (fun l => wordOf T fun e => keep (maxNum (x l e) (y l e))) ∧
      (Clean s act [d.toNat] → WritesVector (.fma d a b) s act d.toNat
        (fun l => wordOf T fun e => fit (addNum rnd (mulNum (x l e) (y l e)) (z l e))))) ∧
    (Owned s [d.toNat, a.toNat] → Clean s act [a.toNat] →
      WritesVector (.fabs d a) s act d.toNat (fun l => wordOf T fun e => keep (absNum (x l e))) ∧
      WritesVector (.fneg d a) s act d.toNat (fun l => wordOf T fun e => keep (negNum (x l e))))

/-- FRCP, FRSQ, FSQRT, FEXP2, FLOG2, FSIN, FCOS and FTANH in f32, f16 and bf16: when the flag of the word is not full,
they complete under the conditions on their operands: an outstanding operation of the group with the flag that the
clause's header assigns holds, for each active lane in ascending order, the word of v[d] with the function's result of
every element of v[a]; the flag's count rises by one; no register changes until the operation completes. With no
active lane it is an empty operation. (R23, R25, R34, R80, R96) -/
def Obligations.ApproximatedFunctions : Prop :=
  ∀ (s : State) (act : Word) (T : Ty) (d a : BitVec 8), Lanes s act → HasDtype s T →
    T = .f32 ∨ T = .f16 ∨ T = .bf16 → Owned s [d.toNat, a.toNat] → Clean s act [a.toNat] → s.flagFull = false →
    let starts := fun (i : Instr) (fn : Fn) =>
      exec i s = .next (s.startLong (if act = 0 then .empty else .func)
        ((lanesOf act).map fun l => RegWrite.v d.toNat l
          { val := wordOf T fun e => approxElem fn T s.sl.gm (elem (s.vw a l) T e) })).advance
    starts (.frcp d a) .rcp ∧ starts (.frsq d a) .rsq ∧ starts (.fsqrt d a) .sqrt ∧ starts (.fexp2 d a) .exp2 ∧
    starts (.flog2 d a) .log2 ∧ starts (.fsin d a) .sin ∧ starts (.fcos d a) .cos ∧ starts (.ftanh d a) .tanh

/-- For f32, f16 and bf16, with no flushing and sat = 0: every approximated function of a NaN is the canonical NaN; at
plus and minus infinity and at plus and minus zero the result is the one that the table of the approximated functions
gives, FEXP2 and FCOS of zero being exactly 1; FSQRT, FRSQ and FLOG2 of a negative number are NaN; and FSQRT of any
other finite number is its square root rounded under gm.rnd. (R44, R96) -/
def Obligations.ApproximationSpecialValues : Prop :=
  ∀ (T : Ty) (gm : Word) (x : Nat), T = .f32 ∨ T = .f16 ∨ T = .bf16 →
    gm.getLsbD 12 = false → gm.getLsbD 13 = false → gm.getLsbD 14 = false →
    let inf := infBits T
    let sgn := 2 ^ (tyWidth T - 1)
    let one := bias T * 2 ^ mbits T
    let f := fun fn => approxElem fn T gm
    (decodeNum T false x = .nan → ∀ fn, f fn x = nanBits T) ∧
    (f .rcp 0 = inf ∧ f .rcp sgn = sgn + inf ∧ f .rcp inf = 0 ∧ f .rcp (sgn + inf) = sgn) ∧
    (f .rsq 0 = inf ∧ f .rsq sgn = sgn + inf ∧ f .rsq inf = 0 ∧ f .rsq (sgn + inf) = nanBits T) ∧
    (f .sqrt 0 = 0 ∧ f .sqrt sgn = sgn ∧ f .sqrt inf = inf ∧ f .sqrt (sgn + inf) = nanBits T) ∧
    (f .exp2 (sgn + inf) = 0 ∧ f .exp2 inf = inf ∧ f .exp2 0 = one ∧ f .exp2 sgn = one) ∧
    (f .log2 0 = sgn + inf ∧ f .log2 sgn = sgn + inf ∧ f .log2 inf = inf ∧ f .log2 (sgn + inf) = nanBits T) ∧
    (f .sin 0 = 0 ∧ f .sin sgn = sgn ∧ f .sin inf = nanBits T ∧ f .sin (sgn + inf) = nanBits T) ∧
    (f .cos inf = nanBits T ∧ f .cos (sgn + inf) = nanBits T ∧ f .cos 0 = one ∧ f .cos sgn = one) ∧
    (f .tanh 0 = 0 ∧ f .tanh sgn = sgn ∧ f .tanh inf = one ∧ f .tanh (sgn + inf) = sgn + one) ∧
    (∀ m e, decodeNum T false x = .fin true m e → m ≠ 0 →
      f .rsq x = nanBits T ∧ f .sqrt x = nanBits T ∧ f .log2 x = nanBits T) ∧
    (∀ m e, decodeNum T false x = .fin false m e → m ≠ 0 → f .sqrt x = finish T (gmRnd gm) false false (sqrtNum m e))

/-- CVT, PACK and UNPACK complete when both types have a place in a register word and the element positions exist: in each
active lane the elements are converted in ascending order from the source word, each draw advancing that lane's
generator; CVT and UNPACK fill a word of zeros, PACK keeps the other elements of v[d]; every other word of the vector
registers, every inactive lane's generator and everything else but the slot's place are unchanged. (R52, R79, R80,
R97, R98) -/
def Obligations.ConversionsOfElements : Prop :=
  ∀ (s : State) (act : Word) (S T : Ty) (d a i : BitVec 8), Lanes s act → HasDtype s T →
    tyOf (gmStype s.sl.gm) = some S ∧ ty64 S = false → Owned s [d.toNat, a.toNat] → Clean s act [a.toNat] →
    let converts := fun (w : Instr) (keep stoch : Bool) (ps : List (Nat × Nat)) =>
      ∃ v rng, exec w s = .next (s.setG { s.g with v := v, rng := rng }).advance ∧
        ∀ r l, l < 32 →
          let c := cvtElems S T s.sl.gm stoch (s.vw a l) ps (if keep then s.vw d l else 0) (s.g.rng.look l 0)
          v.look (r * 32 + l) {} = (if r = d.toNat ∧ act.getLsbD l = true then { val := c.1 } else s.g.getV r l) ∧
          rng.look l 0 = if act.getLsbD l = true then c.2 else s.g.rng.look l 0
    converts (.cvt d a) false true ((List.range (min (tyCount S) (tyCount T))).map fun e => (e, e)) ∧
    ((i.toNat + 1) * tyCount S ≤ tyCount T → (tyCount S < tyCount T → Clean s act [d.toNat]) →
      converts (.pack d a i) (tyCount S < tyCount T) true
        ((List.range (tyCount S)).map fun e => (e, i.toNat * tyCount S + e))) ∧
    ((i.toNat + 1) * tyCount T ≤ tyCount S →
      converts (.unpack d a i) false false ((List.range (tyCount T)).map fun e => (i.toNat * tyCount T + e, e)))

/-- SEL, SHFL of a register and of an immediate, BCAST and MBCNT complete under the conditions on their operands: each
active lane l of v[d] gets the word of v[a] or v[a + 1] that the predicate chooses, the word of v[a] of lane src(l) by
the shuffle's mode, that of lane j, or the number of set bits of the predicate below l, whatever the active mask; all
sources are read first, and nothing else changes but the slot's place. (R34, R80, R87, R107, R108, R109) -/
def Obligations.CrossLaneMoves : Prop :=
  ∀ (s : State) (act : Word) (d a b i : BitVec 8) (p : BitVec 4) (sh : ShflMode), Lanes s act →
    let q := (s.g.getP p.toNat).val
    let src := fun l c => match sh with
      | .idx => c
      | .xor => l ^^^ c
      | .up => if c ≤ l then l - c else l
      | .dn => if l + c ≤ 31 then l + c else l
    let moves := fun (w : Instr) (from_ : Nat → Nat) =>
      (∀ l < 32, act.getLsbD l = true → (s.g.getV a.toNat (from_ l)).poison = false) →
        WritesVector w s act d.toNat (fun l => s.vw a (from_ l))
    (a.toNat < 255 → Owned s [d.toNat, a.toNat, a.toNat + 1] → (act ≠ 0 → (s.g.getP p.toNat).poison = false) →
      (∀ l < 32, act.getLsbD l = true → (s.g.getV (if q.getLsbD l then a.toNat else a.toNat + 1) l).poison = false) →
      WritesVector (.sel d a p) s act d.toNat
        (fun l => if q.getLsbD l then s.vw a l else (s.g.getV (a.toNat + 1) l).val)) ∧
    (Owned s [d.toNat, a.toNat, b.toNat] → Clean s act [b.toNat] →
      moves (.shfl sh d a b) (fun l => src l ((s.vw b l).toNat % 32))) ∧
    (i.toNat < 32 → Owned s [d.toNat, a.toNat] →
      moves (.shflImm sh d a i) (fun l => src l i.toNat) ∧ moves (.bcast d a i) (fun _ => i.toNat)) ∧
    (Owned s [d.toNat] → (act &&& ~~~1 ≠ 0 → (s.g.getP p.toNat).poison = false) →
      WritesVector (.mbcnt d p) s act d.toNat
        (fun l => BitVec.ofNat 32 ((List.range l).filter (fun k => q.getLsbD k)).length))

/-- REDX and SCAN complete when no source word that an active lane's result depends on is poisoned. For an integer type
REDX writes to every active lane the exact sum, smallest or largest of the active lanes' elements, fitted once; SCAN
writes to each active lane that of the active lanes up to it (XADD: below it, 0 for the lowest). For f32, f16 and bf16
REDX combines by the fixed tree and SCAN from left to right, and the element written is fitted under sat and fout.
That a running prefix goes on unflushed under fout, that it starts from the lowest active lane's element and not from
+0, and that sat = 1 makes an infinite minimum or maximum the largest finite value are the model's choices (log entry
62). Nothing else changes but the slot's place. (R80, R81, R107, R110, R111) -/
def Obligations.ReductionsAndScans : Prop :=
  ∀ (s : State) (act : Word) (T : Ty) (d a : BitVec 8) (o : RedOp) (o' : ScanOp), Lanes s act → HasDtype s T →
    Owned s [d.toNat, a.toNat] → Clean s act [a.toNat] →
    let m := s.sl.gm
    let R := intTy T
    let float := T = .f32 ∨ T = .f16 ∨ T = .bf16
    let x := fun e l => intOf R (elem (s.vw a l) R e)
    let num := fun e l => decodeNum T (gmFin m) (elem (s.vw a l) T e)
    let pre := fun l => (lanesOf act).filter fun k => k < l || (k = l && o' != .xadd)
    (¬ float →
      WritesVector (.redx o d a) s act d.toNat (fun _ => wordOf R fun e =>
        match (lanesOf act).map (x e) with
        | [] => 0
        | y :: r => fitInt R (gmSat m) (r.foldl (combineInt o) y)) ∧
      WritesVector (.scan o' d a) s act d.toNat (fun l => wordOf R fun e =>
        match (pre l).map (x e) with
        | [] => 0
        | y :: r => fitInt R (gmSat m) (r.foldl (combineInt (scanOp o')) y))) ∧
    (float →
      WritesVector (.redx o d a) s act d.toNat (fun _ => wordOf T fun e =>
        encodeNum T (gmSat m) (gmFout m) 0 ((treeOf (combineNum o T m) ((List.range 32).map fun l =>
          if act.getLsbD l then some (num e l) else none)).getD (.fin false 0 0))) ∧
      WritesVector (.scan o' d a) s act d.toNat (fun l => wordOf T fun e =>
        match (pre l).map (num e) with
        | [] => 0
        | y :: r => encodeNum T (gmSat m) (gmFout m) 0 (r.foldl (combineNum (scanOp o') T m) y)))

/-- SADD, SSUB, SMUL, SCMP, SAND, SOR, SXOR, SMOV, SSHL, SSHR, SSAR and the immediate forms complete when the scalar-side
registers they read are in the allotment and not poisoned: the 64-bit result modulo 2^64, Z and N from it, C and V as
the table of the scalar forms gives them. SCMP writes no register. Every other register, the other slot's bits and
everything else but the slot's place are unchanged, whatever gm is. (R34, R99, R100, R101) -/
def Obligations.ScalarArithmetic : Prop :=
  ∀ (s : State) (d : BitVec 6) (a b : BitVec 7) (i : BitVec 16),
    let x := (s.side a).val
    let y := (s.side b).val
    let u := (s.side (d.setWidth 7)).val
    let j : Dword := BitVec.ofInt 64 i.toInt
    let cc := fun (r : Dword) (c v : Bool) => ({ z := r == 0, n := r.getLsbD 63, c := c, v := v } : Cond)
    let out := fun (z : Int) => decide (z < -2 ^ 63) || decide (2 ^ 63 ≤ z)
    let cmp := fun (x y : Dword) => cc (x - y) (decide (y.toNat ≤ x.toNat)) (out (x.toInt - y.toInt))
    let compares := fun (w : Instr) (c : Cond) => exec w s = .next (s.setSl { s.sl with cc := c }).advance
    (SideOk s a →
      WritesScalar (.smov d a) s d x (cc x false false) ∧
      compares (.scmpImm a i) (cmp x j) ∧
      (SideOk s b →
        WritesScalar (.sadd d a b) s d (x + y) (cc (x + y) (decide (2 ^ 64 ≤ x.toNat + y.toNat)) (out (x.toInt + y.toInt))) ∧
        WritesScalar (.ssub d a b) s d (x - y) (cmp x y) ∧
        compares (.scmp a b) (cmp x y) ∧
        WritesScalar (.smul d a b) s d (x * y)
          (cc (x * y) (decide (2 ^ 64 ≤ x.toNat * y.toNat)) (out (x.toInt * y.toInt))) ∧
        WritesScalar (.sand d a b) s d (x &&& y) (cc (x &&& y) false false) ∧
        WritesScalar (.sor d a b) s d (x ||| y) (cc (x ||| y) false false) ∧
        WritesScalar (.sxor d a b) s d (x ^^^ y) (cc (x ^^^ y) false false) ∧
        WritesScalar (.sshl d a b) s d (x <<< y.toNat)
          (cc (x <<< y.toNat) (decide (y.toNat ≠ 0) && x.toNat.testBit (64 - y.toNat) && decide (y.toNat ≤ 64)) false) ∧
        WritesScalar (.sshr d a b) s d (x >>> y.toNat)
          (cc (x >>> y.toNat) (decide (y.toNat ≠ 0) && x.toNat.testBit (y.toNat - 1)) false) ∧
        WritesScalar (.ssar d a b) s d (x.sshiftRight y.toNat)
          (cc (x.sshiftRight y.toNat) (decide (y.toNat ≠ 0) && (x.sshiftRight (y.toNat - 1)).getLsbD 0) false))) ∧
    WritesScalar (.smovImm d i) s d j (cc j false false) ∧
    ((s.g.getS d.toNat).poison = false →
      WritesScalar (.saddImm d i) s d (u + j) (cc (u + j) (decide (2 ^ 64 ≤ u.toNat + j.toNat)) (out (u.toInt + j.toInt))))

/-- With the clause-start map bit of the target set, BR and CALL go to the clause header's address plus 4 × the signed
offset, and so do BRC where the condition table holds of the slot's Z, N, C, V, and BRZ and BRNZ of a readable
predicate where no bit and where some bit of it is set in the slot's mask; BRC, BRZ and BRNZ go past their word where
they are not taken, whatever the map bit is, and leave a trace packet either way. CALL writes the address of the next
word to s62. RET goes to the address in its readable register, which is a multiple of 4 below 2^57, and leaves its
trace packet. A clear map bit of the target of a taken branch, of CALL or of RET raises FLT.CLAUSE with that target as
address; RET raises FLT.CLAUSE on an address that is no multiple of 4, and else FLT.PROT on one of 2^57 or more.
Nothing else changes. (R21, R31, R114, R115, R438) -/
def Obligations.BranchesAndCalls : Prop :=
  ∀ (s : State) (o : BitVec 20) (p : BitVec 4) (c : CC) (a : BitVec 7),
    let T : Addr := s.sl.header + BitVec.ofInt 57 (4 * o.toInt)
    let taken := s.setSl (s.sl.goto T)
    let traced := fun (n : Nat) => s.traceHere 3 n s.sl.pc.toNat
    let f := s.sl.cc
    let holds := match c with
      | .eq => f.z | .ne => !f.z | .lt => f.n != f.v | .ge => f.n == f.v | .ltu => !f.c | .geu => f.c
      | .gt => !f.z && f.n == f.v | .le => f.z || f.n != f.v | .gtu => f.c && !f.z | .leu => !f.c || f.z
      | .mi => f.n | .pl => !f.n | .vs => f.v | .vc => !f.v | .al => true
    let bits := (s.g.getP p.toNat).val &&& s.sl.mask
    let goes := fun (i : Instr) (b : Bool) => exec i s = .next (if b = true then (traced 1).setSl (s.sl.goto T)
      else (traced 0).setSl s.sl.past)
    let v := (s.side a).val
    (s.targetOk s.cur T = true →
      exec (.br o) s = .next taken ∧
      exec (.call o) s = .next (taken.setG (taken.g.setS 62 ((s.sl.pc + 4).setWidth 64)))) ∧
    ((holds = true → s.targetOk s.cur T = true) → goes (.brc c o) holds) ∧
    ((s.g.getP p.toNat).poison = false →
      ((bits = 0 → s.targetOk s.cur T = true) → goes (.brz p o) (bits == 0)) ∧
      ((bits ≠ 0 → s.targetOk s.cur T = true) → goes (.brnz p o) (bits != 0))) ∧
    (SideOk s a → v.toNat % 4 = 0 → v.toNat < 2 ^ 57 → s.targetOk s.cur (v.setWidth 57) = true →
      exec (.ret a) s = .next ((s.traceHere 4 0 v.toNat).setSl (s.sl.goto (v.setWidth 57)))) ∧
    (s.targetOk s.cur T = false →
      let bad := s.raise { cls := 0x04, addr := T.setWidth 64 }
      exec (.br o) s = .next bad ∧ exec (.call o) s = .next bad ∧
      (holds = true → exec (.brc c o) s = .next bad) ∧
      ((s.g.getP p.toNat).poison = false →
        (bits = 0 → exec (.brz p o) s = .next bad) ∧ (bits ≠ 0 → exec (.brnz p o) s = .next bad))) ∧
    (SideOk s a → v.toNat % 4 = 0 → v.toNat < 2 ^ 57 → s.targetOk s.cur (v.setWidth 57) = false →
      exec (.ret a) s = .next (s.raise { cls := 0x04, addr := v })) ∧
    (SideOk s a → v.toNat % 4 ≠ 0 → exec (.ret a) s = .next (s.raise { cls := 0x04, addr := v })) ∧
    (SideOk s a → v.toNat % 4 = 0 → 2 ^ 57 ≤ v.toNat → exec (.ret a) s = .next (s.raise { cls := 0x02, addr := v }))

/-- FORK with T the lanes of the slot's mask whose predicate bit is set and F the others: with T empty the slot goes past
its word; with F empty it goes to the target; else with the other slot FREE that slot starts at the target with T, the
same gm and condition bits and own 0, and the issuing slot goes on past its word with F; else a pending entry with F
is pushed at s63, which rises by 16, own rises by one, and the issuing slot goes to the target with T. Its trace
packet is written, and nothing else changes. (R21, R116, R117, R118) -/
def Obligations.ForkSplitsTheSlot : Prop :=
  ∀ (s : State) (p : BitVec 4) (o : BitVec 20), (s.g.getP p.toNat).poison = false → s.sl.gmPoison = false →
    let T := s.sl.mask &&& (s.g.getP p.toNat).val
    let F := s.sl.mask &&& ~~~(s.g.getP p.toNat).val
    let target : Addr := s.sl.header + BitVec.ofInt 57 (4 * o.toInt)
    let traced := fun (t : State) (n : Nat) => t.traceHere 5 n (T.toNat * 2 ^ 32 + F.toNat)
    (T = 0 → exec (.fork p o) s = .next (traced s 0).advance) ∧
    (T ≠ 0 → s.targetOk s.cur target = true →
      (F = 0 → exec (.fork p o) s = .next ((traced s 1).setSl ((traced s 1).sl.goto target))) ∧
      (F ≠ 0 → s.other.state = .free →
        exec (.fork p o) s = .next (((traced s 2).setOther
          { state := .live, pc := target, mask := T, gm := s.sl.gm, cc := s.sl.cc, own := 0 }).setSl
            { s.sl.past with mask := F })) ∧
      (F ≠ 0 → s.other.state ≠ .free → ∀ sp t, s.g.getS 63 = { val := sp } → sp.toNat % 16 = 0 →
        s.g.dsbase.toNat ≤ sp.toNat → sp.toNat + 16 ≤ s.g.dslim.toNat → sp.toNat - s.g.dsbase.toNat < 0x100000 →
        s.putEntry (.fork p o) sp.toNat ⟨false, s.curSlot, s.sl.cc, s.sl.pc + 4, s.sl.gm, F⟩ = .ok t →
        let t := (traced t 3).setStack (sp + 16)
        exec (.fork p o) s = .next (t.setSl { s.sl.goto target with mask := T, own := s.sl.own + 1 })))

/-- For a slot with own 0 in a group with s63 unpoisoned and equal to DSBASE: JOIN goes past its word when the other slot
is FREE; takes the other slot's lanes to its mask, frees that slot and goes past its word when it is parked at the
same word; raises FLT.CONV when the other slot is parked at another word or waits at a barrier; and parks at its word
otherwise, where one that is parked there already stays as it is. EXIT of a group frees the slot: the other slot, if
parked, goes on past its JOIN word with its own mask, if FREE the group ends, and else nothing more happens. With the
top entry read from memory: where the slot owns it, JOIN of a pending entry writes a waiting entry of the slot in its
place and starts the pending one's lanes at its address, of a waiting entry of this word takes its lanes, lowers own
by one (0 stays, log entry 56) and s63 by 16 and goes past the word, of another word raises FLT.CONV; EXIT starts its
lanes at its address, for a waiting entry at the word after it, and lowers own and s63; a target without its map bit
raises FLT.CLAUSE. Where the slot owns no top entry and own is above 0, JOIN parks (an empty stack: FLT.STACK) and
EXIT waits in EXITWAIT, and the other slot at a barrier makes it FLT.CONV. Each leaves its trace packet. A due
JOIN_REDECIDE of a parked slot and EXIT_REDECIDE of a slot in EXITWAIT make these decisions with these results, faults
too, EXIT's with no ended lanes in its packet, and note what they have met. In a section EXIT raises FLT.OPND. (R21,
R116, R117, R119, R120, R121, R122, R123, R129, R280) -/
def Obligations.JoinAndExitOfAnEmptyStack : Prop :=
  (∀ (s : State) (sp : Dword), s.g.getS 63 = { val := sp } → s.sl.own = 0 → s.g.dsbase = sp →
    let x := s.sl
    let y := s.other
    let due := s.g.due s.curSlot = true
    let again := fun (t : State) =>
      ({ t with cur := s.cur, curSlot := s.curSlot } : State).sawView s.cur s.curSlot (s.g.getS 63, y.state)
    let joined := fun (sub : Nat) (m : Word) => (s.traceHere 6 sub m.toNat).setSl { x.past with state := .live, mask := m }
    let parked := if x.state = .parked x.pc then s
      else (s.traceHere 6 1 x.mask.toNat).setSl { (s.traceHere 6 1 x.mask.toNat).sl with state := .parked x.pc }
    let freed := fun (l : Word) => (s.traceHere 7 0 (l.toNat * 2 ^ 32)).setSl {}
    let joins := fun (t : State) => exec .join s = .next t ∧
      ((∃ w, x.state = .parked w) → due → exec (.joinRedecide s.cur s.curSlot) s = .next (again t))
    let exits := fun (f : State → State) => (isMast s.cur = false → exec .exit s = .next (f (freed x.mask))) ∧
      (x.state = .exitwait → due → exec (.exitRedecide s.cur s.curSlot) s = .next (again (f (freed 0))))
    (y.state = .free → joins (joined 0 x.mask) ∧ exits (fun t => t.endGroup t.cur)) ∧
    (∀ w, y.state = .parked w →
      (w = x.pc → joins ((joined 2 (x.mask ||| y.mask)).setOther {})) ∧
      (w ≠ x.pc → joins (s.raise { cls := 0x05 })) ∧
      exits (fun t => t.setOther { t.other.past with state := .live })) ∧
    (y.state ≠ .free → (∀ w, y.state ≠ .parked w) → exits (fun t => t) ∧
      ((∀ b, y.state ≠ .waiting (.bar b) ∧ y.state ≠ .waiting (.cbar b)) → joins parked)) ∧
    (∀ b, y.state = .waiting (.bar b) ∨ y.state = .waiting (.cbar b) → joins (s.raise { cls := 0x05 })) ∧
    (isMast s.cur = true → exec .exit s = .next (s.raise { cls := 0x06 }))) ∧
  (∀ (s u : State) (sp : Dword) (o : Option Entry), s.g.getS 63 = { val := sp } →
    let x := s.sl
    let due := s.g.due s.curSlot = true
    let again := fun (t : State) =>
      ({ t with cur := s.cur, curSlot := s.curSlot } : State).sawView s.cur s.curSlot (s.g.getS 63, s.other.state)
    let joins := fun (t : State) => exec .join s = .next t ∧
      ((∃ w, x.state = .parked w) → due → exec (.joinRedecide s.cur s.curSlot) s = .next (again t))
    let exits := fun (f : Word → State) => (isMast s.cur = false → exec .exit s = .next (f x.mask)) ∧
      (x.state = .exitwait → due → exec (.exitRedecide s.cur s.curSlot) s = .next (again (f 0)))
    let atBar := ∃ b, u.other.state = .waiting (.bar b) ∨ u.other.state = .waiting (.cbar b)
    let tops := fun (i : Instr) =>
      (sp.toNat ≤ s.g.dsbase.toNat ∧ u = s ∧ o = none) ∨
      (sp.toNat % 16 = 0 ∧ s.g.dsbase.toNat + 16 ≤ sp.toNat ∧ sp.toNat ≤ s.g.dslim.toNat ∧ ∃ loc e,
        s.entryLoc i (sp.toNat - 16) .read = .ok loc ∧
        let r := (s.touchUnit s.cur s.sl.pc .g loc (sp.toNat - 16) 16 false).readLoc s.cur loc 16 .g
        r.2.any (·.2) = false ∧ Entry.ofBytes (r.2.map (·.1)) = some e ∧ u = r.1 ∧
        o = if e.owner = s.curSlot then some e else none)
    let start := fun (e : Entry) (pc : Addr) =>
      ({ x with state := .live, pc := pc, clause := none, left := none, mask := e.mask, gm := e.gm, gmPoison := false,
                cc := e.cc } : Slot)
    (∀ e, tops .join → o = some e →
      (e.waiting = false → u.targetOk s.cur e.addr = true → x.gmPoison = false → ∀ v,
        u.putEntry .join (sp.toNat - 16) ⟨true, s.curSlot, x.cc, x.pc, x.gm, x.mask⟩ = .ok v →
        joins ((v.traceHere 6 3 e.mask.toNat).setSl (start e e.addr))) ∧
      (e.waiting = false → u.targetOk s.cur e.addr = false → joins (s.raise { cls := 0x04, addr := e.addr.setWidth 64 })) ∧
      (e.waiting = true → e.addr = x.pc →
        let t := (u.traceHere 6 4 (x.mask ||| e.mask).toNat).setSl { x.past with state := .live, mask := x.mask ||| e.mask }
        joins ((t.setSl { t.sl with own := x.own - 1 }).setStack (sp - 16))) ∧
      (e.waiting = true → e.addr ≠ x.pc → joins (s.raise { cls := 0x05 }))) ∧
    (∀ e, tops .exit → o = some e →
      let pc := if e.waiting = true then e.addr + 4 else e.addr
      (u.targetOk s.cur pc = true → exits fun l =>
        ((u.traceHere 7 (if e.waiting = true then 3 else 2) (l.toNat * 2 ^ 32 + e.mask.toNat)).setSl
          { start e pc with own := x.own - 1 }).setStack (sp - 16)) ∧
      (u.targetOk s.cur pc = false → exits fun _ => s.raise { cls := 0x04, addr := pc.setWidth 64 })) ∧
    (o = none → 0 < x.own →
      (tops .join →
        (sp = s.g.dsbase → joins (s.raise { cls := 0x0F, addr := sp })) ∧
        (sp ≠ s.g.dsbase → atBar → joins (s.raise { cls := 0x05 })) ∧
        (sp ≠ s.g.dsbase → ¬ atBar → joins (if u.sl.state = .parked x.pc then u else
          (u.traceHere 6 1 x.mask.toNat).setSl { (u.traceHere 6 1 x.mask.toNat).sl with state := .parked x.pc }))) ∧
      (tops .exit →
        (atBar → exits fun _ => s.raise { cls := 0x05 }) ∧
        (¬ atBar → exits fun l => if u.sl.state = .exitwait then u else
          let t := u.traceHere 7 1 (l.toNat * 2 ^ 32 + x.mask.toNat)
          t.setSl { t.sl with state := .exitwait }))))

/-- SETMODE writes bits 31 to 0 of a readable scalar-side register to gm of the issuing slot, and MODEF one field of gm
with a value that fits it, when the new gm holds an assigned type code, a rounding mode of 0 to 4 and zero reserved
bits; otherwise both raise FLT.OPND with gm unchanged. NOP and YIELD move the slot to the next word. Nothing else
changes. (R35, R37, R124, R126, R132) -/
def Obligations.ModeAndNoEffect : Prop :=
  ∀ (s : State) (a : BitVec 7) (f : GmField) (i : BitVec 16),
    let valid := fun (m : Word) => m.toNat / 2 ^ 23 % 32 < 24 ∧ m.toNat / 2 ^ 18 % 32 < 24 ∧ m.toNat / 2 ^ 15 % 8 < 5 ∧
      m.toNat % 2 ^ 12 = 0
    let v : Word := BitVec.ofNat 32 (s.side a).val.toNat
    let at_ := fun (f : GmField) => match f with
      | .guard => (28, 4) | .dtype => (23, 5) | .stype => (18, 5) | .rnd => (15, 3)
      | .sat => (14, 1) | .fin => (13, 1) | .fout => (12, 1)
    let ones : Word := BitVec.ofNat 32 ((2 ^ (at_ f).2 - 1) * 2 ^ (at_ f).1)
    let m : Word := (s.sl.gm &&& ~~~ones) ||| BitVec.ofNat 32 (i.toNat * 2 ^ (at_ f).1)
    exec .nop s = .next s.advance ∧ exec .yield s = .next s.advance ∧
    (SideOk s a → valid v → exec (.setmode a) s = .next (s.setSl { s.sl with gm := v, gmPoison := false }).advance) ∧
    (SideOk s a → ¬ valid v → exec (.setmode a) s = .next (s.raise { cls := 0x06 })) ∧
    (s.sl.gmPoison = false → i.toNat < 2 ^ (at_ f).2 → valid m →
      exec (.modef f i) s = .next (s.setSl { s.sl with gm := m }).advance) ∧
    (s.sl.gmPoison = false → ¬ (i.toNat < 2 ^ (at_ f).2 ∧ valid m) → exec (.modef f i) s = .next (s.raise { cls := 0x06 }))

/-- BAR and CBAR of a barrier 0 to 3 by a group make the slot WAITING at the barrier unless the other slot is parked, in
EXITWAIT or at another barrier, which raises FLT.CONV. TEAM_BARRIER_COMPLETE and CLUSTER_BARRIER_COMPLETE, once every
live group of the team or the cluster has arrived, with no uniform write of its KLDs outstanding and no PUBLISH of it
open, make the arrivals' release and acquire, end the barrier interval of the teams and let the waiting slots go on.
YIELDC with the target's map bit set goes on at the target at once where the batch is not outstanding or has landed,
and else makes the slot WAITING. (R125, R127, R128, R129, R242, R257) -/
def Obligations.BarriersAndYieldC : Prop :=
  ∀ (s : State) (b : BitVec 8) (n : BitVec 2) (k : BitVec 4) (o : BitVec 20) (team c q : Nat),
    let blocked := fun (w : Wait) => (∃ v, s.other.state = .parked v) ∨ s.other.state = .exitwait ∨
      ∃ j, (s.other.state = .waiting (.bar j) ∧ Wait.bar j ≠ w) ∨ (s.other.state = .waiting (.cbar j) ∧ Wait.cbar j ≠ w)
    let waits := fun (w : Wait) => s.setSl { s.sl with state := .waiting w }
    let target : Addr := s.sl.header + BitVec.ofInt 57 (4 * o.toInt)
    let arrived := fun (w : Wait) (p : Nat) =>
      ((s.group p).slotA.state = .free ∨ (s.group p).slotA.state = .waiting w) ∧
      ((s.group p).slotB.state = .free ∨ (s.group p).slotB.state = .waiting w)
    let ps := s.liveGroups (s.team team)
    let size := if (s.ctx c).kernel.cw = 0 then 1 else (s.ctx c).kernel.cw * (s.ctx c).kernel.ch
    let ts := s.teams.filter (fun e => e.2.live && !e.2.ended && e.2.ctx = c && e.2.index / size = q)
    let cps := ts.flatMap (fun e => s.liveGroups e.2)
    (isMast s.cur = false → b.toNat < 4 →
      (¬ blocked (.bar b.toNat) → exec (.bar b) s = .next (waits (.bar b.toNat))) ∧
      (blocked (.bar b.toNat) → exec (.bar b) s = .next (s.raise { cls := 0x05 })) ∧
      (¬ blocked (.cbar b.toNat) → exec (.cbar b) s = .next (waits (.cbar b.toNat))) ∧
      (blocked (.cbar b.toNat) → exec (.cbar b) s = .next (s.raise { cls := 0x05 }))) ∧
    ((s.team team).live = true → (s.team team).ended = false → ps ≠ [] → (∀ p ∈ ps, arrived (.bar n.toNat) p ∧ s.barrierReady p = true) →
      exec (.teamBarrierComplete team n) s =
        .next ((s.finishBarrier ps (.bar n.toNat) .t true).endInterval team)) ∧
    (cps ≠ [] → (∀ p ∈ cps, arrived (.cbar n.toNat) p ∧ s.barrierReady p = true) →
      exec (.clusterBarrierComplete c q n) s =
        .next (ts.foldl (fun s e => s.endInterval e.1) (s.finishBarrier cps (.cbar n.toNat) .c false))) ∧
    (isMast s.cur = false → s.targetOk s.cur target = true →
      exec (.yieldc k o) s = .next (if s.g.yieldMet k.toNat then s.finishYield s.cur s.curSlot k.toNat target
        else waits (.yieldc k.toNat target)))

/-- TRAP with n ≥ 0x1000 raises FLT.TRAP with n, resuming at the next word; with n < 0x1000 and no active lane it only
moves on; else, where no word of v0 to v7 of an active lane is poisoned, it takes the next call number, makes the slot
WAITING, leaves the core (log entry 59) and sends the lanes' blocks to the host. BRK n takes FLT.BRK with n, resuming
at the next word. A slot that is about to issue a word of a set breakpoint that it has not passed takes FLT.BRK with
0x8000 plus the breakpoint's number. (R130, R131, R440, R441) -/
def Obligations.TrapsAndBreakpoints : Prop :=
  ∀ (s : State) (n : BitVec 16) (act : Word), n.toNat < 0x8000 →
    (0x1000 ≤ n.toNat → exec (.trap n) s = .next (s.raise { cls := 0x12, num := n, next := true })) ∧
    (n.toNat < 0x1000 → isMast s.cur = false → Lanes s act →
      (act = 0 → exec (.trap n) s = .next s.advance) ∧
      (act ≠ 0 → Clean s act (List.range 8) →
        exec (.trap n) s = .next (((({ s with hr := { s.hr with call := s.hr.call + 1 } } : State).setSl
          { s.sl with state := .waiting .trap }).leaveCore s.cur).sendService s.cur
            { slot := s.curSlot, n := n, seq := s.hr.call.toNat, lanes := act, state := .waitingRoom }))) ∧
    exec (.brk n) s = .next (if isMast s.cur = false ∧ s.dbgctl = true
      then s.haltAt s.cur s.curSlot { cls := 0x13, num := n, next := true } (s.sl.pc + 4)
      else s.raise { cls := 0x13, num := n, next := true }) ∧
    ∀ p sl k, s.breakDue p sl = some k →
      let t := s.setGroup p { s.group p with passBp := (sl, ((s.group p).slot sl).pc) :: (s.group p).passBp.filter fun e => e.1 != sl }
      exec (.breakpointMatch p sl) s = .next (t.breakAt p sl { cls := 0x13, num := BitVec.ofNat 16 (0x8000 + k) })

/-- REGGROW n with c + n ≤ 32 queues the slot at its core's pool and makes it WAITING; c + n > 32 raises FLT.OPND.
REGSHRINK n with c − n ≥ 1 and SPILL 0 leaves c − n granules and moves on; with SPILL set it first stores the returned
registers. A grant for the head request that the pool can fill gives its group n more granules whose registers read
zero, and with SPILL 0 its slot goes on; with SPILL set the slot, A or B, goes on once the registers are loaded from
there, with no PUBLISH of the group open. When every resident group waits in REGGROW and the head does not fit, the
largest request (among equals of the lowest slot) takes FLT.REGPOOL. (R133, R134, R135, R136, R212, R213, R242) -/
def Obligations.RegisterAllotment : Prop :=
  ∀ (s : State) (n : BitVec 8), 1 ≤ n.toNat → n.toNat ≤ 32 →
    let c := s.g.vgran
    let core := coreKey s.cur
    (isMast s.cur = false →
      (c + n.toNat ≤ 32 → exec (.reggrow n) s = .next ((s.setPool core (s.pool core ++ [(s.cur, s.curSlot)])).park
        (.reggrow n.toNat none))) ∧
      (32 < c + n.toNat → exec (.reggrow n) s = .next (s.raise { cls := 0x06 })) ∧
      (s.memReady = true →
        (c < n.toNat + 1 → exec (.regshrink n) s = .next (s.raise { cls := 0x06 })) ∧
        (n.toNat + 1 ≤ c → s.g.spill = 0 → exec (.regshrink n) s = .next (s.setG { s.g with vgran := c - n.toNat }).advance) ∧
        (n.toNat + 1 ≤ c → s.g.spill ≠ 0 → (spillUnits s (8 * n.toNat) .write).2 = none →
          spillHold s (.regshrink n) (spillUnits s (8 * n.toNat) .write).1 false = none →
          let t := s.storeSpill s.cur (8 * (c - n.toNat)) (8 * n.toNat)
          exec (.regshrink n) s = .next (t.setG { t.g with vgran := c - n.toNat }).advance))) ∧
    (∀ core p sl rest, s.pool core = (p, sl) :: rest → ((s.group p).slot sl).state = .waiting (.reggrow n.toNat none) →
      n.toNat ≤ s.freeGranules core → (s.group p).vgran + n.toNat ≤ 32 →
      ∃ t, exec (.reggrowGrant core) s = .next t ∧ t.pool core = rest ∧ (t.group p).vgran = (s.group p).vgran + n.toNat ∧
        (∀ r l, l < 32 → (t.group p).getV r l =
          if 8 * (s.group p).vgran ≤ r ∧ r < 8 * ((s.group p).vgran + n.toNat) then {} else (s.group p).getV r l) ∧
        ((s.group p).spill = 0 → ((t.group p).slot sl).state = .live) ∧
        (∀ q, q ≠ p → t.group q = s.group q) ∧ ∀ a, memRead t.mem a = memRead s.mem a) ∧
    (∀ p sl g0, (s.group p).live = true → (s.group p).hold = none → s.openPub p = false →
      ((s.group p).slot sl).state = .waiting (.reggrow n.toNat (some g0)) →
      (sl = .B → ∀ m g, (s.group p).slotA.state ≠ .waiting (.reggrow m (some g))) →
      let u := s.focus p sl
      let us := spillUnits u (8 * n.toNat) .read
      spillHold u (.reggrow n) us.1 true = none → us.2 = none →
      exec (.reggrowSpillLoadComplete p) s = .next { (u.loadSpill g0 us.1).resumeSlot p sl with
        cur := s.cur, curSlot := s.curSlot }) ∧
    (∀ core p sl head rest,
      let ask := fun (e : Nat × SlotId) => match ((s.group e.1).slot e.2).state with
        | .waiting (.reggrow k _) => k
        | _ => 0
      s.pool core = head :: rest → s.freeGranules core < ask head →
      (∀ e ∈ s.coreGroups core, e.2.growing = true ∧ grantOf e.2.slotA = none ∧ grantOf e.2.slotB = none) →
      (p, sl) ∈ head :: rest → (∀ e ∈ head :: rest, ask e ≤ ask (p, sl)) →
      (∀ e ∈ head :: rest, ask e = ask (p, sl) → p < e.1 ∨ e = (p, sl)) → p < 2 ^ 18 →
      ∃ t : State, exec (.regpoolRefusal core) s = .next (t.raiseAt p sl { cls := 0x10, addr := BitVec.ofNat 64 (ask (p, sl)) }) ∧
        t.pool core = (head :: rest).filter (fun e => e != (p, sl)) ∧ ((t.group p).slot sl).state = .live ∧
        ∀ q, q ≠ p → t.group q = s.group q)

/-- LD of every size and scope, LDN and LDP complete at their issue when their flag is not full, their registers are in
order, every unit translates, the access goes through and its last checks (R146 conditions 7 to 10) find nothing:
after those checks their units, at the addresses of the translation register and the lane offsets, are read in order,
and an outstanding load with the word's flag holds the register words: from v[d] on, bytes and halves widened as
gm.dtype says. A unit of a local or host place gives the bytes that a read at the scope returns at its translated
address, each word poisoned as one of its bytes is. LDP's operation also holds zeros for the lanes with an absent page
and its residency bits. With no active lane the operation is an empty one. That the units are read whole and in order
in the step of issue, and the words held from then on, is the model's choice (log entries 13 and 15). (R23, R25, R30,
R145, R146, R148, R152, R154) -/
def Obligations.LoadsReadTheirUnits : Prop :=
  ∀ (s : State) (sc : Scope) (z : Size) (n : BitVec 3) (p : LdpPred) (d : BitVec 8) (x : BitVec 3) (o : MOff) (act : Word),
    s.flagFull = false →
    let signed := ((tyOf (gmDtype s.sl.gm)).map tyS).getD false
    let one := mkUnits s x (lanesOf act) 1 (sizeBytes z) (memOff s.g o (sizeBytes z)) .read
    let span := mkUnits s x (lanesOf act) (n.toNat + 1) 4 (memOff s.g o (4 * (n.toNat + 1))) .read
    let here := notAbsent one
    let num := match p with
      | .p1 => 1 | .p2 => 2 | .p3 => 3 | .p4 => 4 | .p5 => 5 | .p6 => 6 | .p7 => 7
    let kind : PendKind := if act = 0 then .empty else .load
    let reads := fun (t : State) (sc : Scope) (signed : Bool) (h : Hold) => t.loadUnits s.cur s.sl.pc sc signed d.toNat h.units
    (s.g.spanOk d.toNat (sizeRegs z) = true → Accessible s x act (offReg o) one →
      let h := s.access (.ld sc z d x o) act one false noData noCompare
      Goes s h → (s.open_.lastChecks h).2 = none →
      let r := reads (s.open_.lastChecks h).1 sc signed h
      exec (.ld sc z d x o) s = .next (r.1.startLong kind r.2).advance) ∧
    (s.g.spanOk d.toNat (n.toNat + 1) = true → operandBitsOk (.ldn sc n d x o) = true → Accessible s x act (offReg o) span →
      let h := s.access (.ldn sc n d x o) act span false (fun l j => regBytes s.g (d.toNat + j) 1 l) noCompare
      Goes s h → (s.open_.spanChecks false h).2 = none →
      let r := reads (s.open_.spanChecks false h).1 sc false h
      exec (.ldn sc n d x o) s = .next (r.1.startLong kind r.2).advance) ∧
    (s.g.spanOk d.toNat (sizeRegs z) = true → Accessible s x act (offReg o) here →
      let h := s.access (.ldp p z d x o) act here false noData noCompare
      Goes s h → (s.open_.lastChecks h).2 = none →
      let r := reads (s.open_.lastChecks h).1 .g signed h
      let present := maskOf (h.units.map (·.lane))
      exec (.ldp p z d x o) s = .next (r.1.startLong kind (r.2 ++
        (lanesOf (act &&& ~~~present)).flatMap (fun l => (List.range (sizeRegs z)).map fun j => RegWrite.v (d.toNat + j) l {}) ++
        [RegWrite.p num act present])).advance) ∧
    (s.memReady = true → Lanes s 0 → Owned s (offReg o) →
      (s.g.spanOk d.toNat (sizeRegs z) = true → exec (.ld sc z d x o) s = .next (s.open_.startLong .empty []).advance) ∧
      (s.g.spanOk d.toNat (n.toNat + 1) = true → exec (.ldn sc n d x o) s = .next (s.open_.startLong .empty []).advance)) ∧
    ∀ (t : State) (us : List HoldUnit) (u : HoldUnit) (a : Nat), u.loc = .phys a → u.bytes ∈ [1, 2, 4, 8, 16] →
      let all := fun (us : List HoldUnit) => t.loadUnits s.cur s.sl.pc sc signed d.toNat us
      let v := (all us).1.touchUnit s.cur s.sl.pc sc (.phys a) u.va u.bytes false
      let r := v.memReadAt (coreKey s.cur) (v.anchorOf s.cur) (.phys a) u.bytes sc
      let k := ofBytes (r.2.map (·.1))
      all (us ++ [u]) = (r.1, (all us).2 ++
        if u.bytes < 4 then
          let wide := if signed = true ∧ 2 ^ (8 * u.bytes - 1) ≤ k then k + (2 ^ 32 - 2 ^ (8 * u.bytes)) else k
          [RegWrite.v (d.toNat + u.reg) u.lane { val := BitVec.ofNat 32 wide, poison := r.2.any (·.2) }]
        else (List.range (u.bytes / 4)).map fun j =>
          let c := (r.2.drop (4 * j)).take 4
          RegWrite.v (d.toNat + u.reg + j) u.lane { val := BitVec.ofNat 32 (ofBytes (c.map (·.1))), poison := c.any (·.2) })

/-- ST of every size and scope, STN, ATOM and ATOMR complete when their registers are in order, every unit translates, the
access goes through (an atomic at .s on host memory apart, which is performed lane by lane as its port answers) and
its last checks (R146 conditions 7 to 10) find nothing: stores write the lane's bytes of the registers from v[d] on;
atomics replace each unit's value by the operation's in ascending lane order; ATOMR becomes an outstanding operation
that holds the old values. The addresses are those of the translation register and the lane offsets. A unit of a local
or host place is written at its translated address by a write at the scope, lane after lane, the last one last; an
atomic reads its unit there and, where no word of it is poisoned, writes the new value there. That all lanes are
performed in the step of issue is the model's choice (log entries 13 and 15). (R30, R64, R145, R146, R148, R149, R152,
R158, R161) -/
def Obligations.StoresAndAtomicsPerformTheirUnits : Prop :=
  ∀ (s : State) (sc : Scope) (z : Size) (n : BitVec 3) (op : AtomOp) (T : Ty) (d : BitVec 8) (x : BitVec 3) (o : MOff)
    (b : BitVec 8) (act : Word),
    let one := mkUnits s x (lanesOf act) 1 (sizeBytes z) (memOff s.g o (sizeBytes z)) .write
    let span := mkUnits s x (lanesOf act) (n.toNat + 1) 4 (memOff s.g o (4 * (n.toNat + 1))) .write
    let regs := fun (k : Nat) => (List.range k).map (d.toNat + ·)
    let w := atomWidth T
    let k := if op = .cas then 2 * (w / 4) else w / 4
    let both := mkUnits s x (lanesOf act) 1 w (fun l => (s.vw b l).toNat) .both
    let atom := fun (i : Instr) => s.access i act both false
      (fun l _ => if op = .cas then regBytes s.g (d.toNat + w / 4) (w / 4) l else regBytes s.g d.toNat (w / 4) l)
      (fun l => if op = .cas then regBytes s.g d.toNat (w / 4) l else [])
    (s.g.spanOk d.toNat (sizeRegs z) = true → Accessible s x act (regs (sizeRegs z) ++ offReg o) one →
      let h := s.access (.st sc z d x o) act one true (fun l _ => (regBytes s.g d.toNat (sizeRegs z) l).take (sizeBytes z)) noCompare
      Goes s h → (s.open_.lastChecks h).2 = none →
      exec (.st sc z d x o) s = .next ((s.open_.lastChecks h).1.storeUnits s.cur s.sl.pc sc h.units).advance) ∧
    (s.g.spanOk d.toNat (n.toNat + 1) = true → operandBitsOk (.stn sc n d x o) = true →
      Accessible s x act (regs (n.toNat + 1) ++ offReg o) span →
      let h := s.access (.stn sc n d x o) act span true (fun l j => regBytes s.g (d.toNat + j) 1 l) noCompare
      Goes s h → (s.open_.spanChecks true h).2 = none →
      exec (.stn sc n d x o) s = .next ((s.open_.spanChecks true h).1.storeUnits s.cur s.sl.pc sc h.units).advance) ∧
    (atomTy s.sl.gm op = some T → s.g.spanOk d.toNat k = true → Accessible s x act (regs k ++ [b.toNat]) both →
      (Goes s (atom (.atom sc op x d b)) → (s.open_.lastChecks (atom (.atom sc op x d b))).2 = none →
        let t := (s.open_.lastChecks (atom (.atom sc op x d b))).1
        exec (.atom sc op x d b) s =
          .next (t.atomUnits s.cur s.sl.pc sc op T 0 (atom (.atom sc op x d b)).units).1.advance) ∧
      (s.flagFull = false → Goes s (atom (.atomr sc op x d b)) → (s.open_.lastChecks (atom (.atomr sc op x d b))).2 = none →
        let t := (s.open_.lastChecks (atom (.atomr sc op x d b))).1
        let r := t.atomUnits s.cur s.sl.pc sc op T d.toNat (atom (.atomr sc op x d b)).units
        exec (.atomr sc op x d b) s = .next (r.1.startLong (if act = 0 then .empty else .atomr) r.2).advance)) ∧
    ∀ (t : State) (us : List HoldUnit) (u : HoldUnit) (a : Nat), u.loc = .phys a →
      let writes := fun (t : State) (bs : List Byte) =>
        let v := t.touchUnit s.cur s.sl.pc sc (.phys a) u.va bs.length true
        v.memWriteAt (coreKey s.cur) (v.anchorOf s.cur) (.phys a) bs sc
      (u.lane < 32 → (∀ v ∈ us, v.lane ≤ u.lane) →
        t.storeUnits s.cur s.sl.pc sc (us ++ [u]) = writes (t.storeUnits s.cur s.sl.pc sc us) u.data) ∧
      (u.bytes = 4 ∨ u.bytes = 8 →
        let all := fun (us : List HoldUnit) => t.atomUnits s.cur s.sl.pc sc op T d.toNat us
        let v := (all us).1.touchUnit s.cur s.sl.pc sc (.phys a) u.va u.bytes false
        let r := v.memReadAt (coreKey s.cur) (v.anchorOf s.cur) (.phys a) u.bytes sc
        let new := atomNew op T (ofBytes (r.2.map (·.1))) (ofBytes u.data) (ofBytes u.compare)
        all (us ++ [u]) = (if r.2.any (·.2) then r.1 else writes r.1 (bytesOf u.bytes new),
          (all us).2 ++ (List.range (u.bytes / 4)).map fun j =>
            let c := (r.2.drop (4 * j)).take 4
            RegWrite.v (d.toNat + j) u.lane { val := BitVec.ofNat 32 (ofBytes (c.map (·.1))), poison := c.any (·.2) }))

/-- For s32, n32, s64 and n64 of width w and operands below 2^w: ADD gives the sum modulo 2^w, AND, OR and XOR the bitwise
results, MIN and MAX the operand that denotes the smaller or larger integer, SWAP the operand, and CAS the new value
when the old one equals the compare value and else the old one. For f32, ADD gives the sum rounded to nearest-even,
MIN and MAX the numbers that FMIN and FMAX give, SWAP and CAS the bit patterns as for integers, and the logic
operations are refused; every other dtype is refused. (R64, R158) -/
def Obligations.AtomicOperations : Prop :=
  ∀ (T : Ty) (old y c : Nat), T = .s32 ∨ T = .n32 ∨ T = .s64 ∨ T = .n64 →
    let w := tyWidth T
    old < 2 ^ w → y < 2 ^ w →
    w = 8 * atomWidth T ∧
    atomNew .add T old y c = (old + y) % 2 ^ w ∧ atomNew .and T old y c = old &&& y ∧
    atomNew .or T old y c = old ||| y ∧ atomNew .xor T old y c = old ^^^ y ∧ atomNew .swap T old y c = y ∧
    intOf T (atomNew .min T old y c) = min (intOf T old) (intOf T y) ∧
    intOf T (atomNew .max T old y c) = max (intOf T old) (intOf T y) ∧
    atomNew .cas T old y c = (if old = c then y else old) ∧
    (∀ (m : Word) (op : AtomOp), tyOf (gmDtype m) = some T → atomTy m op = some T) ∧
    atomNew .add .f32 old y c = finish .f32 0 false false (addNum 0 (decodeNum .f32 false old) (decodeNum .f32 false y)) ∧
    atomNew .min .f32 old y c = encodeNum .f32 false false 0 (minNum (decodeNum .f32 false old) (decodeNum .f32 false y)) ∧
    atomNew .max .f32 old y c = encodeNum .f32 false false 0 (maxNum (decodeNum .f32 false old) (decodeNum .f32 false y)) ∧
    atomNew .swap .f32 old y c = y ∧ atomNew .cas .f32 old y c = (if old = c then y else old) ∧
    ∀ (m : Word) (U : Ty), tyOf (gmDtype m) = some U →
      (U = .f32 → atomTy m .and = none ∧ atomTy m .or = none ∧ atomTy m .xor = none ∧
        ∀ op, op ≠ .and → op ≠ .or → op ≠ .xor → atomTy m op = some .f32) ∧
      (U ≠ .f32 → U ≠ .s32 → U ≠ .n32 → U ≠ .s64 → U ≠ .n64 → ∀ op, atomTy m op = none)

/-- For a core, its cluster's anchor core and a scope, and a place of local or host memory outside the format aperture, in
a state whose memory is in canonical form: after a write of whole aligned words, a read of the same bytes at the same
scope returns them unpoisoned; and after a write of any bytes of local memory, a read at the same scope of every other
byte of local memory returns what it returned before. (R232, R425) -/
def Obligations.ReadsAfterWritesOfMemory : Prop :=
  ∀ (s : State) (core anchor a : Nat) (bs : List Byte) (sc : Scope),
    s.Inv → (∀ i < bs.length, isAperture (a + i) = false) → (a + bs.length ≤ 2 ^ 52) →
    let t := s.memWriteAt core anchor (.phys a) bs sc
    (a % 4 = 0 → bs.length % 4 = 0 →
      (t.memReadAt core anchor (.phys a) bs.length sc).2 = bs.map (fun b => (b, false))) ∧
    ∀ b, b < 2 ^ 51 → a < 2 ^ 51 → a + bs.length ≤ 2 ^ 51 → isAperture b = false → (b < a ∨ a + bs.length ≤ b) →
      ((t.memReadAt core anchor (.phys b) 1 sc).2.map (·.1)) = ((s.memReadAt core anchor (.phys b) 1 sc).2.map (·.1))

/-- Reading the units of a load changes no group, team, context, queue, zone or exception register; it only fills and
pushes cached words and counts. Writing the units of a store changes of the groups nothing but the list of peer nodes
that the next release marks, and leaves the same registers alone. Neither moves a slot. (R25, R148, R149) -/
def Obligations.AccessesLeaveOtherRegisters : Prop :=
  ∀ (s : State) (p : Nat) (pc : Addr) (sc : Scope) (signed : Bool) (d : Nat) (us : List HoldUnit),
    let t := (s.loadUnits p pc sc signed d us).1
    let u := s.storeUnits p pc sc us
    (t.groups = s.groups ∧ t.teams = s.teams ∧ t.ctxs = s.ctxs ∧ t.zones = s.zones ∧ t.queues = s.queues ∧
      t.hoists = s.hoists ∧ t.clock = s.clock ∧ t.cur = s.cur ∧ t.curSlot = s.curSlot ∧ t.holds = s.holds ∧ t.err = s.err) ∧
    (u.teams = s.teams ∧ u.ctxs = s.ctxs ∧ u.zones = s.zones ∧ u.queues = s.queues ∧ u.hoists = s.hoists ∧ u.clock = s.clock ∧
      u.cur = s.cur ∧ u.curSlot = s.curSlot ∧ u.holds = s.holds ∧ u.err = s.err) ∧
    ∀ q, { u.group q with relNodes := (s.group q).relNodes } = s.group q

/-- With gm and the guard predicate readable: PREQ asks for the 64 KiB page of each lane whose read is of an absent page,
in lane order, and once a page: a page already asked for adds nothing, another one stands last in the list, and a
message with its address goes to F2. PREF fetches the local lines of the lanes whose reads translate; both log the
invalid page-table entries that they meet, leave out lanes with a poisoned offset, and move on, and they raise
FLT.OPND with the active lanes when an offset register lies outside the allotment or, with a lane active, the
unpoisoned translation register is invalid. The grain of a request and PREF of local lines only are log entry 47.
RCMARK, when every unit of its lanes translates for a write, the access goes through and no target refuses it, takes
what peers have answered and clears the race metadata of the units on race-checked pages, unchecked, and moves on.
(R155, R156, R165, R382) -/
def Obligations.ProbesAndMarks : Prop :=
  ∀ (s : State) (x : BitVec 3) (o : MOff) (act : Word), Lanes s act →
    let us := probeUnits s x o act .read
    let page := fun (u : MUnit) => BitVec.ofNat 57 (u.va / 65536 * 65536)
    let ws := mkUnits s x (lanesOf act) 1 1 (memOff s.g o 1) .write
    let logged := s.logEntries s.cur (entriesMet (badUnits us))
    let readable := (s.g.getX x.toNat).poison = true ∨ (s.g.getX x.toNat).valid = true
    let absent := us.filter fun u => match u.tr with
      | .error f => f.cls == 0x01
      | .ok _ => false
    (Owned s (offReg o) ∧ (act = 0 ∨ readable) →
      (∃ t, exec (.preq x o) s = .next t.advance ∧ t = absent.foldl (fun t u => t.askPage u.va) logged ∧
        t.resReqs = (absent.map page).foldl (fun l a => if l.contains a then l else l ++ [a]) s.resReqs ∧
        (∀ a, a ∈ t.resReqs ↔ a ∈ s.resReqs ∨ ∃ u ∈ absent, a = page u) ∧ (s.resReqs.Nodup → t.resReqs.Nodup) ∧
        t.groups = logged.groups ∧ ∀ a, memRead t.mem a = memRead logged.mem a) ∧
      exec (.pref x o) s = .next ((goodUnits us).foldl (fun t u => t.prefetch t.cur t.sl.pc u.1.va u.2.loc) logged).advance) ∧
    (∀ (t : State) (u : MUnit), (page u ∈ t.resReqs → t.askPage u.va = t) ∧
      (page u ∉ t.resReqs → t.askPage u.va = ({ t with resReqs := t.resReqs ++ [page u] } : State).post .residency 2
        (coreSource t.cur) ((placeKey t.cur t.g).setWidth 32) ((page u).setWidth 64))) ∧
    (¬ (Owned s (offReg o) ∧ (act = 0 ∨ readable)) →
      exec (.preq x o) s = .next (s.raise { cls := 0x06, lanes := act }) ∧
      exec (.pref x o) s = .next (s.raise { cls := 0x06, lanes := act })) ∧
    (Accessible s x act (offReg o) ws →
      let h := s.access (.rcmark x o) act ws true noData noCompare
      Goes s h → s.open_.refusals .g false h.units = [] →
      exec (.rcmark x o) s = .next
        ((raceList h.units).foldl (fun s u => s.clearMeta u.2.1) (s.open_.takeAnswers (h.units.filter fun u => isFar u.loc.key))).advance)

/-- With no earlier PUBLISH open, no REGGROW of the group with loads still to make (else they wait, log entry 67) and the
transaction table not full, or without operations of the group, FENCE.acq, FENCE.rel and FENCE.ar complete: an acquire
at .c, .d or .s leaves no clean word in the core's L1; a release at .d or .s leaves no dirty word there, and where the
core is its own anchor, and memory is in canonical form, each such word stands at its home. PUBLISH of a writable
twinned page below the descriptor window releases at .d and queues the swap. In a section PUBLISH raises FLT.PROT.
(R162, R163, R232, R242, R247) -/
def Obligations.FencesAndPublish : Prop :=
  ∀ (s : State) (sc : Scope) (a : BitVec 7),
    (s.memReady = false ∨ s.growLoads s.cur = true → ∀ i ∈ [Instr.fenceAcq sc, .fenceRel sc, .fenceAr sc, .publish a],
      exec i s = .next s) ∧
    (s.memReady = true → s.growLoads s.cur = false →
    let core := coreKey s.cur
    let room := isMast s.cur = true ∨ s.txReserved s.cur < 4 ∨ s.txShared core < 512 ∨ ∀ y ∈ s.xfers, ¬ (y.place = s.cur ∧ y.tag = s.g.tag)
    (room →
      (∃ t, exec (.fenceAcq sc) s = .next t ∧ t = (s.acquire s.cur sc).advance ∧
        (sc = .c ∨ sc = .d ∨ sc = .s → ∀ w, (t.l1Word core w).valid = true → (t.l1Word core w).dirty = true)) ∧
      (∃ t, exec (.fenceRel sc) s = .next t ∧ t = (s.fenceRelease s.cur sc).advance ∧
        (sc = .d ∨ sc = .s → (∀ w, (t.l1Word core w).dirty = false) ∧
          (s.Inv → s.anchorOf s.cur = core → ∀ w, (s.l1Word core w).dirty = true → isHostPa (4 * w) = false →
            t.memWord w = { val := (s.l1Word core w).val, poison := (s.l1Word core w).poison }))) ∧
      exec (.fenceAr sc) s = .next
        (((if isMast s.cur then s else s.noteAcquire s.cur).fenceRelease s.cur sc).scopeInval core sc).advance) ∧
    (isMast s.cur = true → exec (.publish a) s = .next (s.raise { cls := 0x02 })) ∧
    (isMast s.cur = false → SideOk s a → ∀ e, walk s (s.side a).val.toNat = .present e → e.tw = true → e.wr = true →
      0x10000 ≤ (s.side a).val.toNat → (s.side a).val.toNat < 0x1FE000000000000 →
      let r := s.release s.cur .d
      exec (.publish a) s = .next ({ r with
        nextId := r.nextId + 1,
        pubs := r.pubs ++ [{ id := s.nextId, place := s.cur, occ := s.g.tag, slot := s.curSlot, saved := s.sl,
                             va := (s.side a).val.setWidth 57 }] } : State).advance))

/-- KMOV copies a readable scalar-side register to a uniform register of the allotment when the single-writer check finds
no race; KLD of a readable dword whose access goes through becomes its register's writer at its issue where no race
keeps it from it, and, where its last checks find nothing, an outstanding load that holds the dword; SREAD and, with
no PUBLISH of the group open, XLAT become outstanding operations too, SREAD holding the register's value at issue (in
a section, as log entry 5 gives it), XLAT releasing the old view; SWRITE sets DSBASE, DSLIM or SPILL to an aligned
57-bit value or seeds the generators; XREL releases a valid view and clears its register. A released view's frame is
held no more at once, or once the accesses that use it are done. Nothing else changes but the slot's place. That KLD
and SREAD hold the value read at issue is the model's choice (log entries 13 and 15), as is that others see KMOV's
value at once (entry 14). (R25, R34, R102, R103, R104, R137, R138, R142, R143) -/
def Obligations.UniformSystemAndTranslationRegisters : Prop :=
  ∀ (s : State) (d : BitVec 6) (a b : BitVec 7) (n : BitVec 16) (i : BitVec 8) (x : BitVec 3),
    let v := (s.side a).val
    (isMast s.cur = false → d.toNat < 8 * s.tm.kgran → SideOk s a →
      let m := s.uniformWrite d.toNat (Config.freeWord s.draws)
      (m.2 = none → exec (.kmov d a) s = .next (m.1.setTm { m.1.tm with k := m.1.tm.k.put d.toNat { val := v } }).advance) ∧
      (s.flagFull = false → ∀ t, tlbUnit s (v + BitVec.ofInt 64 (8 * i.toInt)).toNat 8 .read = .ok t →
        let unit := tlbHold s 0 (v + BitVec.ofInt 64 (8 * i.toInt)).toNat 8 t.loc true t.rc
        let claim := s.txDone.claimUniform d.toNat (v + BitVec.ofInt 64 (8 * i.toInt))
        let h : Hold := { slot := s.curSlot, instr := .kld d a i, lanes := 1, units := [unit], uni := some claim.2 }
        s.uniformStops (s.uniformRace d.toNat (v + BitVec.ofInt 64 (8 * i.toInt))) = false →
        claim.1 = s.txDone.markUniform d.toNat ∧ claim.2.seq = some s.nextId ∧
        (Goes s h → (claim.1.endHold.lastChecks h).2 = none →
        let u := (claim.1.endHold.lastChecks h).1
        let r := u.readUnit s.cur s.sl.pc .g unit
        let lo := (wordsOf r.2).getD 0 {}
        let hi := (wordsOf r.2).getD 1 {}
        exec (.kld d a i) s = .next (r.1.startLong .load
          [RegWrite.k d.toNat s.nextId { val := hi.val ++ lo.val, poison := lo.poison || hi.poison }]).advance))) ∧
    (n.toNat < 0x0E → s.flagFull = false →
      let r := s.readSys n.toNat
      exec (.sread d n) s = .next (r.1.startLong .sread [RegWrite.s d.toNat { val := r.2 }]).advance ∧
      (s.g.sect = none → r = (s, s.sysReg n.toNat))) ∧
    (SideOk s a →
      (isMast s.cur = false → v.toNat < 2 ^ 57 → v.toNat % 16 = 0 →
        exec (.swrite a 0x0A) s = .next (s.setG { s.g with dsbase := v }).advance ∧
        exec (.swrite a 0x0B) s = .next (s.setG { s.g with dslim := v }).advance ∧
        (v.toNat % 128 = 0 → exec (.swrite a 0x0C) s = .next (s.setG { s.g with spill := v }).advance)) ∧
      exec (.swrite a 0x0D) s = .next (s.setG { s.g with
        rng := (List.range 32).map fun l => (l, seedRand (BitVec.ofNat 32 v.toNat) l) }).advance) ∧
    (s.flagFull = false → s.memReady = true → SideOk s a → SideOk s b → v.toNat < 2 ^ 57 →
      exec (.xlat x a b) s = .next ((s.releaseView s.cur x.toNat).startLong
        (.xlat x.toNat v.toNat (s.side b).val.toNat) []).advance) ∧
    ((s.g.getX x.toNat).valid = false → exec (.xrel x) s = .next s.advance) ∧
    ((s.g.getX x.toNat).valid = true →
      let r := s.releaseView s.cur x.toNat
      exec (.xrel x) s = .next (r.setG (r.g.setX x.toNat {})).advance ∧
      ((s.g.getX x.toNat).held = true →
        let f := viewFrame s.node (s.g.getX x.toNat)
        let b := pageBytes (s.g.getX x.toNat).psize.toNat
        (s.frameUsed s.cur f b s.nextId = false → r.holds.look f 0 = s.holds.look f 0 - 1) ∧
        (s.frameUsed s.cur f b s.nextId = true → r.holds = s.holds ∧ r.g.letGo = s.g.letGo ++ [(f, b, s.nextId)])))

/-- LOAD_RETURN, EMPTY_OPERATION_COMPLETE, ATOMR_RETURN, SREAD_COMPLETE and FUNCTION_RESULT of an outstanding operation of
their kind write its register words in order and remove it, and the count of its flag falls by one; those of a group
that has ended are discarded. XLAT_COMPLETE releases a view that the register got meanwhile and walks the address: the
translation register gets the view of a present page that may be read or written, whose frame is then held; of a page
that is absent, or whose entry is invalid and is then logged, a view with limit 0. Of the group only the registers
written, the operations and the flag count change. (R23, R25, R137, R142, R144, R148, R158, R215, R382) -/
def Obligations.LongOperationsComplete : Prop :=
  ∀ (s : State) (p id : Nat) (o : Pend), (s.group p).op? id = some o →
    let g := fun (t : State) => (t.group p).endOp o
    let w := if (s.group p).ended then s else s.applyWrites p o.writes
    let done := w.setGroup p (g w)
    (o.kind = .load → exec (.loadReturn p id) s = .next done) ∧
    (o.kind = .empty → exec (.emptyOperationComplete p id) s = .next done) ∧
    (o.kind = .atomr → exec (.atomrReturn p id) s = .next done) ∧
    (o.kind = .sread → exec (.sreadComplete p id) s = .next done) ∧
    (o.kind = .func → exec (.functionResult p id) s = .next done) ∧
    ((∀ e ∈ (done.group p).ops, e.id ≠ id) ∧
      (∀ f, o.flag = some f → (done.group p).flags.look f 0 = (s.group p).flags.look f 0 - 1) ∧
      (∀ f, o.flag ≠ some f → (done.group p).flags.look f 0 = (s.group p).flags.look f 0) ∧
      ((s.group p).ended = false → ∀ r l w, o.writes = [.v r l w] → done.group p = (((s.group p).setV r l w).endOp o)) ∧
      ∀ a, memRead done.mem a = memRead s.mem a) ∧
    ∀ d va len, o.kind = .xlat d va len →
      let z := s.releaseView p d
      ((s.group p).ended = true → ∀ t, translateVa s p va = .ok t → exec (.xlatComplete p id) s = .next (s.setGroup p (g s))) ∧
      ((s.group p).ended = false → ∀ t, translateVa s p va = .ok t →
        let v := z.viewOf p va len
        let f := viewFrame v.1.node v.2
        let u := if v.2.held then { v.1 with holds := v.1.holds.put f (v.1.holds.look f 0 + 1) } else v.1
        exec (.xlatComplete p id) s = .next (u.setGroup p (((u.group p).setX d v.2).endOp o)) ∧
        (∀ a, translateVa z p va = .ok t → t.loc = .phys a → t.rd = true ∨ t.wr = true →
          v.2 = { valid := true, wr := t.wr, rd := t.rd, remote := t.remote, rc := t.rc, base := BitVec.ofNat 57 va,
                  psize := BitVec.ofNat 2 t.psize, pa := BitVec.ofNat 52 a, node := s.node,
                  limit := BitVec.ofNat 33 (min len (min (pageBytes t.psize - va % pageBytes t.psize) (2 ^ 32))),
                  key := t.key, held := true })) ∧
      ((s.group p).ended = false → 0x10000 ≤ va → va < 0x1FE000000000000 →
        let view : XReg := { valid := true, base := BitVec.ofNat 57 va }
        (∀ e, walk s va = .absent e → exec (.xlatComplete p id) s = .next (z.setGroup p (((z.group p).setX d view).endOp o))) ∧
        ∀ e, walk s va = .invalid e →
          let u := (s.logEntries p [e]).releaseView p d
          exec (.xlatComplete p id) s = .next (u.setGroup p (((u.group p).setX d view).endOp o)))

/-- Issued by a group whose 32 lanes are active: with the accumulator not busy and every register in the allotment, MMA
with a legal pair of types and AZERO append their operation to the team's queue and set the accumulator's busy bit,
and MMAQ and MMAQS with an accepted operand block read it, append their operation with it and become an outstanding
operation, MMAQS with the shadow of its pair, taking a free one; ACOMMIT of an id below 8, with no accumulator of its
pairs busy, and ADISCARD take the id's pairs in ascending accumulator and append their operation. The slot moves on.
(R39, R40, R167, R171, R172, R173, R174, R175) -/
def Obligations.MatrixOperationsEnterTheQueue : Prop :=
  ∀ (s : State) (sh : BitVec 2) (d : BitVec 5) (a b : BitVec 4) (r : BitVec 7) (m : BitVec 8),
    isMast s.cur = false → Lanes s (BitVec.allOnes 32) →
    let ready := d.toNat < s.tm.accs ∧ s.accBusy d.toNat = false
    let op := fun (i : Instr) => ({ place := s.cur, tag := s.g.tag, pc := s.sl.pc, instr := i, gm := s.sl.gm } : MatOp)
    let queued := fun (i : Instr) => s.setTm { s.tm with mq := s.tm.mq ++ [op i], busy := s.tm.busy.put d.toNat true }
    (ready → ∀ A B, tyOf (gmDtype s.sl.gm) = some A → tyOf (gmStype s.sl.gm) = some B → pairOk A B = true →
      (2 ≤ sh.toNat → isMx A = true ∧ isMx B = true) → a.toNat < s.tm.tiles → b.toNat < s.tm.tiles →
      ∃ t, exec (.mma sh d a b) s = .next t ∧ t.tm = (queued (.mma sh d a b)).tm ∧ t.sl = s.sl.past ∧ t.mem = s.mem) ∧
    (ready → ∃ t, exec (.azero d) s = .next t ∧ t.tm = (queued (.azero d)).tm ∧ t.sl = s.sl.past ∧ t.mem = s.mem) ∧
    (m.toNat < 8 →
      let taken := (s.tm.pairsOf m.toNat).foldl (fun sh k => sh.put k { sh.look k {} with settling := true }) s.tm.shadows
      let settles := fun (i : Instr) => ∃ t, exec i s = .next t ∧ t.tm = { s.tm with
        shadows := taken, mq := s.tm.mq ++ [{ op i with shadows := s.tm.pairsOf m.toNat }] } ∧ t.sl = s.sl.past ∧ t.mem = s.mem
      settles (.adiscard m) ∧
      ((∀ k ∈ s.tm.pairsOf m.toNat, s.accBusy (s.tm.shadows.look k {}).acc = false) → settles (.acommit m))) ∧
    (ready → s.flagFull = false → s.memReady = true → SideOk s r → ∀ t k ra rb, tlbUnit s (s.side r).val.toNat 32 .read = .ok t →
      s.unitWaits .g t.loc 32 true = false →
      let x := (s.touchUnit s.cur s.sl.pc .g t.loc (s.side r).val.toNat 32 false).readLoc s.cur t.loc 32 .g
      let ds := (List.range 4).map fun j => BitVec.ofNat 64 (ofBytes (((x.2.map (·.1)).drop (8 * j)).take 8))
      x.2.any (·.2) = false → matBlock s.tm.tiles ds = some k →
      (match k.ascale with | some y => scaleRuns s y (32 * k.kblk) | none => .ok []) = .ok ra →
      (match k.bscale with | some y => scaleRuns s y (32 * k.kblk) | none => .ok []) = .ok rb →
      ((ra ++ rb).flatMap (fun e => peerLines s e.2)).all (fun u => !u.waits) = true →
      let u := x.1
      let long := fun (i : Instr) => ({ u.matOp i with
        op := some u.nextId, block := ds, scaleA := ra.map (fun e => u.peerScales e.1), scaleB := rb.map (fun e => u.peerScales e.1) } : MatOp)
      exec (.mmaq d r) s = .next ((u.enqueue (long (.mmaq d r))).startLong .matrix []).advance ∧
      (m.toNat < 8 → ∀ n, u.tm.shadowFor m.toNat d.toNat = some n →
        let y := u.tm.shadows.look n {}
        let y := if y.held then y else { held := true, id := m.toNat, acc := d.toNat }
        exec (.mmaqs d r m) s = .next (((u.setTm { u.tm with shadows := u.tm.shadows.put n y }).enqueue
          { long (.mmaqs d r m) with shadows := [n] }).startLong .matrix []).advance))

/-- The head of a team's queue is performed and leaves it. MMA and MMAQ give each of the 1024 elements of their
accumulator the value of the block sums of rows i and j added to it (log entry 62 on the sign of a zero sum; log entry
13: all at once), MMA clearing the busy bit; MMAQS does so in its pair's shadow, from the accumulator the first time;
AZERO clears its accumulator and the busy bit; ACOMMIT copies each loaded shadow of its pairs to its accumulator and
frees it; ADISCARD frees the shadows. Other accumulators and shadows keep their elements. An MMAQ or MMAQS completes
its outstanding operation. (R25, R39, R40, R56, R58, R171, R172, R174, R175) -/
def Obligations.MatrixOperationsPerformed : Prop :=
  ∀ (s : State) (k : Nat) (m : MatOp) (rest : List MatOp), (s.team k).mq = m :: rest →
    let t := s.team k
    let popped := fun (u : State) => (u.team k).mq = rest
    let completes := fun (b u : State) => ∀ o, m.op = some o.id → (b.group m.place).op? o.id = some o →
      u.group m.place = (b.group m.place).endOp o
    (∀ sh d a b A B, m.instr = .mma sh d a b → m.op = none → mmaTypes m.gm (matShape sh).2 = .ok (A, B) →
      let q := matShape sh
      let n := matBlocks q.1 A B
      let scale := fun (tile : BitVec 4) i b => if q.2 then t.tileByte tile.toNat ((96 + i) * 128 + b) else (0x7F, false)
      let args : MatArgs := ⟨A, B, matRows t a.toNat A n (scale a), matRows t b.toNat B n (scale b), 0⟩
      ∃ u, exec (.mmaPerformed k) s = .next u ∧ popped u ∧ (u.team k).busy.look d.toNat false = false ∧ u.mem = s.mem ∧
        (u.team k).shadow = t.shadow ∧
        ∀ j e, e < 1024 → (u.team k).accElem j e =
          if j = d.toNat then matElem args (t.accElem j e) (e / 32) (e % 32) else t.accElem j e) ∧
    (∀ d, m.instr = .azero d → ∃ u, exec (.azeroPerformed k) s = .next u ∧ popped u ∧ (u.team k).busy.look d.toNat false = false ∧
      (u.team k).shadow = t.shadow ∧ u.mem = s.mem ∧
      ∀ j e, e < 1024 → (u.team k).accElem j e = if j = d.toNat then {} else t.accElem j e) ∧
    (∀ d r args, m.instr = .mmaq d r → (s.blockArgs k m).2 = some args →
      ∃ u, exec (.mmaqPerformed k) s = .next u ∧ popped u ∧ (u.team k).shadow = t.shadow ∧ completes (s.blockArgs k m).1 u ∧
        ∀ j e, e < 1024 → (u.team k).accElem j e =
          if j = d.toNat then matElem args (((s.blockArgs k m).1.team k).accElem j e) (e / 32) (e % 32)
          else ((s.blockArgs k m).1.team k).accElem j e) ∧
    (∀ d r id n args, m.instr = .mmaqs d r id → m.shadows = [n] → (s.blockArgs k m).2 = some args →
      let t := (s.blockArgs k m).1.team k
      ∃ u, exec (.mmaqsPerformed k) s = .next u ∧ popped u ∧ completes (s.blockArgs k m).1 u ∧ ((u.team k).shadows.look n {}).loaded = true ∧
        (∀ j e, (u.team k).accElem j e = t.accElem j e) ∧
        ∀ j e, e < 1024 → (u.team k).shadowElem j e =
          if j = n then matElem args (if (t.shadows.look n {}).loaded then t.shadowElem n e else t.accElem d.toNat e) (e / 32) (e % 32)
          else t.shadowElem j e) ∧
    (∀ id, m.instr = .acommit id → exec (.acommitPerformed k) s =
      .next ((s.setTeam k (m.shadows.foldl (fun t n => t.commitShadow n) t)).popMat k m) ∧ ∀ n, m.shadows = [n] →
      ∃ u, exec (.acommitPerformed k) s = .next u ∧ popped u ∧
        (∀ j e, e < 1024 → (u.team k).shadowElem j e = if j = n then {} else t.shadowElem j e) ∧
        ∀ j e, e < 1024 → (u.team k).accElem j e =
          if j = (t.shadows.look n {}).acc ∧ (t.shadows.look n {}).loaded = true then t.shadowElem n e else t.accElem j e) ∧
    (∀ id, m.instr = .adiscard id → exec (.adiscardPerformed k) s =
      .next ((s.setTeam k (m.shadows.foldl (fun t n => t.freeShadow n) t)).popMat k m) ∧ ∀ n, m.shadows = [n] →
      ∃ u, exec (.adiscardPerformed k) s = .next u ∧ popped u ∧
        (∀ j e, e < 1024 → (u.team k).shadowElem j e = if j = n then {} else t.shadowElem j e) ∧
        ∀ j e, (u.team k).accElem j e = t.accElem j e)

/-- Issued by a group, with the accumulator not busy: AMOV with a row below 32 writes to each active lane l of v[d] the
element of its row and column l; ACVT from f32 or s32 converts the E(T) elements of column l from its row on, in
ascending order, drawing from the lane's generator, when those rows exist. Where active lanes would read poisoned
elements, both raise FLT.POISON with those lanes and the accumulator's number, class code 6; both raise FLT.OPND on a
vector register or accumulator outside the allotment or a row above 31, and ACVT on rows past the last. An element
read is the accumulator's own, or the shadow's that the last issued ACOMMIT of it is still to copy there (the model's
reading of R39, log entry 13). Nothing else changes but the slot's place. (R34, R39, R52, R80, R174, R175, R419, R425) -/
def Obligations.AccumulatorReads : Prop :=
  ∀ (s : State) (act : Word) (T S : Ty) (d i : BitVec 8) (a : BitVec 5), isMast s.cur = false → s.accBusy a.toNat = false →
    let el := fun (r l : Nat) => s.tm.readElem a.toNat (r * 32 + l)
    (∀ e, ((∀ m ∈ s.tm.mq, ∀ id, m.instr ≠ .acommit id) → s.tm.readElem a.toNat e = s.tm.accElem a.toNat e) ∧
      ∀ m id k, s.tm.mq = [m] → m.instr = .acommit id → m.shadows = [k] → (s.tm.shadows.look k {}).acc = a.toNat →
        s.tm.readElem a.toNat e = s.tm.shadowElem k e) ∧
    let named := Owned s [d.toNat] ∧ a.toNat < s.tm.accs ∧ i.toNat < 32
    let poison := fun (bad : Word) => s.raise { cls := 0x0E, lanes := bad, addr := BitVec.ofNat 64 (6 * 256 + a.toNat) }
    (¬ named → s.sl.gmPoison = false →
      exec (.amov d a i) s = .next (s.raise { cls := 0x06 }) ∧ exec (.acvt d a i) s = .next (s.raise { cls := 0x06 })) ∧
    (named → Lanes s act →
      ((∀ l < 32, act.getLsbD l = true → (el i.toNat l).poison = false) →
        WritesVector (.amov d a i) s act d.toNat (fun l => (el i.toNat l).val)) ∧
      (∀ bad, bad ≠ 0 → (∀ l < 32, bad.getLsbD l = (act.getLsbD l && (el i.toNat l).poison)) →
        exec (.amov d a i) s = .next (poison bad)) ∧
      (HasDtype s T → tyOf (gmStype s.sl.gm) = some S → S = .f32 ∨ S = .s32 →
        (32 < i.toNat + tyCount T → exec (.acvt d a i) s = .next (s.raise { cls := 0x06 })) ∧
        (i.toNat + tyCount T ≤ 32 →
          (∀ bad, bad ≠ 0 → (∀ l < 32, bad.getLsbD l = true ↔ act.getLsbD l = true ∧ ∃ k < tyCount T, (el (i.toNat + k) l).poison = true) →
            exec (.acvt d a i) s = .next (poison bad)) ∧
          ((∀ k < tyCount T, ∀ l < 32, act.getLsbD l = true → (el (i.toNat + k) l).poison = false) →
            ∃ v rng, exec (.acvt d a i) s = .next (s.setG { s.g with v := v, rng := rng }).advance ∧
              ∀ r l, l < 32 →
                let c := acvtElems S T s.sl.gm (fun k => (el (i.toNat + k) l).val) (List.range (tyCount T)) 0 (s.g.rng.look l 0)
                v.look (r * 32 + l) {} = (if r = d.toNat ∧ act.getLsbD l = true then { val := c.1 } else s.g.getV r l) ∧
                rng.look l 0 = if act.getLsbD l = true then c.2 else s.g.rng.look l 0))))

/-- Issued by a group, with their checks passed and room in the transaction table: CPY gathers the moves of its active
lanes by destination line, one operation a line; CPG makes one operation of each active lane's row; of both only those
bytes are to be written that no higher lane writes too, whichever virtual address names them; CPT one of each row of
128 bytes into its tile; CPQ one for the whole tile. The operations enter the table behind those there, undrained and
of no sealed batch, and the open batch counts them undrained and unlanded; no register and no team changes, and the
slot moves on. CPY and CPG with no active lane, and their registers in the allotment, only move on. (R149, R167, R176,
R182, R183, R184, R185, R259) -/
def Obligations.CopiesBecomeTransferOperations : Prop :=
  ∀ (s : State) (z : CopySize) (dx sx : BitVec 3) (dv sv : BitVec 8) (d a : BitVec 4) (b : BitVec 7) (act : Word)
    (ts : List (MUnit × Trans)) (n : Nat), isMast s.cur = false → s.memReady = true → Lanes s act →
    let off := fun (r : BitVec 8) (l : Nat) => (s.vw r l).toNat
    let marked := overwritten (movesOf ts)
    let moves := marked.map (·.2)
    let told := (marked.map fun e => (e.1, { e.2 with hidden := false })) = movesOf ts ∧
      ∀ i (h : i < marked.length), marked[i].2.hidden = true ↔
        ∃ j, ∃ k : j < marked.length, i < j ∧ marked[j].2.dst.same marked[i].2.dst = true
    let row := fun (x : Xfer) => (x.place, x.tag, x.kind, x.moves, x.batch, x.drained)
    let enters := fun (i : Instr) (k : XKind) (ops : List (List Move)) =>
      ops ≠ [] → s.txRoom ops.length = some n → ∃ t, exec i s = .next t ∧ t = (s.addXfers k n (ops.map fun o => (o, []))).advance ∧
        t.xfers.map row = s.xfers.map row ++ ops.map (fun o => (s.cur, s.g.tag, k, o, none, false)) ∧ t.teams = s.teams ∧
        t.g = { s.g.setSlot s.curSlot s.sl.past with openBatch := { s.g.openBatch with
          used := true, undrained := s.g.openBatch.undrained + ops.length, unlanded := s.g.openBatch.unlanded + ops.length } }
    (act = 0 → Owned s [dv.toNat, sv.toNat] → exec (.cpy z dx sx dv sv) s = .next s.advance ∧
      (sv.toNat < 255 → Owned s [sv.toNat + 1] → exec (.cpg dx sx dv sv) s = .next s.advance)) ∧
    (act ≠ 0 → Owned s [dv.toNat, sv.toNat] →
      let us := (lanesOf act).flatMap fun l =>
        [copyUnit s sx l (off sv l) (copyBytes z) .read, copyUnit s dx l (off dv l) (copyBytes z) .write]
      copyCheck s act [dv.toNat, sv.toNat] [sx, dx] us = .ok ts →
      let ops := sortBy s.opKey (byLine moves)
      told ∧ ops.flatten.Perm moves ∧ (∀ o ∈ ops, ∀ m ∈ o, ∀ m' ∈ o, m.line = m'.line) ∧ enters (.cpy z dx sx dv sv) .cpy ops) ∧
    (act ≠ 0 → sv.toNat < 255 → Owned s [dv.toNat, sv.toNat, sv.toNat + 1] → Clean s act [dv.toNat, sv.toNat, sv.toNat + 1] →
      (∀ l < 32, act.getLsbD l = true → (cpgRow s.g dv sv l).2.2 ≠ 0 ∧ (cpgRow s.g dv sv l).2.2 % 16 = 0) →
      let us := (lanesOf act).flatMap fun l =>
        let r := cpgRow s.g dv sv l
        (List.range (r.2.2 / 16)).flatMap fun i =>
          [copyUnit s sx l (r.1 + 16 * i) 16 .read, copyUnit s dx l (r.2.1 + 16 * i) 16 .write]
      copyCheck s act [dv.toNat, sv.toNat, sv.toNat + 1] [sx, dx] us = .ok ts →
      let rows := (lanesOf act).map fun l => (marked.filter (fun e => e.1 = l)).map (·.2)
      told ∧ (sortBy s.opKey rows).Perm rows ∧ enters (.cpg dx sx dv sv) .cpg (sortBy s.opKey rows)) ∧
    (act = BitVec.allOnes 32 → d.toNat < s.tm.tiles → SideOk s b →
      let w := (s.side b).val.toNat
      let rows := w / 2 ^ 56 % 128 + 1
      let row := w / 2 ^ 48 % 128
      let pitch := if w / 2 ^ 32 % 2 ^ 16 = 0 then 128 else w / 2 ^ 32 % 2 ^ 16
      (w < 2 ^ 63 → w / 2 ^ 55 % 2 = 0 → row + rows ≤ 128 → pitch % 16 = 0 → 128 ≤ pitch →
        let us := (List.range rows).flatMap fun r =>
          (List.range 8).map fun i => copyUnit s sx 0 (w % 2 ^ 32 + r * pitch + 16 * i) 16 .read
        copyCheck s 0 [] [sx] us = .ok ts →
        enters (.cpt d sx b) .cpt ((List.range rows).map fun r => ((ts.drop (8 * r)).take 8).zipIdx.map fun e =>
          { va := e.1.1.va, src := e.1.2.loc, dst := .tile (d.toNat * 16384 + (row + r) * 128 + 16 * e.2), n := 16 })) ∧
      (a.toNat < s.tm.tiles → d ≠ a → cpqOk w = true →
        enters (.cpq d a b) (.cpq d.toNat a.toNat (s.side b).val s.sl.gm) [[]]))

/-- For a group: SEAL of a scope code below 5, with fewer than sixteen batches outstanding, gives the open batch and its
operations the next number modulo 16 and its scope, writes the number to s[d], opens an empty batch and moves on;
CPWAIT.SRC n and CPWAIT.VIS n move on when at most n sealed batches are not reported drained or landed, VIS acquiring
the landed ones, and else make the slot WAITING; CPTEST writes the status word: failures, first class, scope,
outstanding, landed and drained, where a number not in use reads landed and drained. Nothing else changes. (R179,
R180, R181, R253) -/
def Obligations.BatchesSealedAndTested : Prop :=
  ∀ (s : State) (d : BitVec 6) (n : BitVec 8), isMast s.cur = false →
    let k := (s.g.lastBatch + 1) % 16
    let b := s.g.batch n.toNat
    let one := fun (c : Bool) => if c then 1 else 0
    let word := b.nfail * 2 ^ 24 + b.err.toNat * 2 ^ 16 + b.scope * 2 ^ 4 + one (s.g.outstanding n.toNat) * 4 +
      one (!b.used || s.g.landed n.toNat) * 2 + one (!b.used || s.g.drained n.toNat)
    let not_ := fun (f : Nat → Bool) => (s.g.sealOrder.filter (fun i => !f i)).length
    (n.toNat < 5 → s.g.batchesFull = false →
      ∃ t, exec (.seal d n) s = .next t ∧ t.g.getS d.toNat = { val := BitVec.ofNat 64 k } ∧ t.g.lastBatch = k ∧
        t.g.openBatch = {} ∧ (t.g.batch k).scope = n.toNat ∧ (t.g.batch k).used = true ∧
        (t.g.batch k).undrained = s.g.openBatch.undrained ∧ (t.g.batch k).unlanded = s.g.openBatch.unlanded ∧
        t.xfers = s.xfers.map (fun x => if x.place = s.cur ∧ x.tag = s.g.tag ∧ x.batch = none then { x with batch := some k } else x) ∧
        (∀ j, j ≠ k → t.g.batch j = s.g.batch j) ∧ (∀ r, r ≠ d.toNat → t.g.getS r = s.g.getS r) ∧ t.sl = s.sl.past ∧
        t.g.v = s.g.v ∧ t.g.p = s.g.p ∧ t.g.x = s.g.x ∧ t.g.ops = s.g.ops ∧ t.g.tokens = s.g.tokens ∧
        (∀ q, q ≠ s.cur → t.group q = s.group q) ∧ t.teams = s.teams ∧ ∀ a, memRead t.mem a = memRead s.mem a) ∧
    (n.toNat < 16 →
      exec (.cpwaitSrc n) s = .next (if not_ s.g.drained ≤ n.toNat then s.advance
        else s.setSl { s.sl with state := .waiting (.cpwaitSrc n.toNat) }) ∧
      exec (.cpwaitVis n) s = .next (if not_ s.g.landed ≤ n.toNat then (s.acquireBatches s.cur s.g.sealOrder).advance
        else s.setSl { s.sl with state := .waiting (.cpwaitVis n.toNat) }) ∧
      exec (.cptest d n) s = .next (s.setG { s.g with s := s.g.s.put d.toNat { val := BitVec.ofNat 64 word } }).advance)

/-- While their port is up, no atomic holds their units and the messages that they need have left: TRANSFER_OP_DRAINED of
an operation that has not drained, with the answers to its reads, fills the lines that it reads, reads its sources (a
peer's bytes as the answers bring them) and counts it drained; TRANSFER_OP_LANDED of a drained one that lands by its
own, with the acknowledgments of its packets, writes its bytes and ends it, or waits where a view holds the twin
frame, which TWIN_WRITE_PERFORMED ends. One whose answer is dropped hears no more of it. TRANSFER_OP_FAILED with a
class that a peer's refusal of one of its packets or a lost port gives ends it and those that fail with it, its batch
counting the failure with the class of the first, or of the lower in issue order in one clock; CPQ_COMPLETE
requantises the tile as the start read it, draws from the lanes' generators and ends it; EMPTY_BATCH_COMPLETE drains
and lands a batch with nothing left. What waits on the batch goes on, and an ended operation is in the table no more.
That an operation is read whole as it drains and written whole as it lands is the model's choice (log entry 19).
(R164, R178, R179, R185, R252, R261, R263, R264, R266, R271, R398, R404) -/
def Obligations.TransferOperationsProgress : Prop :=
  ∀ (s : State) (id : Nat) (x : Xfer) (ext : List (Envelope × List (Byte × Bool))) (es : List Envelope) (cls : BitVec 8), s.xfer? id = some x →
    let cpq := ∃ d a c g, x.kind = .cpq d a c g
    let gone := fun (t : State) => ∀ y ∈ t.xfers, y.id ≠ id
    let answers := fun (i : Instr) (l : List (Envelope × Nat × BitVec 19 × Packet)) (f : State → Xfer → State) =>
      l.all (fun a => s.mayArrive a.1 a.2.2.1) = true → ∀ y, (s.hearAll l).1.xfer? id = some y →
        exec i s = .next (if (s.hearAll l).2 then f (s.hearAll l).1 y else (s.hearAll l).1.setXfer { y with deaf := true })
    (¬ cpq → x.drained = false → x.deaf = false → ext.map (·.2.length) = x.reads.map x.readLen → s.xferLost x = false →
      s.readLocked x = false → s.readsAway x = true →
      answers (.transferOpDrained id ext)
        ((x.reads.zip ext).map fun e => (e.2.1, 3, e.1.node, { e.1.packet with payload := e.2.2.map (·.1) })) fun s x =>
          let t := s.engineFill x
          let y := { x with drained := true, moves := t.readMoves (x.reads.zip (ext.map (·.2))) x.moves }
          (((t.setXfer y).countDrained y).settleViews x.place).wakeCopies x.place) ∧
    (x.drained = true → x.twin = false → x.deaf = false → s.landsAlone x = true → s.xferLost x = false → s.writeLocked x = false →
      s.writesAway x = true → es.length = x.acks.length →
      answers (.transferOpLanded (id, es)) ((es.zip x.acks).map fun a => (a.1, 7, a.2.2.1, { a.2.2.2 with payload := [0] }))
        fun s x => if s.twinHeld x then s.setXfer { x with twin := true } else s.landXfer x) ∧
    (x.twin = true → s.twinHeld x = false → exec (.twinWritePerformed id) s = .next (s.landXfer x)) ∧
    (s.xferLost x = true →
      exec (.transferOpFailed id (0x0B, none)) s = .next ((s.failsWith x 0x0B).foldl (fun s y => s.failXfer y 0x0B) s)) ∧
    (∀ i e q, x.deaf = false → s.refusable x i = some q →
      cls ∈ [0x01, 0x02, 0x09] ∨ (x.drained = true ∧ x.kind = .cpl ∧ cls ∈ [0x0A, 0x0B]) →
      answers (.transferOpFailed id (cls, some (i, e))) [(e, 7, q.1, { q.2 with payload := [cls] })]
        fun s x => (s.failsWith x cls).foldl (fun s y => s.failXfer y cls) s) ∧
    ((x.kind ≠ .cpl ∨ cls ≠ 0x0B → s.failsWith x cls = [x]) ∧
      ((s.group x.place).tag = x.tag → (s.group x.place).live = true → (s.group x.place).ended = false → x.batch = none →
        (((s.failXfer x cls).group x.place).openBatch.nfail = min ((s.group x.place).openBatch.nfail + 1) 0xFFFF ∧
         ((s.failXfer x cls).group x.place).openBatch.err =
           if (s.group x.place).openBatch.err = 0 ∨
             (s.group x.place).openBatch.errClock = s.clock ∧ x.id < (s.group x.place).openBatch.errOp then cls
           else (s.group x.place).openBatch.err))) ∧
    (∀ d a c g w, x.kind = .cpq d a c g → x.source = some w →
      let r := cpqRun { s.team x.team with tile := w } (s.team x.team) d a c g (s.group x.place).rng
      let t := (s.setTeam x.team r.1).setGroup x.place { s.group x.place with rng := r.2 }
      exec (.cpqComplete id) s = .next (((t.countDrained x).countLanded x).endXfer x)) ∧
    (gone (s.landXfer x) ∧ gone (s.failXfer x cls)) ∧
    ∀ p b, (s.group p).live = true → ((s.group p).batch b).out = true → ((s.group p).batch b).undrained = 0 →
      ((s.group p).batch b).unlanded = 0 → ((s.group p).batch b).drained = false ∨ ((s.group p).batch b).landed = false →
      exec (.emptyBatchComplete p b) s = .next ((s.setGroup p { s.group p with
        batches := (s.group p).batches.put b { (s.group p).batch b with drained := true, landed := true } }).wakeCopies p)

/-- A queued PUBLISH whose page is present and twinned, with no earlier accepted engine write to the page still to land
and no earlier XLAT of the group still to complete, drops the clean cached words of the frame that becomes current,
exchanges the entry's frame and twin fields with every other field kept, and leaves the queue. Where the page is no
longer present its live group takes FLT.PAGE at the word, and where its entry is invalid FLT.PROT, with its slot
otherwise as it stands. (R163, R242, R254, R382, R384, R385) -/
def Obligations.PublishSwapsTheFrames : Prop :=
  ∀ (s : State) (id : Nat) (q : Pub), s.pubs.find? (fun q => q.id = id) = some q →
    (∀ e, walk s q.va.toNat = .present e → e.tw = true → s.writesBefore e q.va.toNat q.id = false → s.xlatBefore q = false →
      let t := s.invalFrame e.twin (pageBytes e.psize)
      let u := t.devWrite e.entry (bytesOf 8 (e.d0.toNat - e.frame + e.twin) ++ bytesOf 8 (e.d1.toNat - e.twin + e.frame))
      exec (.publishPerformed id) s = .next { u with pubs := u.pubs.filter (fun x => x.id != id) } ∧
      (e.d0.toNat - e.frame + e.twin) / 2 ^ 52 = e.d0.toNat / 2 ^ 52 ∧ (e.d0.toNat - e.frame + e.twin) % 2 ^ 52 = e.twin ∧
      (e.d1.toNat - e.twin + e.frame) / 2 ^ 52 = e.d1.toNat / 2 ^ 52 ∧ (e.d1.toNat - e.twin + e.frame) % 2 ^ 52 = e.frame) ∧
    ((s.group q.place).live = true → (s.group q.place).ended = false → (s.group q.place).tag = q.occ → (s.group q.place).fault = none →
      let g := s.group q.place
      let faults := fun (f : FaultInfo) =>
        let t := (s.setGroup q.place (g.setSlot q.slot q.saved)).raiseAt q.place q.slot f
        exec (.publishPerformed id) s = .next (t.setGroup q.place ((t.group q.place).setSlot q.slot (g.slot q.slot)))
      (∀ e, walk s q.va.toNat = .absent e → faults { cls := 0x01, addr := q.va.setWidth 64 }) ∧
        (∀ e, walk s q.va.toNat = .invalid e → faults { cls := 0x02, addr := q.va.setWidth 64, badEntries := [e] }))

/-- By a group: LZOPEN of an accepted request takes the lowest free zone number of the core and becomes an outstanding
operation; its completion opens the zone under the tag issued, all slots free, and writes its descriptor; LZCLOSE of
the team's zone advances the generation by 1 modulo 256 and turns its reserved and filling slots to revoked with cause
4; LZFREE frees an arrived, failed or revoked slot; LZSTAT's completion writes the slot's state, cause, generation and
pending count as they were at issue (the model's choice, log entry 13). A zone number's cooldown ends once, a packet
lifetime of 200 us after its generation advanced. Other zones, and memory, stay. (R186, R187, R191, R192, R267, R269,
R394) -/
def Obligations.LandingZonesOpenedAndClosed : Prop :=
  ∀ (s : State) (d : BitVec 6) (a b : BitVec 7), isMast s.cur = false →
    let core := coreKey s.cur
    let v := (s.side a).val.toNat
    let sz := v / 2 ^ 20 % 16
    let base := v % 2 ^ 20
    let cnt := v / 2 ^ 24 % 64
    let slotSize := 256 * 2 ^ sz
    let mine := (List.range 16).filter fun m => (s.zone core m).isOf s.g.team
    (∀ n, s.flagFull = false → SideOk s a → v < 2 ^ 30 → sz ≤ 8 → base % slotSize = 0 →
      base + slotSize * (cnt + 1) ≤ s.tm.units * 65536 → mine.length < 16 →
      (∀ m ∈ mine, let y := s.zone core m; y.base + y.bytes ≤ base ∨ base + slotSize * (cnt + 1) ≤ y.base) →
      n < 16 → ((s.zone core n).held = false ∧ (s.zone core n).cooling = false) →
      (∀ m < n, (s.zone core m).held = true ∨ (s.zone core m).cooling = true) →
      let z : Zone := { opening := true, held := true, team := s.g.team, cnt := cnt, sz := sz, base := base }
      exec (.lzopen d a) s = .next ((s.setZone core n { z with gen := (s.zone core n).gen }).startLong (.lzopen d.toNat n) []).advance) ∧
    (∀ p id o r n tag, (s.group p).op? id = some o → o.kind = .lzopen r n →
      let z := s.zone (coreKey p) n
      z.opening = true → z.team = (s.group p).team → s.tagFree tag = true →
      let y : Zone := { z with opening := false, open_ := true, tag := tag, slots := [] }
      ∃ t, exec (.lzopenComplete p id tag) s = .next t ∧ t.zone (coreKey p) n = y ∧
        (t.group p).getS r = { val := BitVec.ofNat 64 (z.gen.toNat * 2 ^ 56 + tag.toNat * 2 ^ 32 + z.cnt * 2 ^ 26 +
          z.sz * 2 ^ 22 + z.base / 256 * 2 ^ 8 + n * 2 ^ 4) } ∧
        (t.group p).op? id = none ∧ (∀ m, m ≠ n → m < 16 → n < 16 → t.zone (coreKey p) m = s.zone (coreKey p) m) ∧ t.mem = s.mem) ∧
    (∀ p id o, (s.group p).op? id = some o → o.kind = .lzstat →
      let w := if (s.group p).ended then s else s.applyWrites p o.writes
      exec (.lzstatComplete p id) s = .next (w.setGroup p ((w.group p).endOp o))) ∧
    (∀ c n, n < 16 → (s.zone c n).cooling = true → (s.zone c n).advanced + 200 ≤ s.ftime →
      exec (.zoneNumberCooldownEnd c n) s = .next (s.setZone c n { s.zone c n with cooling := false })) ∧
    (let w := v
     let n := w / 2 ^ 4 % 16
     let z := s.zone core n
     SideOk s a → w / 2 ^ 20 % 4 = 0 → w % 16 = 0 → z.open_ = true → z.team = s.g.team → z.gen.toNat = w / 2 ^ 56 % 256 →
      z.tag.toNat = w / 2 ^ 32 % 2 ^ 24 →
      (∃ t, exec (.lzclose a) s = .next t ∧ t = (s.revokeZone core n).advance ∧ (t.zone core n).gen = z.gen + 1 ∧
        (t.zone core n).open_ = false ∧ (t.zone core n).cooling = true ∧
        (∀ i, (t.zone core n).slot i =
          if (z.slot i).state = 1 ∨ (z.slot i).state = 2 then { z.slot i with state := 5, cause := 4 } else z.slot i) ∧
        (∀ m, m ≠ n → m < 16 → t.zone core m = s.zone core m) ∧ t.mem = s.mem) ∧
      (SideOk s b → (s.side b).val.toNat ≤ z.cnt →
        let i := (s.side b).val.toNat
        let x := z.slot i
        (x.state ≠ 1 → x.state ≠ 2 → ∃ t, exec (.lzfree a b) s = .next t ∧
          (t.zone core n).slot i = (if x.state = 0 then x else { gen := x.gen }) ∧
          (∀ j, j ≠ i → (t.zone core n).slot j = z.slot j) ∧ (∀ m, m ≠ n → m < 16 → t.zone core m = s.zone core m) ∧ t.sl = s.sl.past ∧ t.mem = s.mem) ∧
        let word := BitVec.ofNat 64 (x.state * 2 ^ 61 + x.cause * 2 ^ 56 + z.gen.toNat * 2 ^ 48 + x.pending)
        (s.flagFull = false →
          exec (.lzstat d a b) s = .next (s.startLong .lzstat [RegWrite.s d.toNat { val := word }]).advance)))

/-- LZRES becomes an outstanding operation that carries its descriptor and place. At the target the first check that fails
gives the error: zone not open or stale 0x0A, tag 0x09, no free slot 0x7E; else the lowest free slot is reserved for
the sender and its port with the slot size pending, and the answer is its handle, which goes back to a peer's gateway,
or LZRES_ANSWER writes. LZWAIT moves on where the slot is not reserved or filling, acquiring at .s where it has
arrived, and else waits. CPL of accepted handles puts an operation a line into the table; with no active lane it only
moves on. A packet that comes by its slots' link, not too old, goes to every slot that the gateway copies it to: it is
written where the filter admits it, and where it refuses it nothing is and the sender is told 0x0A. A passing tag
credits the slot: arrived at 0 pending, failed with cause 3 beyond; a failing one fails it with cause 1. How messages
look is the model's choice (log entry 64), as are one message for all targets and an own message passing its tag (log
entry 20) and which bits of a handle and a place are looked at (log entry 21). (R176, R189, R190, R192, R259, R268,
R269, R270, R271, R272, R394, R399) -/
def Obligations.LandingSlotsReservedAndFilled : Prop :=
  ∀ (s : State) (d : BitVec 6) (a b : BitVec 7),
    let v := (s.side a).val
    let w := (s.side b).val
    let received := fun (e : Envelope) (kind : Nat) (node : BitVec 19) (ps : List Packet) =>
      s.mayArrive e node = true ∧ s.ageOf e ≤ 200 ∧ s.tagOk e kind node ps = true
    (isMast s.cur = false → SideOk s a → SideOk s b → v.toNat / 2 ^ 20 % 4 = 0 → v.toNat % 16 = 0 →
      (s.flagFull = false → w.toNat / 2 ^ 13 % 256 < 176 →
        exec (.lzres d a b) s = .next (s.startLong (.lzres d.toNat v w (placeKey s.cur s.g) none) []).advance) ∧
      (let z := s.zone (coreKey s.cur) (v.toNat / 2 ^ 4 % 16)
       let x := z.slot w.toNat
       z.open_ = true → z.team = s.g.team → z.gen.toNat = v.toNat / 2 ^ 56 % 256 → z.tag.toNat = v.toNat / 2 ^ 32 % 2 ^ 24 →
        w.toNat ≤ z.cnt →
        exec (.lzwait a b) s = .next
          (if x.state = 1 ∨ x.state = 2 then s.setSl { s.sl with state := .waiting (.lzwait v w.toNat) }
           else if x.state = 3 then (s.acquire s.cur .s).resumeSlot s.cur s.curSlot
           else s.resumeSlot s.cur s.curSlot))) ∧
    (∀ (r : LzPeerReq) (port : Option Nat) (e : Envelope),
      let core := r.die * 256 + r.core
      let z := s.zone core r.zone
      let opens := z.open_ = true ∧ z.gen = r.gen
      (¬ opens → s.reserve r port = (s, BitVec.ofNat 64 (0x0A * 2 ^ 56))) ∧
      (opens → z.tag ≠ r.tag → s.reserve r port = (s, BitVec.ofNat 64 (0x09 * 2 ^ 56))) ∧
      (opens → z.tag = r.tag → (∀ i ≤ z.cnt, (z.slot i).state ≠ 0) → s.reserve r port = (s, BitVec.ofNat 64 (0x7E * 2 ^ 56))) ∧
      (∀ i, opens → z.tag = r.tag → i ≤ z.cnt → (z.slot i).state = 0 → (∀ j < i, (z.slot j).state ≠ 0) →
        let y := (s.reserve r port).1
        (s.reserve r port).2 = handleOf z.gen s.node r.die r.core r.zone i z.sz ∧
        (y.zone core r.zone).slot i = { state := 1, pending := 256 * 2 ^ z.sz, gen := z.gen, node := r.node, key := r.gkey,
                                        res := s.nextId, link := port } ∧
        (∀ j, j ≠ i → (y.zone core r.zone).slot j = z.slot j) ∧ y.groups = s.groups ∧ y.mem = s.mem) ∧
      (r.die = e.ddie → r.core < 176 → r.zone < 16 → received e 9 r.node [lzPacket r []] →
        let t := (s.tagPasses e.port).reserve r (some e.port)
        exec (.lzresRequestArrival (.peer e r)) s = .next
          ((t.1.sendMsg 10 r.node e.sdie e.ddie [lzPacket r (bytesOf 8 t.2.toNat)]).noteSeq e r.node))) ∧
    (∀ p id o r desc target key h, (s.group p).op? id = some o →
      (o.kind = .lzres r desc target key none → target.toNat / 2 ^ 24 % 2 ^ 19 = s.node.toNat →
        let y := s.reserve (lzRequest s.node key desc target) none
        ∃ t, exec (.lzresRequestArrival (.own p id)) s = .next t ∧ t.zones = y.1.zones ∧
          (t.group p).op? id = some { o with kind := .lzres r desc target key (some y.2) }) ∧
      (o.kind = .lzres r desc target key (some h) →
        exec (.lzresAnswer p id none) s = .next (s.endWith p o r h)) ∧
      (∀ e, o.kind = .lzres r desc target key none → target.toNat / 2 ^ 24 % 2 ^ 19 ≠ s.node.toNat → answerFits desc target h = true →
        s.awayOpt o.msg = true → received e 10 (BitVec.ofNat 19 (target.toNat / 2 ^ 24))
          [lzPacket (lzRequest s.node key desc target) (bytesOf 8 h.toNat)] →
        exec (.lzresAnswer p id (some (e, h))) s =
          .next (((s.tagPasses e.port).noteSeq e (BitVec.ofNat 19 (target.toNat / 2 ^ 24))).endWith p o r h)) ∧
      ((s.endWith p o r h).group p).getS r = { val := h } ∧ ((s.endWith p o r h).group p).op? id = none) ∧
    (∀ (z : CopySize) (h : BitVec 7) (x : BitVec 3) (m : BitVec 4) (c : BitVec 8) (act : Word) (ts : List (MUnit × Trans)) (n : Nat),
      let hs := (List.range (m.toNat + 1)).map fun j => (s.side (h + BitVec.ofNat 7 j)).val.toNat
      let off := fun (l : Nat) => (s.g.getV (c.toNat + 1) l).val.toNat
      let spot : Trans := ⟨.phys 0, true, true, false, false, false, 0, 0, none⟩
      let us := (lanesOf act).flatMap fun l =>
        [plainUnit s x l (s.vw c l).toNat (copyBytes z) .read,
         ⟨l, 1, off l, copyBytes z, if off l % copyBytes z ≠ 0 then .error align else .ok spot⟩]
      isMast s.cur = false → s.memReady = true → Lanes s act →
      (act = 0 → c.toNat < 255 → Owned s [c.toNat, c.toNat + 1] → operandBitsOk (.cpl z h x m c) = true →
        (∀ j ≤ m.toNat, s.sideOk (h + BitVec.ofNat 7 j) = true) → exec (.cpl z h x m c) s = .next s.advance) ∧
      (act ≠ 0 → c.toNat < 255 → Owned s [c.toNat, c.toNat + 1] →
      operandBitsOk (.cpl z h x m c) = true → (∀ j ≤ m.toNat, SideOk s (h + BitVec.ofNat 7 j)) →
      (∀ e ∈ hs, handleOk e = true) → (∀ e ∈ hs, ∀ f ∈ hs, (handleTarget e).node = (handleTarget f).node ∧
        (handleTarget e).die = (handleTarget f).die) → rectangleOk (hs.map fun e => (handleTarget e).core) = true →
      (∀ l < 32, act.getLsbD l = true → ∀ e ∈ hs, off l + copyBytes z ≤ 256 * 2 ^ (e % 16)) →
      copyCheck s act [c.toNat, c.toNat + 1] [x] us = .ok ts →
      let moves := (halves ts).map fun e => ({ va := e.1.1.va, src := e.1.2.loc, dst := .slot e.2.1.va, n := copyBytes z } : Move)
      let ops := sortBy s.opKey (byLine moves)
      ops ≠ [] → s.txRoom ops.length = some n →
      ops.flatten.Perm moves ∧
        exec (.cpl z h x m c) s = .next (s.addXfers .cpl n (ops.map fun o => (o, hs.map handleTarget))).advance)) ∧
    (∀ (msg : Nat) (e : Envelope) (q : LandPacket), landPacketOk q = true → s.mayArrive e q.node = true → e.ddie = q.die →
      (match s.landing.find? (fun m => m.id = 2 * msg + 1) with
        | some m => m.takes e q = true
        | none => s.ageOf e ≤ 200) →
      (∀ y ∈ eachSlot q, s.byLink e y = true) →
      ∃ t, exec (.landingPacketArrival (.peer msg e q)) s = .next t ∧
        t = (eachSlot q).foldl (fun s y => s.landSlot msg e y) (s.noteLanding (2 * msg + 1) (some e) [q] none) ∧
        t.zones = s.zones ∧ t.groups = s.groups ∧ ∃ m ∈ t.landing, m.id = 2 * msg + 1) ∧
    (∀ (msg : Nat) (e : Envelope) (q : LandPacket), q.data.length % 4 = 0 →
      let core := q.die * 256 + q.core
      let z := s.zone core q.zone
      let x := z.slot q.slot
      let base := s.slotBase core q.zone q.slot + q.off
      let admitted := z.held = true ∧ z.gen = q.gen ∧ q.slot ≤ z.cnt ∧ (x.state = 1 ∨ x.state = 2) ∧ x.node = q.node ∧ x.key = q.gkey
      let t := s.landSlot msg e q
      (s.admits core q.zone q.gen q.slot q.node q.gkey = true ↔ admitted) ∧
      (s.byLink e q = true ↔ (admitted → x.link = some e.port)) ∧
      (eachSlot q = { q with copies := [] } ::
        q.copies.map fun c => { q with core := c.1, zone := c.2.1, gen := c.2.2.1, slot := c.2.2.2, copies := [] }) ∧
      t.zones = s.zones ∧ t.groups = s.groups ∧
          ((¬ admitted → t.mem = s.mem ∧ ∃ m ∈ t.outbox, m.num = s.nextId ∧ m.msg.kind = 7 ∧ m.msg.dst = q.node ∧
            m.msg.packets.map (·.payload) = [[0x0A]]) ∧
          (admitted → Memory.wf s.mem = true → base % 4 = 0 → ∀ j, memRead t.mem j =
            if base ≤ j ∧ j < base + q.data.length then q.data.getD (j - base) 0 else memRead s.mem j))) ∧
    (∀ id n (x : Xfer) t, s.xfer? id = some x → x.targets[n]? = some t → x.kind = .cpl → x.drained = true → s.landsAlone x = false →
      t.admitted = false → t.result = none → exec (.landingPacketArrival (.own id n)) s = .next (s.landOwn x n t)) ∧
    ∀ (msg : Nat) (tag : Dword) (m : LandMsg), s.landing.find? (fun m => m.id = msg) = some m →
      (∀ e q qs, m.env = some e → m.packets = q :: qs →
        let whole := s.tagOk { e with tag := tag } 1 q.node (m.packets.map fun q => landPacket q q.data)
        (whole = true → exec (.landingTagCheck msg tag) s =
          .next (((s.ackPeer (s.passMsg m) e m true).tagPasses e.port).noteSeq e q.node)) ∧
        (whole = false → exec (.landingTagCheck msg tag) s = .next ((s.ackPeer (s.failMsg m) e m false).tagFails e.port))) ∧
      (∀ u, m.writes = [u] → let x := (s.zone u.core u.zone).slot u.slot
        x.res = u.res → x.state = 1 ∨ x.state = 2 →
        (((s.passMsg m).zone u.core u.zone).slot u.slot =
          if x.pending < u.count then { x with state := 4, cause := 3 }
          else { x with pending := x.pending - u.count, state := if x.pending = u.count then 3 else 2 }) ∧
        ((s.failMsg m).zone u.core u.zone).slot u.slot = { x with state := 4, cause := 1 }) ∧
      (∀ x, m.env = none → s.xfer? (msg / 2) = some x → x.arrived = true →
        exec (.landingTagCheck msg tag) s = .next (s.ackOwn (s.passMsg m) x m))

/-- With its checks passed, SHIP sends one hoist for each active lane in ascending lane order: the lock, the descriptor,
the arguments v[a + 1] on, the lane and the token are the lane's. SHIP.W makes the slot WAITING with its lanes
outstanding; SHIP.T marks token t of each lane pending and the slot moves on. With no active lane and its registers in
the allotment either only moves on. TESTK writes 1 for each active lane whose token is not pending. WAITK with no
pending token makes the tokens of its lanes idle and moves on, or takes the fault of the lowest lane's class that
names the lanes of that class, or that lane alone (log entry 61); else it waits. SHIP.W's wait goes on until the
answer to its last outstanding lane: then the slot moves on, or takes the fault of the lowest failed lane's class,
which names the lanes of that class. A response writes the result words of class 0 to v[a] on of its lane where they
lie in the allotment, and none otherwise (no context of a mast core waits for one: R196). A peer's, of kind 6 (or 7:
its gateway's refusal), is taken when it is received: whole, no older than 200 microseconds, by a link that is up, of
a hoist that has left; likewise its acknowledgment (log entry 64). (R34, R63, R193, R194, R195, R283, R284, R285,
R394, R399) -/
def Obligations.HoistsSentAndAwaited : Prop :=
  ∀ (s : State) (a : BitVec 8) (e : BitVec 7) (x k : BitVec 3) (act : Word), Lanes s act →
    let desc := (s.side e).val
    let na := desc.toNat / 2 ^ 60
    let nr := desc.toNat / 2 ^ 57 % 8
    let received := fun (e : Envelope) (kind : Nat) (node : BitVec 19) (ps : List Packet) =>
      s.mayArrive e node = true ∧ s.ageOf e ≤ 200 ∧ s.tagOk e kind node ps = true
    (s.memReady = true → act = 0 →
      (SideOk s e ∧ a.toNat + 1 + max na (nr - 1) ≤ 256 ∧ a.toNat + 1 + max na (nr - 1) ≤ 8 * s.g.vgran) ∨
        (s.sideOk e = true ∧ (s.side e).poison = true ∧ a.toNat < 8 * s.g.vgran) →
      (isMast s.cur = false → exec (.shipW a e x) s = .next s.advance) ∧ exec (.shipT a e x k) s = .next s.advance) ∧
    (∀ ts, s.memReady = true → act ≠ 0 → SideOk s e → na ≤ 8 → nr ≤ 4 → desc.toNat % 4 = 0 →
      a.toNat + 1 + max na (nr - 1) ≤ 256 → a.toNat + 1 + max na (nr - 1) ≤ 8 * s.g.vgran →
      copyCheck s act ((List.range (na + 1)).map (a.toNat + ·)) [x] ((lanesOf act).map (lockUnit s x a.toNat)) = .ok ts →
      let sent := fun (tok : Option Nat) (t : State) =>
        ∃ hs, t.hoists = s.hoists ++ hs ∧ hs.map (·.req.lane) = lanesOf act ∧
          hs.map (·.req.lockva.toNat) = ts.map (fun u => u.1.va % 2 ^ 57) ∧
          hs.map (fun h => (h.req.lockpa, h.home)) = ts.map (fun u => match u.2.loc with
            | .peer _ _ pa => (pa, none)
            | l => (l.key, some (homeOf l.key))) ∧
          (∀ h ∈ hs, h.own = true ∧ h.at_ = .sent ∧ h.place = s.cur ∧ h.reg = a.toNat ∧ h.req.desc = desc ∧
            h.req.mast = isMast s.cur ∧ h.req.wait = tok.isNone ∧ h.req.tok.toNat = tok.getD 0 % 8 ∧ h.req.node = s.node ∧
            h.req.gkey = placeKey s.cur s.g ∧
            h.req.args = (List.range na).map (fun i => (s.g.getV (a.toNat + 1 + i) h.req.lane).val)) ∧ t.mem = s.mem
      (isMast s.cur = false → ∃ t, exec (.shipW a e x) s = .next t ∧ sent none t ∧
        t.sl = { s.sl with state := .waiting .shipW } ∧ t.g.shipOut = s.g.shipOut ||| act ∧ t.g.v = s.g.v) ∧
      ((∀ l < 32, act.getLsbD l = true → s.g.token k.toNat l ≠ .pending) →
        ∃ t, exec (.shipT a e x k) s = .next t ∧ sent (some k.toNat) t ∧ t.sl = s.sl.past ∧ t.g.v = s.g.v ∧
          ∀ j l, l < 32 → t.g.token j l = if j = k.toNat ∧ act.getLsbD l = true then .pending else s.g.token j l)) ∧
    (∀ (d : BitVec 4) (n : BitVec 8), n.toNat < 8 →
      let waits := maskOf ((lanesOf act).filter fun l => s.g.token n.toNat l = .pending)
      WritesPredicate (.testk d n) s act d.toNat (~~~waits) ∧
      (isMast s.cur = false →
        (waits ≠ 0 → exec (.waitk n) s = .next (s.setSl { s.sl with state := .waiting (.waitk n.toNat act) })) ∧
        (waits = 0 → ∃ t, exec (.waitk n) s = .next t ∧
          (∀ j l, l < 32 → t.g.token j l = if j = n.toNat ∧ act.getLsbD l = true then .idle else s.g.token j l) ∧ t.g.v = s.g.v ∧
          ((∀ l < 32, act.getLsbD l = true → ∀ c, s.g.token n.toNat l ≠ .error c) →
            t.sl = { s.sl.past with state := .live } ∧ t.g.fault = s.g.fault) ∧
          ∀ l c, l < 32 → act.getLsbD l = true → s.g.token n.toNat l = .error c → s.g.ended = false → s.g.fault = none →
            s.g.halted = false →
            (∀ i < l, act.getLsbD i = true → ∀ c', s.g.token n.toNat i ≠ .error c') →
            ∃ f, t.g.fault = some f ∧ f.info.cls = c ∧ f.restart = s.sl.past.pc ∧
              f.info.lanes = (if (Config.freeWord s.draws).getLsbD 0 then BitVec.twoPow 32 l
                else maskOf ((lanesOf act).filter fun i => s.g.token n.toNat i = .error c))))) ∧
    (∀ id h c r sl, s.hoist? id = some h → h.own = true → h.at_ = .answered c r → s.savedTag h.tag = none → s.senderThere h = true →
      h.req.wait = true → isMast h.place = false → s.stoppedAt h.place = false →
      let g := s.group h.place
      let x := g.slot sl
      let bit := BitVec.twoPow 32 h.req.lane
      let fail := (if c = 0 then g.shipFail else g.shipFail ||| bit) &&& x.mask
      let cls := fun l => if c ≠ 0 ∧ l = h.req.lane then c else g.shipCls.look l 0
      h.req.lane < 32 → x.mask &&& bit ≠ 0 → x.state = .waiting .shipW →
      (∀ k l, (g.slot (otherSlot sl)).state ≠ .waiting .shipW ∧ (g.slot (otherSlot sl)).state ≠ .waiting (.waitk k l)) →
      ∃ t, exec (.hoistResponseArrival id .own) s = .next t ∧
        (g.shipOut &&& ~~~bit &&& x.mask ≠ 0 → (t.group h.place).slot sl = x) ∧
        (g.shipOut &&& ~~~bit &&& x.mask = 0 →
          (fail = 0 → (t.group h.place).slot sl = { x.past with state := .live } ∧ (t.group h.place).fault = none) ∧
          ∀ l < 32, fail.getLsbD l = true → (∀ i < l, fail.getLsbD i = false) →
            ∃ f, (t.group h.place).fault = some f ∧ f.info.cls = cls l ∧ f.restart = x.pc + 4 ∧
              f.info.lanes = maskOf ((lanesOf fail).filter fun i => cls i = cls l) ∧
              (t.group h.place).slot sl = { x.past with state := .live })) ∧
    (∀ id h c r, s.hoist? id = some h → h.own = true → h.at_ = .answered c r → s.savedTag h.tag = none → s.senderThere h = true →
      (isMast h.place = true → ∀ sl k l, ((s.group h.place).slot sl).state ≠ .waiting .shipW ∧
        ((s.group h.place).slot sl).state ≠ .waiting (.waitk k l)) →
      ∃ t, exec (.hoistResponseArrival id .own) s = .next t ∧ (∀ o ∈ t.hoists, o.id ≠ id) ∧
        (c ≠ 0 → (t.group h.place).v = (s.group h.place).v) ∧
        (c = 0 → h.req.lane < 32 → ∀ n l, l < 32 → (t.group h.place).getV n l =
          if l = h.req.lane ∧ h.reg ≤ n ∧ n < h.reg + r.length ∧ n < 8 * (s.group h.place).vgran then r.getD (n - h.reg) {}
          else (s.group h.place).getV n l) ∧
        ((s.group h.place).slotA.state = .live → (s.group h.place).slotB.state = .free → h.req.wait = false →
          (t.group h.place).tokens.look (h.req.tok.toNat * 32 + h.req.lane) .idle =
            if c = 0 then .done h.home.isNone else .error c)) ∧
    ∀ id h (e : Envelope), s.hoist? id = some h → h.own = true → h.home = none → s.awayOpt h.msg = true →
      (h.at_ = .sent → h.mute = false → s.savedTag h.tag = none →
        (∀ c ws, c = 0 ∨ c = 0x0B ∨ c = 0x0C ∨ c = 0x11 → ws.length = (if c = 0 then h.req.desc.toNat / 2 ^ 57 % 8 else 0) →
          received e 6 h.peer [hoistPacket h.req (hoistResponse h.req c (ws.map (·.1)))] →
          exec (.hoistResponseArrival id (.peer e c ws)) s =
            .next (((s.tagPasses e.port).noteSeq e h.peer).endHoist h c (ws.map fun w => ⟨w.1, w.2⟩))) ∧
        (received e 7 h.peer [hoistPacket h.req [0x09]] →
          exec (.hoistResponseArrival id (.peer e 0x09 [])) s =
            .next (((s.tagPasses e.port).noteSeq e h.peer).endHoist h 0x09 []))) ∧
      (received e 7 h.peer [hoistPacket h.req [0]] → exec (.hoistAcknowledgmentArrival (e, id)) s =
        .next (((s.tagPasses e.port).noteSeq e h.peer).mapHoist id fun h => { h with acked := true }))

/-- An arriving own request takes the next seq of its home, is answered 0x0C where its lock is broken, and else joins the
queue behind every earlier one; where it goes to the ring and the ring's write fails (a cause that is open, log entry
41), the home accepts no more and F3 is told. A peer's hoist, received, waits at the gateway behind a gap and goes on
in order; one without a region is not performed (its message is the model's: log entry 64). A section starts for the
first request of the queue whose lock no running section holds, with the state of R196. SRET answers class 0 with v0
to v[nr - 1] and their poison, a peer by a message of kind 6, and frees the context, and raises FLT.OPND outside a
section. A watchdog kill answers class 0x11, marks the lock broken and frees the context. MAST_CLAIM and MAST_RELEASE
set and clear the claim. (R196, R279, R284, R286, R287, R288, R290, R292, R399, R402, R443) -/
def Obligations.SectionsRunAtTheirHome : Prop :=
  ∀ (s : State),
    let responded := fun (t : State) (h : Hoist) (c : BitVec 8) (ws : List PWord) =>
      ∀ e, h.own = false → h.env = some e → ∃ m ∈ t.outbox, m.msg.kind = 6 ∧ m.msg.dst = h.req.node ∧ m.msg.ddie = e.sdie ∧
        m.msg.packets = [{ hoistPacket h.req (hoistResponse h.req c (ws.map (·.val))) with marks := responseMarks ws }]
    (∀ id h m, s.hoist? id = some h → h.own = true → h.home = some m → h.at_ = .sent ∨ h.at_ = .heldBack → s.firstOfLock h = true →
      (s.mast m).accepts = true →
      let goesToRing := (s.mast m).isBroken h.req.lockpa = false ∧ (s.mast m).onChip = false
      (goesToRing → s.ringFails m = true →
        let u := ({ s with draws := s.draws + 1 } : State).ringFailed m
        exec (.hoistArrival (.own id)) s = .next (u.mapHoist id fun h => { h with at_ := .heldBack }) ∧ (u.mast m).stuck = true) ∧
      (¬ (goesToRing ∧ s.ringFails m = true) → ∃ t, exec (.hoistArrival (.own id)) s = .next t ∧
        (t.mast m).seq = (s.mast m).seq + 1 ∧ t.groups = s.groups ∧
        let r := { h.req with seq := ((s.mast m).seq + 1).toNat }
        ((s.mast m).isBroken h.req.lockpa = true → t.hoist? id = some { h with req := r, at_ := .answered 0x0C [] } ∧
          (t.mast m).queue = (s.mast m).queue ∧ (t.mast m).ring = (s.mast m).ring) ∧
        ((s.mast m).isBroken h.req.lockpa = false →
          (t.mast m).queue ++ (t.mast m).ring = (s.mast m).queue ++ (s.mast m).ring ++ [id] ∧
          t.hoist? id = some { h with req := r, at_ := if (s.mast m).onChip then .queued else .ring }))) ∧
    (∀ r (e : Envelope), hoistReqOk s.node r = true → e.ddie = homeOf r.lockpa / 32 → s.mayArrive e r.node = true → s.ageOf e ≤ 200 →
      s.tagOk e 5 r.node [hoistPacket r (hoistBytes { r with seq := 0 })] = true →
      (∀ h ∈ s.hoists, h.at_ ≠ .gateway ∧ h.id ≠ s.nextId) →
      let pair := gatePair r
      ∃ t, exec (.hoistArrival (.peer e r)) s = .next t ∧ t.groups = s.groups ∧
        (e.hseq ≠ s.delivered.look pair 0 → t.delivered = s.delivered ∧ ∃ h, t.hoists = s.hoists ++ [h] ∧ h.at_ = .gateway ∧
          h.own = false ∧ h.hseq = e.hseq ∧ h.req = { r with seq := 0 }) ∧
        (e.hseq = s.delivered.look pair 0 → t.delivered.look pair 0 = (e.hseq + 1) % 2 ^ 16 ∧
          (s.hoistKeyOk { r with seq := 0 } = false → t.hoists = s.hoists))) ∧
    (∀ m c id h pre post, m < 256 → c < 4 → (s.group (mastPlace m c)).live = false → s.stopped = false →
      (s.mast m).queue ++ (s.mast m).ring = pre ++ id :: post → (∀ j ∈ pre, s.lockOf j ∈ s.heldLocks m) → s.lockOf id ∉ s.heldLocks m →
      s.hoist? id = some h → ∃ t, exec (.sectionStart m c) s = .next t ∧
        let g := t.group (mastPlace m c)
        g.live = true ∧ g.tag = s.nextId ∧ g.vgran = 8 ∧ g.sect = some { hoist := id, req := h.req, own := h.own } ∧
          g.slotA = { state := .live, pc := h.req.desc.setWidth 57, mask := 1, gm := 0x04200000 } ∧ g.slotB = {} ∧
          (∀ n, (g.getV n 0).val = if n < h.req.args.length then h.req.args.getD n 0 else 0) ∧
          g.getS 0 = { val := h.req.lockva.setWidth 64 } ∧
          g.getS 1 = { val := BitVec.ofNat 64 (h.req.node.toNat * 2 ^ 24 + h.req.gkey.toNat) } ∧
          g.getS 2 = { val := BitVec.ofNat 64 h.req.lane } ∧
          g.getS 3 = { val := BitVec.ofNat 64 (h.req.desc.toNat / 2 ^ 57 % 8) } ∧ (∀ n, (g.getX n).valid = false) ∧
          t.hoist? id = some { h with at_ := .running (mastPlace m c) } ∧ t.mem = s.mem) ∧
    (∀ y, s.g.sect = some y → ∃ t, exec .sret s = .next t ∧ t.group s.cur = {} ∧
      (∀ h, s.hoist? y.hoist = some h →
        responded t h 0 ((List.range (y.req.desc.toNat / 2 ^ 57 % 8)).map fun i => s.g.getV i 0)) ∧
      ∀ h, s.hoist? y.hoist = some h → h.own = true → t.hoist? y.hoist = some { h with
        at_ := .answered 0 ((List.range (y.req.desc.toNat / 2 ^ 57 % 8)).map fun i => s.g.getV i 0) }) ∧
    (s.g.sect = none → exec .sret s = .next (s.raise opnd)) ∧
    (∀ p y, isMast p = true → (s.group p).live = true → (s.group p).sect = some y → s.stoppedAt p = false →
      ∃ t, exec (.watchdogExpiry p) s = .next t ∧ t.group p = {} ∧ (t.mast (mastOf p)).isBroken y.req.lockpa = true ∧
        (∀ h, s.hoist? y.hoist = some h → responded t h 0x11 []) ∧
        ∀ h, s.hoist? y.hoist = some h → h.own = true → y.hoist ∉ (s.mast (mastOf p)).queue ++ (s.mast (mastOf p)).ring →
          t.hoist? y.hoist = some { h with at_ := .answered 0x11 [] }) ∧
    ∀ m, s.message 7 0x55 = some m →
      let k := (msgWord m 1) / 2 ^ 5 % 8 * 32 + (msgWord m 1) % 32
      let claim := fun (b : Bool) => (s.takeMessage 7).setMast k { s.mast k with claimed := b }
      (msgWord m 1 / 2 ^ 8 % 2 = 0 → exec .mastClaim s = .next (claim true)) ∧
      (msgWord m 1 / 2 ^ 8 % 2 = 1 → exec .mastRelease s = .next (claim false))

/-- F7's messages: a halt halts the group that the tag names, or every live group of a kernel, and no other; a resume or
step of a halted group lets it go on, for a step by its one slot; a state write puts the group's record at the
address, and a read back loads the vector registers, s0 to s62, p1 to p15 and each slot's mode, where it is valid, and
condition bits, and nothing else of the group; a dump halts the live groups of its target that are not halted, writes
and reports, and lets them go on unless it is told to keep them halted. Each takes its message, and one whose tag
names nothing does no more. That a dump is taken in one step and resumes only what it halted, and that a kernel halt
matches either fused part, is the model's choice (log entry 42). (R342, R429, R441, R442, R443) -/
def Obligations.DebuggerMessages : Prop :=
  ∀ (s : State) (m : List Dword),
    let t := s.takeMessage 7
    let w := msgWord m 1
    (s.message 7 0x51 = some m →
      (∀ p, w % 2 = 0 → s.tagPlace (msgTag m) = some p → ∃ u, exec .haltGroup s = .next u ∧ (u.group p).halted = true ∧
        (u.group p).v = (s.group p).v ∧ (u.group p).slotA = (s.group p).slotA ∧ (u.group p).slotB = (s.group p).slotB ∧
        (∀ q, q ≠ p → u.group q = s.group q) ∧ u.mail 7 = t.mail 7) ∧
      (w % 2 = 0 → s.tagPlace (msgTag m) = none → exec .haltGroup s = .next t) ∧
      (w % 2 = 1 → ∃ u, exec .haltKernel s = .next u ∧
        (∀ p ∈ s.livePlaces, (s.ctx (s.group p).ctx).runs (BitVec.ofNat 32 (msgWord m 2)) = true → (u.group p).halted = true) ∧
        (∀ p, (p ∉ s.livePlaces ∨ (s.ctx (s.group p).ctx).runs (BitVec.ofNat 32 (msgWord m 2)) = false) →
          u.group p = s.group p) ∧ u.mail 7 = t.mail 7)) ∧
    (s.message 7 0x52 = some m → ∀ p, s.tagPlace (msgTag m) = some p → (s.group p).halted = true →
      (w % 2 = 0 → ∃ u, exec .resume s = .next u ∧ (u.group p).halted = false ∧ (u.group p).stepSlot = none ∧ u.mail 7 = t.mail 7) ∧
      (w % 2 = 1 → ∃ u, exec .step s = .next u ∧ (u.group p).halted = false ∧
        (u.group p).stepSlot = some (if w / 2 % 2 = 1 then .B else .A) ∧ u.mail 7 = t.mail 7)) ∧
    (∀ p, s.tagPlace (msgTag m) = some p → (s.group p).halted = true → w % 128 = 0 →
      s.physOk w (groupRecordBytes (s.group p).vgran) = true →
      (s.message 7 0x53 = some m → exec .stateWrite s = .next (t.devPuts w (s.groupRecord p))) ∧
      (s.message 7 0x54 = some m → ∃ u, exec .stateReadBack s = .next u ∧ (∀ q, q ≠ p → u.group q = s.group q) ∧ u.mem = s.mem ∧
        let g := s.group p
        let h := u.group p
        (∀ n l, n < 8 * g.vgran → l < 32 → h.getV n l = s.devWord (w + 0xA00 + 4 * (n * 32 + l))) ∧
        (∀ n < 63, h.getS n = s.devPdword (w + 0x100 + 8 * n)) ∧ h.getS 63 = g.getS 63 ∧
        (∀ n, 1 ≤ n → n < 16 → h.p.look n {} = s.devWord (w + 0xC4 + 4 * (n - 1))) ∧
        h.x = g.x ∧ h.ops = g.ops ∧ h.slotA.pc = g.slotA.pc ∧ h.slotA.mask = g.slotA.mask ∧ h.slotA.state = g.slotA.state ∧
        h.slotB.pc = g.slotB.pc ∧ h.slotB.mask = g.slotB.mask ∧ h.slotB.state = g.slotB.state ∧ h.halted = true)) ∧
    (s.message 7 0x41 = some m → 128 ≤ msgWord m 2 → w % 4096 = 0 →
      let d3 := msgWord m 3
      let queue := if d3 / 2 ^ 6 % 4 = 1 then some (d3 % 64) else none
      let ps := t.livePlaces.filter fun p => (t.dumpCtxs queue).contains (t.group p).ctx && !(t.group p).halted
      let dumped := (ps.foldl (fun s p => s.haltPlace p) t).dump w (msgWord m 2) queue
      d3 / 2 ^ 6 % 4 < 2 → exec .coreDumpRequest s =
        .next (if d3 / 2 ^ 8 % 2 = 1 then dumped else ps.foldl (fun s p => s.unhalt p none) dumped))

/-- A ready slot at a code header that is legal starts its clause once no flag that the header waits on has a count above
zero: the clause is fetched whole, in order, its lines come into their home slices, and the slot stands at its first
word; with such a flag nothing changes. While a code word on a peer's page is not admitted here, the group is held
(R147; the model's reading: log entry 55). A header that is not legal, and a clause with more than two long-latency
words or a transfer before its last word, raise FLT.CLAUSE with nothing executed. A word that names no instruction
raises FLT.ILLOP with the word as the address that R419 records, and one that breaks its row's operand rules FLT.OPND;
that a word which meets conditions of both takes FLT.ILLOP is the model's choice (log entry 62). (R18, R19, R20, R22,
R23, R66, R147, R231, R419) -/
def Obligations.ClausesStartAndWordsFail : Prop :=
  ∀ (s : State) (p : Nat) (sl : SlotId) (h : Word) (ws : List Word),
    let x := (s.group p).slot sl
    let count := h.toNat / 2 ^ 28 + 1
    let setA := h.toNat / 2 ^ 12 % 16
    let setB := h.toNat / 2 ^ 8 % 16
    let legal := (setA ≤ 11 ∨ setA = 15) ∧ (setB ≤ 11 ∨ setB = 15) ∧ h.toNat % 64 = 0
    let free := ∀ i < 12, h.toNat / 2 ^ (16 + i) % 2 = 1 → (s.group p).flags.look i 0 = 0
    let fails := fun (t : State) => exec (.clauseStart p sl) s = .next t ∧ t = (s.setGroup p ((s.group p).setSlot sl
      { x with clause := none, left := none })).raiseAt p sl (clauseFlt (x.pc.setWidth 64))
    (s.slotReady p sl = true → x.clause = none → s.targetOk p x.pc = true → fetchWord s p x.pc = .ok h →
      (∀ y, s.fetchHold p sl x.pc 1 = some y →
        exec (.clauseStart p sl) s = .next (s.setGroup p { s.group p with hold := some y })) ∧
      (s.fetchHold p sl x.pc 1 = none → ¬ legal → ∃ t, fails t) ∧
      (s.fetchHold p sl x.pc 1 = none → legal → ¬ free → exec (.clauseStart p sl) s = .next s) ∧
      (s.fetchHold p sl x.pc 1 = none → legal → free → ws.length = count →
        (∀ i < count, fetchWord s p (x.pc + 4 + BitVec.ofNat 57 (4 * i)) = .ok (ws.getD i 0)) →
        (∀ y, s.fetchHold p sl (x.pc + 4) count = some y →
          exec (.clauseStart p sl) s = .next (s.setGroup p { s.group p with hold := some y })) ∧
        (s.fetchHold p sl (x.pc + 4) count = none →
        let whole := (ws.filter wordIsLong).length ≤ 2 ∧ ∀ w ∈ ws.dropLast, wordTransfers w = false
        (whole → exec (.clauseStart p sl) s = .next ((s.touchCode p x.pc (count + 1)).setGroup p ((s.group p).setSlot sl
          { x with pc := x.pc + 4, clause := some ⟨x.pc, h, ws, 0⟩, left := none }))) ∧
        (¬ whole → ∃ t, exec (.clauseStart p sl) s = .next t ∧ t = (s.setGroup p ((s.group p).setSlot sl
          { x with clause := none, left := none })).raiseAt p sl (clauseFlt (x.pc.setWidth 64)))))) ∧
    ∀ w, (decode w = none → exec (.illegalInstructionWord w) s = .next (s.raise { cls := 0x03, addr := w.setWidth 64 })) ∧
      ∀ i, decode w = some i → operandBitsOk i = false →
        exec (.illegalInstructionWord w) s = .next (s.raise { cls := 0x06 })

/-- The context that is served places its next team or cluster at a core where it fits: a fresh team takes the lowest free
group slots (the model's choice: log entry 31), and each of its groups starts at the entry with all lanes, registers
that read zero, its own RAND seeds and its slot's next generation. A time slice that ends stops a context of the same
priority, whose requests leave the register pools and whose faults that wait for service are withdrawn. A stopping
context that is drained is written to its image and leaves the core, to be placed again. An answer for a saved group
goes to its image once it is received. A finished group's slot is freed with its generation and clock kept, and a team
with no group left frees its resources, its place on the core among them (log entry 67). The group that has been ready
longest moves into the fast file where there is room, and the one that has been evictable longest out of it where its
room is wanted (which the model takes for the rule: log entry 63). (R34, R35, R199, R202, R203, R209, R210, R211,
R215, R217, R344, R347) -/
def Obligations.TeamsPlacedSavedAndReleased : Prop :=
  ∀ (s : State),
    (∀ c x die core, s.headCtx = some (c, x) → die < 8 → core < 176 → s.stopped = false →
      let k := die * 256 + core
      s.fitsAt x k = true → exec (.teamPlacement c die core) s = .next (s.placeNext c k) ∧
        (∀ tk, x = s.ctx c → x.restore = [] → x.kernel.cw = 0 → s.freeTeam k = some tk →
          let t := s.placeNext c k
          let ps := (s.freeSlots k).take x.kernel.groups
          (t.ctx c).next = x.next + 1 ∧ (t.team tk).live = true ∧ (t.team tk).ctx = c ∧ (t.team tk).index = x.next ∧
            (t.team tk).groups = ps ∧ (t.team tk).kgran = x.kernel.kgran ∧ (t.team tk).tiles = x.kernel.tiles ∧
            (t.team tk).accs = x.kernel.accs ∧ (t.team tk).units = x.kernel.units ∧
            ∀ i < ps.length, let g := t.group (ps.getD i 0)
              g.live = true ∧ g.team = tk ∧ g.gindex = i ∧ g.ctx = c ∧ g.vgran = x.kernel.vgran ∧
              g.slotA = { state := .live, pc := x.codeva + BitVec.ofNat 57 x.kernel.entry, mask := BitVec.allOnes 32 } ∧
              g.slotB = {} ∧ (∀ r l, g.getV r l = {}) ∧ (∀ r, g.getS r = {}) ∧ (∀ r, g.p.look r {} = {}) ∧
              (∀ r, (g.getX r).valid = false) ∧
              g.rng = seedStates (x.kernel.seed ^^^ BitVec.ofNat 32 (32 * x.next + i)) ∧
              g.gk = (s.group (ps.getD i 0)).gk + 0x100000)) ∧
    (∀ c x d, s.headCtx = some (c, x) → c ≠ d → s.preemptable d = true → s.residentPrio d = x.prio → s.victim c x.prio = none →
      s.someStopping = false → s.fitsSomewhere x = false →
      let t := s.stopCtx d false
      exec (.timeSliceExpiry d) s = .next t ∧ t.ctx d = { s.ctx d with phase := .stop false } ∧
        (∀ p ∈ s.ctxPlaces d, ∀ e ∈ t.pool (coreKey p), e.1 ≠ p) ∧
        let service := fun p => p ∈ s.ctxPlaces d ∧ ∃ f, (s.group p).fault = some f ∧ f.wait = .service
        ((∀ p, service p → (s.group p).late = []) → t.mem = s.mem ∧
          ∀ p, t.group p = if service p then { s.group p with fault := none } else s.group p)) ∧
    (∀ c d, (s.ctx c).phase = .stop d → (s.ctx c).live = true → s.ctxDrained c = true → s.stopped = false →
      let r := ((s.ctxTeams c).foldl (fun s k => s.revokeTeam k) s).pushCtx c
      (∀ k ∈ r.ctxTeams c, r.zoneHeld k = false) → r.peerWrites = [] → r.ctxTeams c ≠ [] →
      exec (.checkpointImageWrite c) s = .next (r.saveCtx c d) ∧
        (d = false → ((r.saveCtx c d).ctx c).phase = .run ∧ ∀ k ∈ r.ctxTeams c, (r.saveCtx c d).team k = {})) ∧
    (∀ id ans h cls r g t, s.hoist? id = some h → s.savedTag h.tag = some g → h.own = true →
      (hoistAnswer h .own = some (cls, r) → s.hearHoist h .own = (s, some (cls, r))) ∧
      (s.hearHoist h ans = (t, some (cls, r)) →
        exec (.savedResponseRecord (.hoist id ans)) s = .next ((t.recordHoist g h cls r).forgetSaved h.tag))) ∧
    (∀ m g, s.message 0 0x21 = some m →
      s.saved.find? (fun g => g.seq = some (BitVec.ofNat 32 (msgTag m)) && g.image != 0) = some g →
      exec (.savedResponseRecord (.service (msgTag m))) s =
        .next ((((s.takeMessage 0).tellAnswer (msgTag m) (msgWord m 1 % 2 ^ 16)).recordService g (BitVec.ofNat 32 (msgTag m))
          (msgWord m 1 % 2 ^ 16)).forgetSaved g.tag)) ∧
    (∀ p, isMast p = false → s.groupFinished p = true → ∃ t, exec (.groupSlotRelease p) s = .next t ∧
      t.group p = { gk := (s.group p).gk, ctx := (s.group p).ctx, race := { wpc := (s.group p).race.wpc } } ∧ p ∉ (t.team (s.group p).team).groups ∧
      (∀ q, q ≠ p → t.group q = s.group q) ∧ t.mem = s.mem) ∧
    (∀ k, (s.team k).live = true → (s.team k).ended = true → (s.team k).groups = [] → s.zoneHeld k = false →
      exec (.scratchpadRelease k) s = .next ((s.setTeam k {}).tryFinish (s.team k).ctx) ∧
        ((s.setTeam k {}).ctxOver (s.team k).ctx = false → exec (.scratchpadRelease k) s = .next (s.setTeam k {}))) ∧
    ∀ p, let g := s.group p
      g.live = true →
      (isMast p = false → g.file = .slow → s.nextIn p = true → s.activeRoom p = true → s.fastRoom p = true →
        exec (.fileMoveStart p) s = .next (s.setGroup p { g with file := .movingIn, since := none })) ∧
      (∀ e, isMast p = false → g.file = .active → e ∈ s.filed p .slow → s.nextIn e.1 = true → (p, g) ∈ s.giveRoom e.1 →
        longest g (s.giveRoom e.1) = true →
        exec (.fileMoveStart p) s = .next (s.setGroup p { g with file := .movingOut, since := none })) ∧
      (g.file = .movingOut → exec (.groupMoveOutComplete p) s = .next (s.setGroup p { g with file := .slow })) ∧
      (g.file = .movingIn → exec (.groupMoveInComplete p) s = .next (s.setGroup p { g with file := .active }))

/-- A peer's message whose tag fails, or of a reserved kind, is dropped and counted at its port, one older than 200
microseconds discarded and counted. One received is performed packet by packet: what the gateway admits is done, so a
write of local memory puts its bytes at its address and nothing else there, and is acknowledged, a read is answered
with its data; what it refuses changes no memory and is answered 0x09. An answer goes to its unit, which it completes
where it is the last one that the hold waits for. A write-back answered is forgotten; what an answer performs counts
for the markers behind it. A fence marker waits at its gateway; its acknowledgment and a closing read's completion end
their parts of a release. An AtomicOp's success performs the lane and goes on; a refusal takes the fallback where the
region allows it, else FLT.SYSATOM with the status, 1 or 4 (PRESUMED of PCI Express: log entry 29); while another
atomic is between its lanes on the unit nothing completes. An expired message is counted at its port, and what stays
unanswered for 400 microseconds from its sending, or its discarding, fails with class 0x0B. How a message holds its
packets is the model's choice (log entry 64). (R147, R160, R392, R394, R397, R398, R399, R401, R402, R404, R405) -/
def Obligations.FabricMessagesArriveAndExpire : Prop :=
  ∀ (s : State),
    let received := fun (e : Envelope) (kind : Nat) (node : BitVec 19) (ps : List Packet) =>
      s.mayArrive e node = true ∧ s.ageOf e ≤ 200 ∧ s.tagOk e kind node ps = true
    (∀ (m : PeerMsg) r rest, m.reqs = r :: rest → oneMessage m.reqs = true → (∀ q ∈ m.reqs, peerReqOk s.node q = true) →
      let e := m.env
      let kind := peerKind r.op
      let ps := m.reqs.map peerPacket
      let l := s.link e.port
      (∀ k, r.op = .reserved k → s.tagOk e kind r.node ps = false) ∧
      (s.mayArrive e r.node = true → s.ageOf e ≤ 200 → s.tagOk e kind r.node ps = false → l.fails < 7 → l.tagfail.toNat < 65535 →
        exec (.remoteRequestArrival m) s = .next (s.setLink e.port { l with tagfail := l.tagfail + 1, fails := l.fails + 1 })) ∧
      (s.mayArrive e r.node = true → 200 < s.ageOf e → exec (.remoteRequestArrival m) s = .next (s.expireAt e.port)) ∧
      (received e kind r.node ps → exec (.remoteRequestArrival m) s =
        .next ((m.reqs.foldl (fun s r => s.serve e r) (s.tagPasses e.port)).noteSeq e r.node)) ∧
      (received e kind r.node ps → rest = [] → ∃ t, exec (.remoteRequestArrival m) s = .next t ∧ t.groups = s.groups ∧
        (t.link e.port).fails = 0 ∧
        let answered := fun (kind : Nat) (payload : List Byte) => ∃ x ∈ t.outbox, x.num = s.nextId ∧ x.msg.kind = kind ∧
          x.msg.dst = r.node ∧ x.msg.packets.map (·.payload) = [payload]
        ((∀ g, s.regionOf r.key = some g → ¬ (g.base ≤ r.addr ∧ r.addr + peerBytesOf r ≤ g.base + g.len)) →
          t.mem = s.mem ∧ answered 7 [0x09]) ∧
        ∀ g, s.regionOf r.key = some g → g.base ≤ r.addr → r.addr + peerBytesOf r ≤ g.base + g.len →
          (∀ n, r.op = .read n → t.mem = s.mem ∧
            (g.attr.getLsbD 0 = false → answered 7 [0x09]) ∧ (g.attr.getLsbD 0 = true → answered 3 (s.devRead r.addr n).1)) ∧
          ∀ data, r.op = .write data →
            (g.attr.getLsbD 1 = false → t.mem = s.mem ∧ answered 7 [0x09]) ∧
            (g.attr.getLsbD 1 = true → answered 7 [0] ∧ (r.addr + data.length ≤ 2 ^ 51 → Memory.wf s.mem = true → ∀ a,
              memRead t.mem a = if r.addr ≤ a ∧ a < r.addr + data.length then data.getD (a - r.addr) 0 else memRead s.mem a)))) ∧
    (∀ p i (a : RemAns) h u n k b (e : Envelope), a ≠ .link → (s.group p).hold = some h → h.units[i]? = some u → u.loc = .peer n k b →
      s.awayOpt u.msg = true → u.waits = true → u.answer = none → h.sequenced = false → s.answerOk h u a = true →
      received e (carriedBy a).1 n [{ addr := b, key := k, gkey := placeKey p (s.group p), payload := (carriedBy a).2 }] →
      let y := h.answer i a
      exec (.remoteAnswer (.unit p i) (e, a)) s = .next (((s.tagPasses e.port).noteSeq e n).asHeld p h fun s =>
        if y.complete then s.performMem y else s.setG { s.g with hold := some y })) ∧
    (∀ id w (e : Envelope), s.peerWrites.find? (fun w => w.id = id) = some w → s.awayOpt w.msg = true →
      (received e 7 w.node [{ addr := w.addr, key := w.key, payload := [0] }] → exec (.remoteAnswer (.wb id) (e, .ack)) s =
        .next { (s.tagPasses e.port).noteSeq e w.node with peerWrites := s.peerWrites.filter fun x => x.id != w.id }) ∧
      (received e 7 w.node [{ addr := w.addr, key := w.key, payload := [0x09] }] →
        exec (.remoteAnswer (.wb id) (e, .rkey)) s = .next (((s.tagPasses e.port).noteSeq e w.node).orphanWrite w 0x09))) ∧
    (∀ node key (e : Envelope), received e 8 node [markerPacket key []] → exec (.fenceMarkerArrival node key e) s =
      .next { s.tagPasses e.port with marks := s.marks ++ [{ env := e, node := node, gkey := key }] }) ∧
    (∀ p r, (s.group p).rel = some r →
      (∀ node (e : Envelope) num, (node, e.sdie, num) ∈ r.msgs → s.away num = true →
        received e 7 node [markerPacket (placeKey p (s.group p)) [0]] →
        ∃ t, exec (.fenceMarkerAckArrival (e, node) p) s = .next t ∧
          (t.group p).rel = (let left := r.msgs.filter fun m => !(m.1 = node && m.2.1 = e.sdie)
            let q := { r with msgs := left, nodes := r.nodes.filter fun n => n != node || left.any (·.1 = node) }
            if q.nodes = [] ∧ q.ports = [] then none else some q) ∧ (t.group p).relNodes = (s.group p).relNodes ∧ t.mem = s.mem) ∧
      ∀ port, s.pcieDown.look port false = false → ∃ t, exec (.releaseReadCompletion p port) s = .next t ∧
        (t.group p).rel = (let q := { r with ports := r.ports.filter (· != port) }
          if q.nodes = [] ∧ q.ports = [] then none else some q) ∧ t.mem = s.mem) ∧
    (∀ p h u op d ret ty, (s.group p).hold = some h → h.atomicOut = some u → atomOf h.instr = some (op, d, ret) →
      atomTy (if (s.group p).ended then h.saved else (s.group p).slot h.slot).gm op = some ty →
      (∀ st, s.mustYield p h = true → exec (.hostAtomicopCompletion p st) s = .next s) ∧
      (s.mustYield p h = false → exec (.hostAtomicopCompletion p .success) s = .next (s.asHeld p h fun s =>
        let r := s.atomUnit p s.sl.pc .s op ty u
        r.1.nextSeq h (.data r.2))) ∧
      ∀ st code, s.mustYield p h = false → (st = .unsupported ∧ code = 1 ∨ st = .abort ∧ code = 4) →
        (s.fallbackAt u.loc.key = false → exec (.hostAtomicopCompletion p st) s =
          .next (s.asHeld p h fun s => s.stopSeq h h.done { cls := 0x0D, hcode := code })) ∧
        (s.fallbackAt u.loc.key = true → ∃ t, exec (.hostAtomicopCompletion p st) s = .next t ∧ t.hr.call = s.hr.call + 1 ∧
          ∃ k, (t.group p).hold = some k ∧ k.fall = some s.hr.call ∧ k.status = code ∧ k.done = h.done)) ∧
    (∀ m x, (∀ id, m ≠ .response id) → s.outbox.find? (fun x => (s.messagesOf m).contains x.num && s.olderThan 200 x.num) = some x →
      let t := s.mapOut x.num fun x => { x with gone := true, left := if x.sent then x.left else s.ftime }
      exec (.messageExpiry m) s = .next (if x.port < 16 then t.expireAt x.port else t) ∧
        (x.port < 16 → ((t.expireAt x.port).link x.port).expired =
          if (s.link x.port).expired = BitVec.allOnes 16 then BitVec.allOnes 16 else (s.link x.port).expired + 1)) ∧
    (∀ id h, s.hoist? id = some h → h.abroad = true → h.mute = false → s.routeTo h.peer < 16 → 200 < s.ftime →
      exec (.messageExpiry (.response id)) s =
        .next ((s.mapHoist id fun h => { h with mute := true }).expireAt (s.routeTo h.peer))) ∧
    (∀ id x, s.xfer? id = some x → s.unanswered (.xfer id) = true → exec (.ackTimeout (.xfer id)) s = .next (s.failXfer x 0x0B)) ∧
    (∀ p u, s.unanswered (.unit p u) = true → exec (.ackTimeout (.unit p u)) s = .next (s.answerUnit p u .link)) ∧
    (∀ id h, s.hoist? id = some h → h.abroad = true → h.acked = false → s.savedTag h.tag = none → s.unanswered (.hoist id) = true →
      exec (.ackTimeout (.hoist id)) s = .next (s.endHoist h 0x0B [])) ∧
    (∀ p id o r desc target key, (s.group p).op? id = some o → o.kind = .lzres r desc target key none →
      target.toNat / 2 ^ 24 % 2 ^ 19 ≠ s.node.toNat → s.unanswered (.reserve p id) = true →
      exec (.ackTimeout (.reserve p id)) s = .next (s.endWith p o r (BitVec.ofNat 64 (0x0B * 2 ^ 56)))) ∧
    (∀ id w, s.peerWrites.find? (fun w => w.id = id) = some w → s.unanswered (.wb id) = true →
      exec (.ackTimeout (.wb id)) s = .next (s.orphanWrite w 0x0B)) ∧
    (∀ m, s.unanswered m = true ↔ ∃ x ∈ s.outbox, x.num ∈ s.messagesOf m ∧ (x.sent = true ∨ x.gone = true) ∧ x.left + 400 ≤ s.ftime) ∧
    ∀ port node h, s.hoists.find? (fun h => h.at_ = .gateway && h.port = port && h.req.node = node) = some h →
      exec (.hseqGapTimeout port node) s = .next (s.passGap (gatePair h.req))

/-- A Kolgon port that goes down is lost and no longer up, and the others stay as they are; one that comes up is up with
no failed tags in a row. A UCIe link failure is reported with kind 7, which stops the package. A PCI Express port that
goes down fails the transfer operations that use it and is down; it comes up again. An L1 eviction of some words of a
line pushes the dirty ones to memory, and they are gone; an L2 write-back leaves the line's words valid and clean with
the same values and ends its admissions, host words in host memory, a peer's each in a write-back that awaits its
answer, under the key admitted last (the model's reading: log entry 53) and a message a word (log entry 64); an L2
eviction does so and leaves none of them, and a word of local memory that was not dirty is as poisoned as its DRAM has
it. (R147, R231, R395, R396, R400, R404, R427) -/
def Obligations.PortsLostAndLinesEvicted : Prop :=
  ∀ (s : State),
    (∀ port, port < 16 →
      ((s.link port).up = true → ∃ t, exec (.linkDown port) s = .next t ∧ (t.link port).up = false ∧ (t.link port).lost = true ∧
        ∀ q, q ≠ port → t.link q = s.link q) ∧
      ((s.link port).up = false → exec (.linkUp port) s = .next (s.setLink port { s.link port with up := true, fails := 0 }))) ∧
    (∀ a b, a < 8 → b < 8 → a ≠ b → exec (.ucieLinkFailure a b) s = .next (s.report 7 a [1]) ∧ (s.report 7 a [1]).stopped = true) ∧
    (∀ port, port < 2 → (s.pcieDown.look port false = false → ∃ t, exec (.pciePortDown port) s = .next t ∧
        t.pcieDown.look port false = true ∧ ∀ x ∈ s.xfers, s.usesPort port x = true → ∀ y ∈ t.xfers, y.id ≠ x.id) ∧
      (s.pcieDown.look port false = true →
        exec (.pciePortUp port) s = .next { s with pcieDown := s.pcieDown.put port false })) ∧
    (∀ core line (mask : Word), (∃ e ∈ s.l1.look core [], e.1 / 32 = line) → ∃ t, exec (.l1Eviction core (line, mask)) s = .next t ∧
      let goes := fun (w : Nat) => w / 32 = line ∧ mask.getLsbD (w % 32) = true
      (∀ w, goes w → t.l1Word core w = {}) ∧ (∀ w, ¬ goes w → t.l1Word core w = s.l1Word core w) ∧
      t.groups = s.groups ∧ (Memory.wf s.mem = true → ∀ w, t.memWord w =
        if goes w ∧ (s.l1Word core w).dirty = true then ⟨(s.l1Word core w).val, (s.l1Word core w).poison⟩
        else s.memWord w)) ∧
    ∀ line,
      let l := s.l2line.look line {}
      let dirty := ((List.range 32).filter fun i => l.dirty.getLsbD i).map (line * 32 + ·)
      let pushed := fun (t : State) =>
        (Memory.wf s.mem = true → ∀ w, (t.memWord w).val =
          if isHostPa (128 * line) = true ∧ w ∈ dirty then (s.l2Word w).val else (s.memWord w).val) ∧
        ((∀ e ∈ s.dramPoison, e.1 / 32 ≠ line) → ∀ w, (t.memWord w).poison =
          if isHostPa (128 * line) = true ∧ w ∈ dirty then (s.l2Word w).poison else (s.memWord w).poison) ∧
        (t.peerWrites.map fun w => (w.node, w.key, w.addr, w.data)) =
          (s.peerWrites.map fun w => (w.node, w.key, w.addr, w.data)) ++ (if 2 ^ 53 ≤ 128 * line then dirty.map fun w =>
            (BitVec.ofNat 19 ((4 * w - 2 ^ 53) / 2 ^ 52), l.keys.headD 0, (4 * w - 2 ^ 53) % 2 ^ 52, bytesOf 4 (s.l2Word w).val.toNat)
          else []) ∧ t.l1 = s.l1 ∧ t.groups = s.groups
      (l.dirty ≠ 0 → ∃ t, exec (.l2WriteBack line) s = .next t ∧ pushed t ∧
        (∀ w, t.l2Word w = if w / 32 = line then { s.l2Word w with dirty := false } else s.l2Word w) ∧
        (t.l2line.look line {}).keys = []) ∧
      ∃ t, exec (.l2Eviction line) s = .next t ∧ pushed t ∧ (∀ w, t.l2Word w = if w / 32 = line then {} else s.l2Word w) ∧
        ∀ w b, isFar (128 * line) = false → w / 32 = line → w ∉ dirty → (w, b) ∈ s.dramPoison → (∀ c, (w, c) ∈ s.dramPoison → c = b) →
          (t.memWord w).poison = b

/-- Of a served queue: the look-ahead stage reads the next ring command, and one that cannot be processed halts the queue
at its head with its code. SIGNAL writes or adds its value and moves on; WAIT moves on where its test holds, with an
acquire for later launches, and else waits until it does; CALL enters its buffer, in the ring with the head left at
it; RETURN leaves the buffer, and from the outermost moves the head; JOIN lets the look-ahead stage go on; FENCE waits
until every launch of the queue is complete, and is an acquire for later launches as WAIT is (the model's reading: log
entry 35). (R331, R333, R334, R336, R337) -/
def Obligations.QueueCommandsInOrder : Prop :=
  ∀ (s : State),
    (∀ p, p < 64 → s.stopped = false → let y := s.queue p
      y.served = true → y.cmds = [] → y.calls = [] → y.aheadCalls = [] → y.joined = false → y.stuck = false →
      0 < (y.tail - y.head).toNat → (y.tail - y.head).toNat ≤ y.count → (y.ahead - y.head).toNat < (y.tail - y.head).toNat →
      let n := s.readCmd (y.place y.ahead)
      let got : Queue := { y with ahead := y.ahead + 1, cmds := [n] }
      (s.cmdCode n 0 = 0 → n.op ≠ 4 → n.op ≠ 6 → exec (.lookaheadRead p) s = .next (s.setQueue p got)) ∧
      (s.cmdCode n 0 = 0 → n.op = 4 →
        exec (.lookaheadRead p) s = .next (s.setQueue p { got with aheadCalls := [(n.d 1, n.d 2)] })) ∧
      (s.cmdCode n 0 = 0 → n.op = 6 → exec (.lookaheadRead p) s = .next (s.setQueue p { got with joined := true })) ∧
      (s.cmdCode n 0 ≠ 0 → ∃ t, exec (.lookaheadRead p) s = .next t ∧ (t.queue p).head = y.head ∧ (t.queue p).cmds = [] ∧
        (t.queue p).stat = BitVec.ofNat 64 (s.cmdCode n 0 * 2 ^ 56 + y.head.toNat))) ∧
    ∀ (q : Nat) (c : Cmd) (rest : List Cmd),
    let x := s.queue q
    q < 64 → x.served = true → s.stopped = false → x.cmds = c :: rest → s.cmdCode c x.calls.length = 0 →
      let local_ := c.d 1 % 8 = 0 ∧ c.d 1 + 8 ≤ 2 ^ 50 ∧ Memory.wf s.mem = true
      let put := fun (t : State) (v : Nat) => ∀ a, memRead t.mem a =
        if c.d 1 ≤ a ∧ a < c.d 1 + 8 then BitVec.ofNat 8 (v / 256 ^ (a - c.d 1)) else memRead s.mem a
      let popped : Queue := { x with cmds := rest, waiting := false }
      let pop := match x.calls with
        | [] => { popped with head := x.head + 1 }
        | (a, n) :: r => { popped with calls := (a + 64, n - 1) :: r }
      let past_ := { pop with acq := true }
      let test := s.readable (c.d 1) 8 = true ∧
        (if bitOf (c.d 0) 8 then s.devNat (c.d 1) 8 = c.d 2 else c.d 2 ≤ s.devNat (c.d 1) 8)
      (x.waiting = false →
        (c.op = 2 → c.flag = false → ∃ t, exec (.signalWrite q) s = .next t ∧ t.queue q = pop ∧ t.groups = s.groups ∧
          (local_ → put t (c.d 2))) ∧
        (c.op = 2 → c.flag = true → ∃ t, exec (.signalAdd q) s = .next t ∧ t.queue q = pop ∧ t.groups = s.groups ∧
          (local_ → put t (ofBytes (s.bytes (c.d 1) 8) + c.d 2))) ∧
        (c.op = 3 → c.flag = false → (test → exec (.waitGe q) s = .next (s.setQueue q past_)) ∧
          (¬ test → exec (.waitGe q) s = .next (s.setQueue q { x with waiting := true }))) ∧
        (c.op = 3 → c.flag = true → (test → exec (.waitEq q) s = .next (s.setQueue q past_)) ∧
          (¬ test → exec (.waitEq q) s = .next (s.setQueue q { x with waiting := true }))) ∧
        (c.op = 4 → (x.calls = [] → exec (.queueCall q) s = .next (s.setQueue q { x with cmds := rest, calls := [(c.d 1, c.d 2)] })) ∧
          (x.calls ≠ [] → exec (.queueCall q) s = .next (s.setQueue q { pop with calls := (c.d 1, c.d 2) :: pop.calls }))) ∧
        (c.op = 5 → ∀ e r, x.calls = e :: r → exec (.queueReturn q) s = .next (s.setQueue q
          { x with cmds := rest, calls := r, head := if r = [] then x.head + 1 else x.head })) ∧
        (c.op = 6 → exec (.queueJoin q) s = .next (s.setQueue q { pop with joined := false })) ∧
        (c.op = 7 → exec (.queueFence q) s = .next (s.setQueue q (if x.jobs = 0 then past_ else { x with waiting := true })))) ∧
      (x.waiting = true →
        (c.op = 3 → (test → exec (.waitSatisfied q) s = .next (s.setQueue q past_)) ∧
          (¬ test → exec (.waitSatisfied q) s = .next s)) ∧
        (c.op = 7 → exec (.queueFenceDone q) s = .next (if x.jobs = 0 then s.setQueue q past_ else s)))

/-- A launch with no room for a context, or whose image still waits for answers, waits; another that is no producer
creates a context of its image with the queue's priority and marks the image running, or is refused with its cause in
its record, and the queue moves on either way; a producer is considered with its successor. PRIO changes the queue's
priority and that of its contexts with unplaced teams. REGION registers a free range under a key of a free tag and the
generation that the tag has come to, or writes its status; a region of the host's keeps the key 0 (both the model's
choice: log entry 37). REVOKE removes the region, whose tag's generation advances by 1 modulo 256, and moves on once
no admitted hoist of its key is left: it waits for nothing else (the model's reading: log entry 36). DESTROY discards
the target's commands, stops its service, and its contexts place no further team; with its flag they are saved. That
DESTROY moves the target's head to its tail is log entry 36 too. (R333, R335, R339, R347, R348, R361, R391, R393,
R394) -/
def Obligations.LaunchesRegionsAndDestruction : Prop :=
  ∀ (s : State) (q : Nat) (c : Cmd) (rest : List Cmd),
    let x := s.queue q
    q < 64 → x.served = true → s.stopped = false → x.cmds = c :: rest → s.cmdCode c x.calls.length = 0 →
      (c.op = 1 → ∀ i, (x.waiting = false ∧ i = Instr.launch q) ∨ (x.waiting = true ∧ i = Instr.launchWaitResume q) →
        exec i s = .next (s.launch q c) ∧
        ((s.ctxRoom q = false ∨ s.imgPending (c.d 1) = true) → exec i s = .next (s.setQueue q { x with waiting := true })) ∧
        (s.ctxRoom q = true → s.imgPending (c.d 1) = false → bitOf (s.imgRole (c.d 1)) 0 = false →
          let cause := s.launchCause (c.d 1) (c.d 2)
          (cause ≠ 0 → exec i s = .next ((s.putRecord (c.d 3) (BitVec.ofNat 64 (c.d 4)) 0 0 0 1 cause).popCmd q)) ∧
          (cause = 0 → ∃ t, exec i s = .next t ∧ t.launches = s.launches + 1 ∧ (t.queue q).jobs = x.jobs + 1 ∧
            (t.queue q).cmds = rest ∧ t.groups = s.groups ∧
            let y := t.ctx s.launches
            y.live = true ∧ y.queue = q ∧ y.kernel = s.imgKernel (c.d 1) ∧ y.image = c.d 1 ∧ y.cap = c.d 2 ∧ y.record = c.d 3 ∧
              y.value = BitVec.ofNat 64 (c.d 4) ∧ y.prio = x.prio ∧ y.phase = .run ∧ y.fused = false ∧
              y.next = s.imgDword (c.d 1) 0x48 ∧ y.restore = s.imgTeams (c.d 1)))) ∧
      (x.waiting = false →
        (c.op = 8 → exec (.prio q) s = .next ((s.setPrio q (c.d 0 / 2 ^ 16 % 8)).popCmd q) ∧
          ((s.setPrio q (c.d 0 / 2 ^ 16 % 8)).queue q).prio = c.d 0 / 2 ^ 16 % 8) ∧
        (c.op = 9 → ∀ tag gen,
          let st := s.regionStatus (c.d 1) (c.d 2) (c.d 3)
          let r : Region := { base := c.d 1, len := c.d 2, attr := BitVec.ofNat 5 (c.d 3), key := gen ++ tag }
          (st ≠ 0 → exec (.region q tag gen) s = .next ((s.putDword (c.d 4) (BitVec.ofNat 64 (st * 2 ^ 56))).popCmd q)) ∧
          (st = 0 → bitOf (c.d 3) 4 = true → exec (.region q tag gen) s =
            .next ((({ s with regions := s.regions ++ [{ r with key := 0 }] }).putDword (c.d 4) 0).popCmd q)) ∧
          (st = 0 → bitOf (c.d 3) 4 = false → s.tagFree tag = true → gen = s.genOf tag → exec (.region q tag gen) s =
            .next ((({ s with regions := s.regions ++ [r] }).putDword (c.d 4) (r.key.setWidth 64)).popCmd q))) ∧
        (c.op = 0x0A →
          let key := BitVec.ofNat 32 (c.d 0 / 2 ^ 16 % 2 ^ 32)
          let t : State := { s.advanceTag key with regions := s.regions.filter fun r => r.attr.getLsbD 4 || r.key != key }
          (∀ tag, t.genOf tag = if tag.toNat = key.toNat % 2 ^ 24 ∧ (∃ r ∈ s.regions, r.attr.getLsbD 4 = false ∧ r.key = key) then
            BitVec.ofNat 8 (key.toNat / 2 ^ 24) + 1 else s.genOf tag) ∧
          ((∀ h ∈ s.hoists, h.own = true ∨ h.req.key ≠ key) → exec (.revoke q) s = .next (t.popCmd q)) ∧
          (¬ (∀ h ∈ s.hoists, h.own = true ∨ h.req.key ≠ key) → exec (.revoke q) s = .next t)) ∧
        (c.op = 0x0B →
          let k := c.d 0 / 2 ^ 16 % 64
          let u := (s.popCmd q).stopQueue k
          let ends := fun (t : State) => (t.queue k).head = (s.queue k).tail ∧ (t.queue k).cmds = [] ∧
            (t.queue k).served = false ∧ ∀ e ∈ s.queueCtxs k, (t.ctx e.1).stopped = true
          (c.flag = false → ∃ t, exec (.destroy q) s = .next t ∧ ends t ∧
            t = (u.queueCtxs k).foldl (fun s e => s.destroyCtx e.1) u) ∧
          (c.flag = true → ∃ t, exec (.destroySave q) s = .next t ∧ ends t ∧
            t = (u.queueCtxs k).foldl (fun s e => s.destroySaveCtx e.1) u)))

/-- A service answer of code 0 writes the answer words to v0 to v3 of the call's lanes and its slot goes on at the next
word; another code makes the call FLT.TRAP with that code; an answer of a fallback call completes its lane; one for an
ended group is an orphaned completion, and one for no call is discarded. A disposition of a group that awaits one
resumes it without its fault, or ends it. F2 takes a fault message, and a waiting group's page once (a group that
joins a deferred page notes its cause), decides about a page whose work is new or may be retried, which a hint message
can bring to it, and carries out its verdict: refused faults become final, and a page mapped in place is marked
present. A residency request that is first in F2's mailbox is taken, and its page comes to F2 if it is still absent.
The model has F2 decide by what its events bring, and take a merged page and hints so (log entry 40). (R130, R155,
R351, R354, R355, R387, R388, R389, R405, R408, R422) -/
def Obligations.ServicesDispositionsAndPages : Prop :=
  ∀ (s : State) (m : List Dword),
    (s.message 0 0x21 = some m →
      let code := msgWord m 1 % 2 ^ 16
      let took := s.takeMessage 0
      let t := took.tellAnswer (msgTag m) code
      (∀ p v, s.serviceOf (msgTag m) = some (p, v) → (s.group p).service = some v →
        exec .serviceAnswer s = .next (t.answerService p v code) ∧
        ((s.group p).fault = none → (s.group p).halted = false → (s.group p).ended = false →
          (code = 0 → ((t.answerService p v code).group p).service = none ∧
            (((t.answerService p v code).group p).slot v.slot = { ((s.group p).slot v.slot).past with state := .live }) ∧
            ∀ r l, l < 32 → ((t.answerService p v code).group p).getV r l =
              if r < 4 ∧ v.lanes.getLsbD l = true then (t.ringAnswers v).look (4 * l + r) {} else (s.group p).getV r l) ∧
          (code ≠ 0 → isMast p = false → ∃ f, ((t.answerService p v code).group p).fault = some f ∧ f.info.cls = 0x12 ∧
            f.info.num = v.n ∧ f.info.hcode = BitVec.ofNat 16 code))) ∧
      (s.serviceOf (msgTag m) = none →
        (∀ p h, s.fallbackOf (msgTag m) = some (p, h) → exec .serviceAnswer s = .next (took.answerFallback p h code)) ∧
        (s.fallbackOf (msgTag m) = none →
          (∀ g, s.saved.find? (fun g => g.seq = some (BitVec.ofNat 32 (msgTag m))) = some g → g.image = 0 →
            exec .serviceAnswer s = .next (({ t with saved := s.saved.filter fun x => x.tag != g.tag } : State).orphan
              g.record g.key (if code = 0 then 0 else 0x12) 3 0)) ∧
          (s.saved.find? (fun g => g.seq = some (BitVec.ofNat 32 (msgTag m))) = none →
            exec .serviceAnswer s = .next took)))) ∧
    (s.message 3 0x31 = some m → ∀ p, s.awaiting (msgTag m) = some p →
      let t := s.takeMessage 3
      (msgWord m 1 % 2 = 0 → exec .dispositionResume s = .next ((t.setGroup p { s.group p with fault := none }).resumeGroup p) ∧
        ((s.group p).service = none → (s.group p).late = [] → (s.group p).slotA.state = .live → (s.group p).slotB.state = .free →
          ∃ u, exec .dispositionResume s = .next u ∧ u.group p = ({ s.group p with fault := none } : Group).forget ∧
            (∀ q, q ≠ p → u.group q = s.group q) ∧ u.mem = s.mem)) ∧
      (msgWord m 1 % 2 = 1 → ∃ u, exec .dispositionEnd s = .next u ∧ u = t.abortGroup p ∧ (u.group p).ended = true ∧
        (u.group p).fault = none ∧ (u.group p).slotA.state = .free ∧ (u.group p).slotB.state = .free)) ∧
    (∀ p f, (s.group p).fault = some f → f.wait = .service → s.faultTold p = true →
      let t := s.takeMessage 2
      let b := s.pageBase f.info.addr.toNat
      (s.pageWork b = none → exec (.pageFaultService p) s = .next { t with work := s.work ++ [{ va := b }] }) ∧
      ∀ w, s.pageWork b = some w → (w.deferred = false → exec (.pageFaultService p) s = .next t) ∧
        (w.deferred = true → exec (.pageFaultService p) s = .next (t.noteDefer p w.cause false))) ∧
    (∀ va plan msg,
      let b := s.pageBase va.toNat
      s.told 2 .hint = some msg → s.pageBase (msgWord msg 1) = b → (∃ e, walk s b.toNat = .present e) → s.pageWork b = none →
      exec (.migrationDecision va plan) s = .next (({ s.takeMessage 2 with
        hints := s.hints.filter fun h => h.toNat != msgWord msg 1, work := s.work ++ [{ va := b }] } : State).decide b plan)) ∧
    (∀ va w plan, s.told 2 .hint = none →
      let b := s.pageBase va.toNat
      s.pageWork b = some w → w.verdict = none → (w.deferred = true → w.retry = true) →
      exec (.migrationDecision va plan) s = .next (s.decide b plan) ∧
      (walk s b.toNat = .absent none → ∃ u, (s.decide b plan).pageWork b = some u ∧ u.verdict = some .refuse)) ∧
    (∀ va ext w,
      let b := s.pageBase va.toNat
      s.pageWork b = some w →
      (w.verdict = some .refuse → ∃ u, exec (.pageFaultResolved va ext) s = .next u ∧
        ∀ p f, p ∈ s.waitingOn b → (s.group p).fault = some f → isMast p = false →
          ∃ f', (u.group p).fault = some f' ∧ f'.wait = .disposition ∧ f'.info = f.info ∧ f'.restart = f.restart) ∧
      (w.verdict = some .map → ∃ u, exec (.pageFaultResolved va ext) s = .next u ∧
        (∀ e, walk s b.toNat = .absent (some e) → u = (s.putDword e.entry (e.d0 ||| BitVec.twoPow 64 63)).resumePage b) ∧
        ((∀ e, walk s b.toNat ≠ .absent (some e)) → u = s.resumePage b)) ∧
      (∀ moved frame mbase, w.verdict = some (.copy moved frame mbase) →
        exec (.pageFaultResolved va ext) s = .next (s.carryOut b (.copy moved frame mbase) ext))) ∧
    ∀ msg, s.told 2 .residency = some msg →
      let va := BitVec.ofNat 57 (msgWord msg 1)
      let b := s.pageBase va.toNat
      let t : State := { s.takeMessage 2 with resReqs := s.resReqs.filter (· != va) }
      (∀ e, walk s va.toNat = .absent (some e) → s.pageWork b = none →
        exec .residencyRequestService s = .next { t with work := s.work ++ [{ va := b }] }) ∧
      (∀ e, walk s va.toNat = .absent (some e) → s.pageWork b ≠ none →
        exec .residencyRequestService s = .next t) ∧
      ((∀ e, walk s va.toNat ≠ .absent (some e)) → exec .residencyRequestService s = .next t)

/-- An uncorrectable error poisons what it finds (a word of a vector register, two words that a slice holds, or 32 bytes
of HBM but for what a slice holds of them) without another change of a value, and is reported as latent where nothing
consumed it; a scrub does so in the L2 or HBM; a corrected one is counted, and by itself for HBM. A sensor sample sets
SENS; from 115 degrees, or with the package above 4400 W, it stops the package. Wear gives the hours left of 87,600 by
the greatest used fraction, the HBM's from its corrected errors of 24 updates (one an hour: log entry 43). The next
scheduler that is due samples its next group, in the ring's next 32 bytes, or counts the sample as lost. A sync packet
every 4096 clocks, and the recovery of a ring from a loss. No group changes by a sensor, a sample or a packet. (R424,
R426, R432, R433, R438, R439, R450, R451) -/
def Obligations.ErrorsSensorsAndObservation : Prop :=
  ∀ (s : State),
    (∀ (e : ErrPlace) (latent : Bool),
      exec (.uncorrectableError e latent) s =
        .next (if latent = true ∧ errPoisons e = true then (s.poisonPlace e).latent e else s.poisonPlace e) ∧
      (∀ p r l, e = .vreg p r l → l < 32 → (s.poisonPlace e).mem = s.mem ∧
        ∀ n k, k < 32 → ((s.poisonPlace e).group p).getV n k =
          if n = r ∧ k = l then { (s.group p).getV n k with poison := true } else (s.group p).getV n k) ∧
      (∀ a, e = .dram a → (s.poisonPlace e).mem = s.mem ∧ (s.poisonPlace e).groups = s.groups ∧
        ∀ w, (s.poisonPlace e).wordPoison w = (if w / 8 = a / 32 ∧ (s.l2Word w).valid = false then true else s.wordPoison w) ∧
          (w / 8 = a / 32 → (s.l2Word w).valid = true → (s.l2Word w).dirty = false → (s.poisonPlace e).dramPoison.look w false = true)) ∧
      (∀ w, e = .l2 w → (s.poisonPlace e).mem = s.mem ∧ (s.poisonPlace e).groups = s.groups ∧
        ∀ v, v / 2 = w / 2 → (s.l2Word v).valid = true →
          if isFar (4 * v) = true ∨ isAperture (4 * v) = true then ((s.poisonPlace e).l2Word v).poison = true
          else (s.poisonPlace e).wordPoison v = true) ∧
      ((∃ w, e = .l2 w) ∨ (∃ a, e = .dram a) → exec (.scrub e) s = .next ((s.poisonPlace e).latent e)) ∧
      ∀ die, let x := s.power.look die.toNat {}
        let more := match e with
          | .dram a => if a < 0xC000000000 then 1 else 0
          | _ => 0
        exec (.correctedError die e) s =
          .next { s with power := s.power.put die.toNat { x with corrected := x.corrected + 1, hbm := x.hbm + more } }) ∧
    (∀ r : SensorReading, ∃ t, exec (.sensorSample r) s = .next t ∧ t.groups = s.groups ∧
      (t.power.look r.die {}).sens = BitVec.ofNat 64 (r.temp.toNat + r.power.toNat * 2 ^ 32) ∧
      (r.temp.toNat < 1840 → (r.above = false ∨ r.packagePower.toNat ≤ 4400) → t.emerg = s.emerg ∧ t.stopped = s.stopped) ∧
      (1840 ≤ r.temp.toNat ∨ r.above = true ∧ 4400 < r.packagePower.toNat → t.emerg = true ∧ (s.emerg = false → t.stopped = true))) ∧
    (∀ w : WearReading, w.rowsSpare ≠ 0 →
      let x := s.power.look w.die {}
      let u := [w.drift * 1024 / 60, w.rowsUsed * 1024 / w.rowsSpare, (x.hbm - x.daily.getD 23 0) * 1024 / 10000, ((40 - w.margin) * 1024 / 40).toNat].map
        fun f => min f 1024
      ∃ t k, exec (.wearUpdate w) s = .next t ∧ k < 4 ∧ (∀ j < 4, u.getD j 0 ≤ u.getD k 0) ∧ (∀ j < k, u.getD j 0 < u.getD k 0) ∧
        t = { s with power := s.power.put w.die { x with
          daily := (x.hbm :: x.daily).take 24
          wear := BitVec.ofNat 64 (87600 * (1024 - u.getD k 0) / 1024 * 2 ^ 32 + k * 2 ^ 24) } }) ∧
    (∀ core k m i, k < 4 → s.clock.toNat % 2 ^ (s.samp.ctl.toNat / 2 ^ 58 % 32) = 0 → s.nextSampler = some (core * 4 + k) →
      s.sampled core k = some i →
      let full := (s.samp.tail - s.samp.head).toNat = 2 ^ (6 + s.samp.ctl.toNat / 2 ^ 52 % 16)
      ∃ t, exec (.pcSample core k m) s = .next t ∧ t.groups = s.groups ∧ t.samp.last = s.samp.last.put (core * 4 + k) i ∧
        (s.samp.ctl.getLsbD 63 = true → ¬ full → t.samp.tail = s.samp.tail + 1 ∧ t.samp.lost = s.samp.lost ∧
          let at_ := s.samp.ctl.toNat / 2 ^ 12 % 2 ^ 40 * 2 ^ 12 + 32 * (s.samp.tail.toNat % 2 ^ (6 + s.samp.ctl.toNat / 2 ^ 52 % 16))
          ∀ j, (j < at_ ∨ at_ + 32 ≤ j) → memRead t.mem j = memRead s.mem j) ∧
        (s.samp.ctl.getLsbD 63 = false ∨ full → t.samp.tail = s.samp.tail ∧ t.samp.lost = satAdd s.samp.lost 1 ∧ t.mem = s.mem)) ∧
    ∀ die, die < 8 →
      let r := s.ring die
      (r.ctl.getLsbD 63 = true → s.clock.toNat % 4096 = 0 → r.synced ≠ some s.clock → exec (.traceSync die) s =
        .next (({ s with trace := s.trace.put die { r with synced := some s.clock } } : State).packetNow die 1 0 0 0 s.clock.toNat)) ∧
      (r.ctl.getLsbD 63 = false ∨ s.clock.toNat % 4096 ≠ 0 ∨ r.synced = some s.clock → exec (.traceSync die) s = .next s) ∧
      (r.ctl.getLsbD 63 = true → r.drops ≠ 0 → 2 ≤ r.room → ∃ t, exec (.traceLossRecovery die) s = .next t ∧
        (t.ring die).drops = 0 ∧ (t.ring die).tail = r.tail + 2 ∧ t.groups = s.groups)

/-- QCTL takes a size of at most 10, not changed while enabled, once PTROOT has been enabled after bring-up; QTAIL takes
32 bits; a cleared QSTAT error lets the queue go on; the splice buffer is not changed while a fused context is live.
MBIN3 commits a message of the host with src 9, after those that are there, is discarded with hbad for F1, F2 and F4,
with hovf for a full mailbox, and where its type is 0 or, until the firmware is loaded, for another function than F5.
A window is enabled once its fields pass the checks in their order, else FWSTAT says which failed; it is disabled once
what it decodes is written. Which writes come early, which causes a window's bad fields have, and that a write with en
= 0 which changes another field is refused, are the model's readings (log entries 38, 39 and 66). MASTRING is refused
while the ring holds requests or for a bad place; MASTCLR clears one mark or all. A refused write changes nothing but
what it reports. (R234, R293, R299, R331, R333, R351, R352, R353, R358, R364) -/
def Obligations.QueueMailboxAndWindowRegisters : Prop :=
  ∀ (s : State) (v : Dword),
    let n := v.toNat
    (∀ q : BitVec 6,
      let x := s.queue q.toNat
      let size := n / 2 ^ 52 % 16
      let ok := s.bootReady = true ∧ s.begun.root = true ∧ size ≤ 10 ∧ (x.ctl.getLsbD 63 = true → size = x.ctl.toNat / 2 ^ 52 % 16)
      let ctl := BitVec.ofNat 64 (n / 2 ^ 63 * 2 ^ 63 + n / 2 ^ 56 % 8 * 2 ^ 56 + size * 2 ^ 52 + n / 2 ^ 32 % 2 ^ 16 * 2 ^ 32)
      (ok → ∃ t, exec (.qctlWrite q v) s = .next t ∧ t = (s.setQueue q.toNat { x with ctl := ctl }).setPrio q.toNat (n / 2 ^ 56 % 8) ∧
        (t.queue q.toNat).ctl = ctl) ∧
      (¬ ok → exec (.qctlWrite q v) s = .next s) ∧
      exec (.qtailWrite q v) s = .next (s.setQueue q.toNat { x with tail := v.setWidth 32 }) ∧
      (let y : Queue := { x with stat := x.stat &&& ~~~(BitVec.ofNat 64 (n / 2 ^ 56 * 2 ^ 56)) }
       exec (.qstatWrite q v) s = .next (s.setQueue q.toNat (if x.err ≠ 0 ∧ y.err = 0 then y.restart else y))) ∧
      (s.fusedLive q.toNat = true → ∀ hi, exec (.qspbufWrite q hi v) s = .next s) ∧
      (s.fusedLive q.toNat = false →
        exec (.qspbufWrite q true v) s = .next (s.setQueue q.toNat { x with spbuf1 := BitVec.ofNat 64 (n / 2 ^ 16 % 2 ^ 41 * 2 ^ 16) }) ∧
        (v.getLsbD 63 = true → n / 2 ^ 52 % 2 ^ 11 = 0 → exec (.qspbufWrite q false v) s = .next s) ∧
        (v.getLsbD 63 = false ∨ n / 2 ^ 52 % 2 ^ 11 ≠ 0 → ∃ t, exec (.qspbufWrite q false v) s = .next t ∧
          t.queue q.toNat = { x with spbuf0 := BitVec.ofNat 64 (n / 2 ^ 16 * 2 ^ 16 % 2 ^ 52 + n / 2 ^ 52 * 2 ^ 52) }))) ∧
    (∀ f : BitVec 3,
      let m := s.mail f.toNat
      let d0 := BitVec.ofNat 64 (m.in0.toNat / 2 ^ 56 * 2 ^ 56 + 9 * 2 ^ 52 + m.in0.toNat % 2 ^ 52)
      (f = 1 ∨ f = 2 ∨ f = 4 → exec (.mbin3Write f v) s = .next (s.setMail f.toNat { m with hbad := true })) ∧
      (f ≠ 1 → f ≠ 2 → f ≠ 4 → f ≠ 5 → s.bootLoaded = false → exec (.mbin3Write f v) s = .next s) ∧
      (f ≠ 1 → f ≠ 2 → f ≠ 4 → s.bootLoaded = true ∨ f = 5 →
        (64 ≤ m.msgs.length → exec (.mbin3Write f v) s = .next (s.setMail f.toNat { m with hovf := true })) ∧
        (m.msgs.length < 64 → m.in0.toNat / 2 ^ 56 = 0 → exec (.mbin3Write f v) s = .next s) ∧
        (m.msgs.length < 64 → m.in0.toNat / 2 ^ 56 ≠ 0 → (∀ x ∈ m.late, x ≤ hostSource) →
          ∃ t, exec (.mbin3Write f v) s = .next t ∧ (t.mail f.toNat).msgs = m.msgs ++ [[d0, m.in1, m.in2, v]] ∧
            (∀ k, k ≠ f.toNat → t.mail k = s.mail k) ∧ t.groups = s.groups))) ∧
    (∀ w : BitVec 4,
      let x := s.window w.toNat
      let y := x.set 0 v
      let refused := fun (c : Nat) => ({ s with fwstat := BitVec.ofNat 64 (w.toNat * 2 ^ 12 + c) } : State)
      (v.getLsbD 63 = true →
        (winOk x = true → exec (.fwinEnable w v) s = .next (refused 6)) ∧
        (winOk x = false → s.windowCause w.toNat y ≠ 0 → exec (.fwinEnable w v) s = .next (refused (s.windowCause w.toNat y))) ∧
        (winOk x = false → s.windowCause w.toNat y = 0 → ∃ t, exec (.fwinEnable w v) s = .next t ∧ t.window w.toNat = y ∧
          t.mem = s.mem ∧ t.groups = s.groups)) ∧
      (let z := BitVec.ofNat 64 (n / 2 ^ 56 % 4 * 2 ^ 56 + n / 2 ^ 52 % 16 * 2 ^ 52 + n / 2 ^ 48 % 16 * 2 ^ 48 + n % 2 ^ 40)
       v.getLsbD 63 = false →
        (winOk x = false → exec (.fwinDisable w v) s = .next { s with fwin := s.fwin.put w.toNat (x.set 0 z) }) ∧
        (winOk x = true → z ≠ (x.getD 0 0) &&& ~~~(BitVec.twoPow 64 63) → exec (.fwinDisable w v) s = .next (refused 6)) ∧
        (winOk x = true → z = (x.getD 0 0) &&& ~~~(BitVec.twoPow 64 63) →
          exec (.fwinDisable w v) s = .next { s with fwinOff := s.fwinOff.put w.toNat true })) ∧
      (s.fwinOff.look w.toNat false = true → ∃ t, exec (.fwinDisableComplete w) s = .next t ∧
        t.window w.toNat = x.set 0 ((x.getD 0 0) &&& ~~~(BitVec.twoPow 64 63)) ∧ t.mem = s.mem)) ∧
    ∀ (die : BitVec 3) (m : BitVec 5),
      let k := die.toNat * 32 + m.toNat
      let x := s.mast k
      let y := BitVec.ofNat 64 (n / 2 ^ 63 * 2 ^ 63 + n / 2 ^ 52 % 16 * 2 ^ 52 + n % 2 ^ 52)
      (x.ring ≠ [] ∨ s.ringOk y = false → exec (.mastringWrite die m v) s = .next s) ∧
      (x.ring = [] → s.ringOk y = true → ∃ t, exec (.mastringWrite die m v) s = .next t ∧ t.mast k = { x with ringCtl := y, stuck := false }) ∧
      (n / 2 ^ 52 % 2 ^ 11 = 0 → n % 8 = 0 →
        (v.getLsbD 63 = false → exec (.mastclrClearLock die m v) s = .next (s.setMast k { x with
          broken := x.broken.filter (· != n % 2 ^ 52) })) ∧
        (v.getLsbD 63 = true → exec (.mastclrClearAll die m v) s = .next (s.setMast k { x with broken := [], allbroken := false })))

/-- RLOGCTL is refused before firmware is ready and PTROOT before the three rings have been enabled, RLOGCTL also for a
size above 12 or a base that is not 4 KiB aligned, PTROOT also while a mast core or a context is busy (the model's
reading of R453: log entries 38 and 66). SKCTL's clr zeroes the unit. TRCTL enables a ring and puts a sync packet.
PWRCTL takes effect or sets its cause. A bad BAR0 access changes nothing, an offset that names no register ignores a
write and reads 0, and a register with a row of its own is written by that row. BAR2 reads return the bytes and change
nothing else; BAR2 writes put the bytes, once HBM is trained; an address with no memory faults. BOOTGO loads an image
that passes every check, or gives the first that fails; firmware then enables every MASTRING. An attestation report is
written at its address, 1 KiB aligned and in the map (log entry 44), and F5 tells the host with type 0x62 (log entry
33). A package reset gives every register its reset value and leaves the contents of memory (log entry 44). (R8, R298,
R312, R358, R378, R379, R383, R403, R435, R437, R449, R453) -/
def Obligations.PackageRegistersAndBringUp : Prop :=
  ∀ (s : State) (v : Dword),
    let n := v.toNat
    (let ok := s.bootReady = true ∧ n / 2 ^ 52 % 16 ≤ 12 ∧ n % 2 ^ 12 = 0
     let old := s.rlog
     let ctl := BitVec.ofNat 64 (n / 2 ^ 63 * 2 ^ 63 + n / 2 ^ 52 % 16 * 2 ^ 52 + n % 2 ^ 52) |||
      (if old.alias_ = true ∧ v.getLsbD 62 = false then BitVec.twoPow 64 62 else 0)
     (ok → ∃ t, exec (.rlogctlWrite v) s = .next t ∧
        t.rlog = { old with ctl := ctl, dedup := if v.getLsbD 63 then [] else old.dedup } ∧
        t.begun = { s.begun with rlog := s.begun.rlog || v.getLsbD 63 }) ∧
     (¬ ok → exec (.rlogctlWrite v) s = .next s)) ∧
    (let ok := s.bootReady = true ∧ s.begun.err = true ∧ s.begun.hr = true ∧ s.begun.rlog = true ∧
       (∀ k < 256, s.mastStat k % 2 ^ 54 = 0) ∧ s.liveCtxs = []
     (ok → exec (.ptrootWrite v) s =
        .next { s with ptroot := BitVec.ofNat 64 (n / 2 ^ 63 * 2 ^ 63 + n / 2 ^ 14 % 2 ^ 38 * 2 ^ 14)
                       begun := { s.begun with root := s.begun.root || v.getLsbD 63 } }) ∧
     (¬ ok → exec (.ptrootWrite v) s = .next s)) ∧
    (∀ u : BitVec 2, v.getLsbD 62 = true → n / 2 ^ 48 % 256 ≤ 9 → ∃ t, exec (.skctlClr u v) s = .next t ∧
      (t.sk.look u.toNat {}).tot = 0 ∧ (∀ k, k / 8192 % 4 = u.toNat → t.skc.look k 0 = 0) ∧
      (∀ k, k / 8192 % 4 ≠ u.toNat → t.skc.look k 0 = s.skc.look k 0) ∧ t.groups = s.groups) ∧
    (∀ d : BitVec 3,
      let r := s.ring d.toNat
      let x := s.power.look d.toNat {}
      let ctl := BitVec.ofNat 64 (n / 2 ^ 63 * 2 ^ 63 + n / 2 ^ 52 % 16 * 2 ^ 52 + n / 2 ^ 12 % 2 ^ 40 * 2 ^ 12)
      let ok := n / 2 ^ 52 % 16 ≤ 10 ∧ ¬ (r.ctl.getLsbD 63 = true ∧ r.tail ≠ r.head)
      (ok → ∃ t, exec (.trctlWrite d v) s = .next t ∧ (t.ring d.toNat).ctl = ctl ∧ t.groups = s.groups ∧
        (r.ctl.getLsbD 63 = false → v.getLsbD 63 = true → r.drops = 0 → { r with ctl := ctl }.room ≠ 0 →
          (t.ring d.toNat).tail = r.tail + 1)) ∧
      (¬ ok → exec (.trctlWrite d v) s = .next s) ∧
      (s.powerCause d.toNat v = 0 → ∃ t, exec (.pwrctlWrite d v) s = .next t ∧ (t.power.look d.toNat {}).stat = x.stat ∧
        (t.power.look d.toNat {}).ctl = BitVec.ofNat 64 (n / 2 ^ 30 % 4 * 2 ^ 30 + n / 2 ^ 16 % 2 ^ 11 * 2 ^ 16 + n % 2 ^ 12)) ∧
      (s.powerCause d.toNat v ≠ 0 → exec (.pwrctlWrite d v) s =
        .next { s with power := s.power.put d.toNat { x with stat := BitVec.ofNat 64 (s.powerCause d.toNat v) } })) ∧
    (∀ off width w, exec (.bar0BadAccess off width w) s = .next s) ∧
    (∀ off, (off % 8 ≠ 0 → exec (.genericRegisterWrite off v) s = .next s) ∧
      exec (.genericRegisterWrite 0x1200400 v) s = .next { s with trkid := v.setWidth 32 } ∧
      exec (.genericRegisterWrite 0x1200408 v) s = .next { s with dbgctl := v.getLsbD 0 } ∧
      (off < 4 → exec (.genericRegisterWrite (0x1200300 + 16 * off) v) s = .next (if n % 4 ≠ 0 then s else
        { s with bpaddr := s.bpaddr.put off (BitVec.ofNat 64 (n / 2 ^ 63 * 2 ^ 63 + n % 2 ^ 57)) }))) ∧
    (∀ off, regAt off = none → exec (.genericRegisterWrite off v) s = .next s ∧ s.readRegister off = 0) ∧
    (∀ (q : BitVec 6) (f : BitVec 3) (d : BitVec 3) (m : BitVec 5),
      exec (.genericRegisterWrite (0x100008 + 0x40 * q.toNat) v) s = exec (.qctlWrite q v) s ∧
      exec (.genericRegisterWrite (0x100018 + 0x40 * q.toNat) v) s = exec (.qtailWrite q v) s ∧
      exec (.genericRegisterWrite (0x200018 + 0x40 * f.toNat) v) s = exec (.mbin3Write f v) s ∧
      exec (.genericRegisterWrite (0x400008 + 0x1000 * d.toNat + 0x20 * m.toNat) v) s = exec (.mastringWrite d m v) s ∧
      s.readRegister (0x100018 + 0x40 * q.toNat) = (s.queue q.toNat).tail.setWidth 64 ∧
      s.readRegister (0x200018 + 0x40 * f.toNat) = 0) ∧
    (∀ addr len, (s.bar2Ok addr len = true → exec (.hostBar2Read addr len) s = .next { s with
        hostData := (List.range len).map fun i =>
          let x := s.homeWord ((addr + i) / 4)
          (BitVec.ofNat 8 (x.val.toNat / 256 ^ ((addr + i) % 4)), x.poison) }) ∧
      (s.bar2Ok addr len = false → exec (.hostBar2Read addr len) s = .fault (.outsideMap addr))) ∧
    (∀ addr data, (s.bar2Ok addr data.length = false → exec (.hostBar2Write addr data) s = .fault (.outsideMap addr)) ∧
      (s.bar2Ok addr data.length = true →
        (s.bootHbm = false → exec (.hostBar2Write addr data) s = .next s) ∧
        (s.bootHbm = true → s.ptroot.getLsbD 63 = false → Memory.wf s.mem = true → ∃ t, exec (.hostBar2Write addr data) s = .next t ∧
          t.groups = s.groups ∧ ∀ a, memRead t.mem a =
            if addr ≤ a ∧ a < addr + data.length then data.getD (a - addr) 0 else memRead s.mem a))) ∧
    exec .hbmTrainingComplete s = .next { s with bootHbm := true } ∧
    (s.bootHbm = true → s.bootLoaded = false → ∃ t, exec (.bootgoWrite 1) s = .next t ∧
      t.bootCheck = BitVec.ofNat 8 s.bootFail ∧ (t.bootLoaded = true ↔ s.bootFail = 0) ∧
      (s.bootFail = 0 → t.svn = (s.devWord (0xBFFF000000 + 8)).val ∧ t.fwsram = s.segments.map (·.take (2 ^ 21)))) ∧
    (∀ b : BringUp, s.bootLoaded = true → s.bootReady = false → b.rings.length = 256 →
      (∀ x ∈ b.rings, x.getLsbD 63 = true ∧ s.ringOk x = true) → ∃ t, exec (.firmwareReady b) s = .next t ∧
        t.bootReady = true ∧ t.migfree = b.free ∧ ∀ k < 256, (t.mast k).ringCtl.getLsbD 63 = true) ∧
    (∀ m, s.message 5 0x61 = some m → msgWord m 1 % 1024 = 0 → s.physOk (msgWord m 1) 1024 = true →
      let body := s.attestBody (msgWord m 2) (msgWord m 3)
      let t := (s.takeMessage 5).devWrite (msgWord m 1) (body ++ beBytes 384 (rsaSign body))
      exec .attestationRequest s = .next (t.tellHost 0x62 5 (BitVec.ofNat 32 (msgTag m))) ∧
        ∃ h, (t.tellHost 0x62 5 (BitVec.ofNat 32 (msgTag m))).hostMail = s.hostMail ++ [h] ∧ (h.getD 0 0).toNat / 2 ^ 56 = 0x62) ∧
    ∃ t, exec .packageReset s = .next t ∧ t.groups = State.reset.groups ∧ t.queues = State.reset.queues ∧ t.ctxs = State.reset.ctxs ∧
      t.err = State.reset.err ∧ t.rlog = State.reset.rlog ∧ t.ptroot = State.reset.ptroot ∧ t.bootReady = State.reset.bootReady ∧
      t.mem = s.mem

/-- The words of opcode 0x0A with minor code 0 to 3 stand for LEA.1, LEA.2, LEA.4 and LEA.8. LEA.s completes for every gm
that is not poisoned when its registers are in the allotment and its sources are clean in the active lanes: each
active lane of v[d] gets (v[a] + v[b] × s) modulo 2^32 of its whole words, and nothing else changes but the slot's
place. (R88) -/
def Obligations.LeaScalesAndAdds : Prop :=
  (∀ (sh : BitVec 2) (d a b : BitVec 8), decode ((0x0A : BitVec 6) ++ sh ++ d ++ a ++ b) = some (.lea sh d a b)) ∧
  ∀ (s : State) (act : Word) (sh : BitVec 2) (d a b : BitVec 8), Lanes s act → Owned s [d.toNat, a.toNat, b.toNat] →
    Clean s act [a.toNat, b.toNat] → WritesVector (.lea sh d a b) s act d.toNat (fun l =>
      BitVec.ofNat 32 (((s.vw a l).toNat + (s.vw b l).toNat * (if sh = 0 then 1 else if sh = 1 then 2 else if sh = 2 then 4 else 8)) % 2 ^ 32))

/-- The words of opcode 0x1D with minor code 1 and a b field of 0 stand for PCNT sd, pa, and name no instruction where d
is 0x40 or above. With gm, the guard and p[a] not poisoned, PCNT completes: s[d] gets the number of active lanes whose
bit of p[a] is set, Z is set when that number is zero, N, C and V are cleared, and nothing else changes but the slot's
place. (R106) -/
def Obligations.PcntCountsActiveLanes : Prop :=
  (∀ (d : BitVec 6) (a : BitVec 4),
    decode ((0x1D : BitVec 6) ++ (1 : BitVec 2) ++ (0 : BitVec 2) ++ d ++ (0 : BitVec 4) ++ a ++ (0 : BitVec 8)) = some (.pcnt d a)) ∧
  (∀ (d a b : BitVec 8), 0x40 ≤ d.toNat → decode ((0x1D : BitVec 6) ++ (1 : BitVec 2) ++ d ++ a ++ b) = none) ∧
  ∀ (s : State) (act : Word) (d : BitVec 6) (a : BitVec 4), Lanes s act → (s.g.getP a.toNat).poison = false →
    let n := ((List.range 32).filter fun l => act.getLsbD l && (s.g.getP a.toNat).val.getLsbD l).length
    WritesScalar (.pcnt d a) s d (BitVec.ofNat 64 n) { z := n == 0, n := false, c := false, v := false }

/-- When the issuing group, which has not ended and is not stopped, takes a fault that neither completes its instruction
nor names a bad table entry: its registers, flags, outstanding operations and both slots are as before, so that the
word may issue again; the group waits, for F2 after FLT.PAGE and for a disposition after every other class, and cannot
issue; the restart is the word; other groups and every team are as before; fseq advances; and no memory changes where
the error ring is off or the class is FLT.PAGE. A group that is stopped at a fault or halted keeps what completes with
a fault for its resumption (R423). (R15, R419, R420, R421, R422, R423) -/
def Obligations.FaultsArePrecise : Prop :=
  ∀ (s : State) (f : FaultInfo), isMast s.cur = false → f.badEntries = [] → f.next = false →
    s.g.ended = false →
    let t := s.raise f
    let g := t.g
    (s.g.fault ≠ none ∨ s.g.halted = true → t = s.setG { s.g with late := s.g.late ++ [(s.curSlot, f)] }) ∧
    (s.g.fault = none → s.g.halted = false → g.v = s.g.v ∧ g.s = s.g.s ∧ g.p = s.g.p ∧ g.x = s.g.x ∧ g.flags = s.g.flags ∧ g.ops = s.g.ops ∧
      g.slotA = s.g.slotA ∧ g.slotB = s.g.slotB ∧
      (∃ x, g.fault = some x ∧ x.info = f ∧ x.slot = s.curSlot ∧ x.restart = s.sl.pc ∧
        x.wait = (if f.cls = 0x01 then .service else .disposition)) ∧
      (∀ sl, t.slotReady s.cur sl = false) ∧ (∀ p, p ≠ s.cur → t.group p = s.group p) ∧ t.teams = s.teams ∧
      t.err.fseq = s.err.fseq + 1 ∧ (s.err.ctl.getLsbD 63 = false ∨ f.cls = 0x01 → t.mem = s.mem))

/-- With no turn on the agenda, a slot that may issue, has its turn in the rotation, stands at a word of its clause and
has no breakpoint due runs exec of the well-formed instruction that the word decodes to, in the state itself, followed
by what its issue brings (the sketch counts, its place in the rotation, the passed breakpoint, the end of a step
request); a word that names none, or whose operands R66 refuses, runs as an illegal word; a slot with no clause starts
one. A slot that may not issue, or whose turn it is not, does nothing; an event on the agenda runs, after the
emergency stop only one that comes from outside (R450; that the clocks stand still from the step of the trip on is log
entry 69). Every step ends with what follows each (due decisions, lines over a cache's size, messages formed). (R20,
R22, R66, R120, R124, R208, R435, R440, R443, R450) -/
def Obligations.StepRunsTheDecodedWord : Prop :=
  ∀ (s : State),
    (s.agenda = [] →
      (s.slotReady s.cur s.curSlot = false ∨ s.turnOf s.cur s.curSlot = false → step s = .next s.settled) ∧
      (s.slotReady s.cur s.curSlot = true → s.turnOf s.cur s.curSlot = true →
        (s.breakDue s.cur s.curSlot = none → s.sl.word? = none →
          ∀ t, exec (.clauseStart s.cur s.curSlot) s = .next t → step s = .next t.settled) ∧
        (s.breakDue s.cur s.curSlot ≠ none →
          ∀ t, exec (.breakpointMatch s.cur s.curSlot) s = .next t → step s = .next t.settled) ∧
        ∀ w, s.breakDue s.cur s.curSlot = none → s.sl.word? = some w →
          (∀ i, decode w = some i → Instr.WellFormed i →
            (∀ t, exec i s = .next t → step s = .next (afterIssue s t s.cur s.curSlot).settled) ∧
            (∀ f, exec i s = .fault f → step s = .fault f) ∧ (∀ r, exec i s = .refused r → step s = .refused r)) ∧
          ((decode w = none ∨ ∃ i, decode w = some i ∧ ¬ Instr.WellFormed i) →
            ∀ t, exec (.illegalInstructionWord w) s = .next t → step s = .next (afterIssue s t s.cur s.curSlot).settled))) ∧
    ∀ i r, s.agenda = .event i :: r →
      ((s.emerg = false ∨ fromOutside i = true) → isEvent i = true →
        ∀ t, exec i { s with agenda := r } = .next t → step s = .next t.settled) ∧
      (s.emerg = true → fromOutside i = false → step s = .next ({ s with agenda := r } : State).settled)

/-- One word of each kind of format, as the spec's examples and encodings give it: ISUB, ICMP.lt, BR, FORK, JOIN, PACK,
BAR, NOP, EXIT, LZOPEN, LZWAIT, SHIP.T, WAITK and SRET; the all-zero and the all-ones word name no instruction. (R29,
R65, R73, R98, R122, R129, R192, R196) -/
def Obligations.SpecWordsDecode : Prop :=
  decode 0x05030102 = some (.isub 3 1 2) ∧ decode 0x30210102 = some (.icmp .lt 1 1 2) ∧ decode 0x80000005 = some (.br 5) ∧
    decode 0x94100006 = some (.fork 1 6) ∧ decode 0x9F000000 = some .join ∧ decode 0x9C000000 = some .nop ∧
    decode 0x9D000000 = some .exit ∧ decode 0xA8000000 = some (.bar 0) ∧ decode 0xEC141500 = some (.lzopen 20 21) ∧
    decode 0xF0001419 = some (.lzwait 20 25) ∧ decode 0xF908142C = some (.shipT 8 20 1 3) ∧ decode 0xFC000003 = some (.waitk 3) ∧
    decode 0xFE000000 = some .sret ∧ decode 0x58080100 = some (.pack 8 1 0) ∧ decode 0 = none ∧ decode 0xFFFFFFFF = none

/-- Right after package reset the memory is in canonical form, every mode register of a slot is 0x0420_0000, every slot of
a group is FREE, every predicate but p0 and every vector and scalar register reads zero, translation registers are not
valid, zone generations are 0x00, queues are disabled with no command, the page tables, the race log, the error ring
and the samplers are off, debug halt mode is 0, bring-up is not complete, and PWRCTL is 0xF3C. (R8, R35, R112, R186,
R331, R383, R428, R432, R441, R449) -/
def Obligations.ResetState : Prop :=
  State.reset.Inv ∧
    (∀ p, (State.reset.group p).slotA = {} ∧ (State.reset.group p).slotB = {} ∧ (State.reset.group p).slotA.gm = 0x04200000 ∧
      (State.reset.group p).slotA.state = .free ∧ (State.reset.group p).live = false ∧ (State.reset.group p).getP 0 = ⟨0xFFFFFFFF, false⟩ ∧
      (∀ r, r ≠ 0 → (State.reset.group p).getP r = {}) ∧ (∀ r l, (State.reset.group p).getV r l = {}) ∧
      (∀ r, (State.reset.group p).getS r = {}) ∧ ∀ r, ((State.reset.group p).getX r).valid = false) ∧
    (∀ c n, (State.reset.zone c n).gen = 0) ∧ (∀ q, (State.reset.queue q).ctl = 0 ∧ (State.reset.queue q).cmds = []) ∧
    State.reset.ptroot = 0 ∧ State.reset.rlog.ctl = 0 ∧ State.reset.err.ctl = 0 ∧ State.reset.samp.ctl = 0 ∧ State.reset.dbgctl = false ∧
    State.reset.bootReady = false ∧ ∀ d, (State.reset.power.look d {}).ctl = 0xF3C

/-- For every instruction that has a word: decoding the word that the encoder gives for it answers the instruction, with
every operand at every value that the encoding admits. So no bit of an operand is dropped, and no two instructions
share a word. (R29, R30, R62, R63, R64, R65, R66) -/
def Obligations.DecodeInvertsEncode : Prop :=
  (∀ (i : Instr) (w : Word), encode i = some w → decode w = some i) ∧
    ∀ (i j : Instr) (w : Word), encode i = some w → encode j = some w → i = j

/-- If the memory of a state is in canonical form (addresses strictly rising, no entry equal to what an unlisted address
reads as) and a step answers a next state, its memory is in canonical form: whatever turn it is, and whatever
instruction or event it runs. The canonical form is the model's own representation of the memory of R4 and R227 (log
entry 3). (R4, R227) -/
def Obligations.EveryStepKeepsMemoryCanonical : Prop :=
  ∀ (s t : State), s.Inv → step s = .next t → t.Inv
end

