-- ==== Sys2Proof/Laws/Tab.lean ====
section
/-! SUPPORT. Laws of tables: an entry read after a write, of the same number and of another. -/

namespace Sys2Proof

variable {α : Type}

@[simp] theorem Tab.look_nil (k : Nat) (d : α) : Tab.look [] k d = d := rfl

@[simp] theorem Tab.look_put (t : Tab α) (k : Nat) (x d : α) : (t.put k x).look k d = x := by
  induction t with
  | nil => simp [Tab.put, Tab.look]
  | cons e r ih =>
    obtain ⟨j, y⟩ := e
    simp only [Tab.put]
    split
    · simp [Tab.look]
    · split
      · simp [Tab.look]
      · simp only [Tab.look, ih]
        rw [if_neg (by omega)]

theorem Tab.look_put_ne (t : Tab α) {k j : Nat} (x d : α) (h : j ≠ k) :
    (t.put k x).look j d = t.look j d := by
  induction t with
  | nil => simp [Tab.put, Tab.look, Ne.symm h]
  | cons e r ih =>
    obtain ⟨i, y⟩ := e
    simp only [Tab.put]
    split
    · simp [Tab.look, Ne.symm h]
    · split
      · next hk => subst hk; simp [Tab.look, Ne.symm h]
      · simp only [Tab.look, ih]

theorem Tab.look_put_eq (t : Tab α) (k j : Nat) (x d : α) :
    (t.put k x).look j d = if j = k then x else t.look j d := by
  split
  · next h => subst h; exact t.look_put j x d
  · next h => exact t.look_put_ne x d h

end Sys2Proof
end

