-- ==== Sys2Proof/Laws/Memory.lean ====
section
/-! SUPPORT. Laws of memory: a byte read after a write, and that every memory operation keeps the canonical form. -/

namespace Sys2Proof.Machine

open Sys2Proof

/-! The list of bytes. -/

@[simp] theorem memRead_memWrite_self (m : List Host.Cell) (a : Nat) (b : Byte) (h : Memory.wf m = true) :
    memRead (memWrite m a b) a = b := by
  induction m with
  | nil =>
    simp only [memWrite]
    split
    · next hb => simp [memRead, hb]
    · simp [memRead]
  | cons e r ih =>
    obtain ⟨j, c⟩ := e
    have hr : Memory.wf r = true := by
      cases r with
      | nil => rfl
      | cons e r => simp only [Memory.wf, Bool.and_eq_true] at h; exact h.2
    have below : ∀ (r : List Host.Cell) (j : Nat) (c : Byte), Memory.wf ((j, c) :: r) = true → ∀ a, a ≤ j → memRead r a = memDefault := by
      intro r
      induction r with
      | nil => intros; rfl
      | cons e r ih =>
        intro j c h a ha
        simp only [Memory.wf, Bool.and_eq_true, decide_eq_true_eq] at h
        simp only [memRead]
        rw [if_neg (by omega)]
        exact ih e.1 e.2 h.2 a (by omega)
    simp only [memWrite]
    split
    · next hlt =>
      split
      · next hb => simp only [memRead]; rw [if_neg (by omega), below r j c h a (by omega), hb]
      · simp [memRead]
    · split
      · next heq =>
        split
        · next hb => rw [below r j c h a (by omega), hb]
        · simp [memRead]
      · next hne => simp only [memRead]; rw [if_neg (by omega), ih hr]

theorem memRead_memWrite_ne (m : List Host.Cell) {a x : Nat} (b : Byte) (h : x ≠ a) : memRead (memWrite m a b) x = memRead m x := by
  induction m with
  | nil =>
    simp only [memWrite]
    split
    · rfl
    · simp [memRead, Ne.symm h]
  | cons e r ih =>
    obtain ⟨j, c⟩ := e
    simp only [memWrite]
    split
    · split
      · rfl
      · simp only [memRead]; rw [if_neg (Ne.symm h)]
    · split
      · next heq =>
        subst heq
        split
        · simp [memRead, Ne.symm h]
        · simp [memRead, Ne.symm h]
      · simp only [memRead, ih]

/-- A canonical list's head stands below every other entry of it. -/
theorem memory_wf_cons (j : Nat) (c : Byte) (r : List Host.Cell) :
    Memory.wf ((j, c) :: r) = true ↔ c ≠ memDefault ∧ (∀ e ∈ r.head?, j < e.1) ∧ Memory.wf r = true := by
  cases r with
  | nil => simp [Memory.wf]
  | cons e r => simp [Memory.wf, and_assoc, and_left_comm]

theorem memWrite_head (m : List Host.Cell) (a j : Nat) (b : Byte) (h : ∀ e ∈ m.head?, j < e.1) (ha : j < a)
    (hw : Memory.wf m = true) : ∀ e ∈ (memWrite m a b).head?, j < e.1 := by
  cases m with
  | nil => simp only [memWrite]; split <;> simp [ha]
  | cons e r =>
    obtain ⟨k, c⟩ := e
    have hk : j < k := h (k, c) (by simp)
    simp only [memWrite]
    split
    · split <;> simp [ha, hk]
    · split
      · split
        · intro e he
          have := ((memory_wf_cons k c r).1 hw).2.1 e he
          omega
        · simp [ha]
      · simp [hk]

theorem memWrite_wf (m : List Host.Cell) (a : Nat) (b : Byte) (h : Memory.wf m = true) : Memory.wf (memWrite m a b) = true := by
  induction m with
  | nil =>
    simp only [memWrite]
    split
    · rfl
    · next hb => simp [Memory.wf, hb]
  | cons e r ih =>
    obtain ⟨j, c⟩ := e
    have h' := (memory_wf_cons j c r).1 h
    simp only [memWrite]
    split
    · next hlt =>
      split
      · exact h
      · next hb => exact (memory_wf_cons _ _ _).2 ⟨hb, by simpa using hlt, h⟩
    · split
      · next heq =>
        split
        · exact h'.2.2
        · next hb => subst heq; exact (memory_wf_cons _ _ _).2 ⟨hb, h'.2.1, h'.2.2⟩
      · exact (memory_wf_cons _ _ _).2 ⟨h'.1, memWrite_head r a j b h'.2.1 (by omega) h'.2.2, ih h'.2.2⟩

theorem memWrites_wf (m : List Host.Cell) (a : Nat) (bs : List Byte) (h : Memory.wf m = true) : Memory.wf (memWrites m a bs) = true := by
  induction bs generalizing m a with
  | nil => exact h
  | cons b r ih => exact ih _ _ (memWrite_wf m a b h)

/-- A byte read after a run of bytes is written: the written byte inside the run, the old one outside it. -/
theorem memRead_memWrites (m : List Host.Cell) (a : Nat) (bs : List Byte) (h : Memory.wf m = true) (x : Nat) :
    memRead (memWrites m a bs) x = if a ≤ x ∧ x < a + bs.length then bs.getD (x - a) 0 else memRead m x := by
  induction bs generalizing m a with
  | nil => simp only [memWrites, List.length_nil]; rw [if_neg (by omega)]
  | cons b r ih =>
    rw [memWrites, ih _ _ (memWrite_wf m a b h)]
    simp only [List.length_cons]
    by_cases hx : x = a
    · subst hx
      rw [if_neg (by omega), if_pos (by omega), memRead_memWrite_self m x b h]
      simp
    · rw [memRead_memWrite_ne m b hx]
      by_cases hi : a + 1 ≤ x ∧ x < a + 1 + r.length
      · rw [if_pos hi, if_pos (by omega)]
        obtain ⟨k, rfl⟩ : ∃ k, x = a + 1 + k := ⟨x - (a + 1), by omega⟩
        have h1 : a + 1 + k - (a + 1) = k := by omega
        have h2 : a + 1 + k - a = k + 1 := by omega
        rw [h1, h2]
        rfl
      · rw [if_neg hi, if_neg (by omega)]

theorem memory_wf_filter (m : List Host.Cell) (f : Host.Cell → Bool) (h : Memory.wf m = true) : Memory.wf (m.filter f) = true := by
  have above : ∀ (r : List Host.Cell) (j : Nat), (∀ e ∈ r.head?, j < e.1) → Memory.wf r = true → ∀ e ∈ (r.filter f).head?, j < e.1 := by
    intro r
    induction r with
    | nil => simp
    | cons e r ih =>
      obtain ⟨k, c⟩ := e
      intro j hj hw
      have hk : j < k := hj (k, c) (by simp)
      have hw' := (memory_wf_cons k c r).1 hw
      rw [List.filter_cons]
      split
      · simp [hk]
      · exact ih j (fun e he => by have := hw'.2.1 e he; omega) hw'.2.2
  induction m with
  | nil => rfl
  | cons e r ih =>
    obtain ⟨j, c⟩ := e
    have h' := (memory_wf_cons j c r).1 h
    rw [List.filter_cons]
    split
    · exact (memory_wf_cons _ _ _).2 ⟨h'.1, above r j h'.2.1 h'.2.2, ih h'.2.2⟩
    · exact ih h'.2.2

/-! The operations of `State`: each leaves memory in canonical form. -/

/-- A fold keeps what each of its steps keeps. -/
theorem foldl_keeps {α σ : Type} (P : σ → Prop) (f : σ → α → σ) (hf : ∀ s a, P s → P (f s a)) (l : List α) (s : σ) (h : P s) :
    P (l.foldl f s) := by
  induction l generalizing s with
  | nil => exact h
  | cons a l ih => exact ih _ (hf _ _ h)

/-- A state with the memory of a well-formed one is well-formed. -/
theorem State.Inv.of_mem {s t : State} (h : s.Inv) (hm : t.mem = s.mem) : t.Inv := by
  unfold State.Inv at *
  rw [hm]
  exact h

theorem State.Inv.putBytes {s : State} (h : s.Inv) (a : Nat) (bs : List Byte) : (s.putBytes a bs).Inv := memWrites_wf _ _ _ h

@[simp] theorem State.setWordPoison_mem (s : State) (w : Nat) (b : Bool) : (s.setWordPoison w b).mem = s.mem := by
  unfold State.setWordPoison; split <;> rfl

@[simp] theorem State.setL1_mem (s : State) (c w : Nat) (x : L1Word) : (s.setL1 c w x).mem = s.mem := rfl
@[simp] theorem State.setL2_mem (s : State) (w : Nat) (x : L2Word) : (s.setL2 w x).mem = s.mem := rfl

theorem State.Inv.setWordPoison {s : State} (h : s.Inv) (w : Nat) (b : Bool) : (s.setWordPoison w b).Inv := h.of_mem (by simp)
theorem State.Inv.setL1 {s : State} (h : s.Inv) (c w : Nat) (x : L1Word) : (s.setL1 c w x).Inv := h.of_mem rfl
theorem State.Inv.setL2 {s : State} (h : s.Inv) (w : Nat) (x : L2Word) : (s.setL2 w x).Inv := h.of_mem rfl
theorem State.Inv.setMemWord {s : State} (h : s.Inv) (w : Nat) (v : PWord) : (s.setMemWord w v).Inv :=
  (h.putBytes _ _).setWordPoison _ _
@[simp] theorem State.markL2_mem (s : State) (w : Nat) (v d : Bool) : (s.markL2 w v d).mem = s.mem := rfl
@[simp] theorem State.homeWrite_mem (s : State) (c w : Nat) (v : PWord) : (s.homeWrite c w v).mem = (s.setMemWord w v).mem := by
  unfold State.homeWrite; dsimp only; split <;> rfl
theorem State.Inv.markL2 {s : State} (h : s.Inv) (w : Nat) (v d : Bool) : (s.markL2 w v d).Inv := h.of_mem rfl
theorem State.Inv.homeWrite {s : State} (h : s.Inv) (c w : Nat) (v : PWord) : (s.homeWrite c w v).Inv :=
  (h.setMemWord w v).of_mem (by simp)

theorem State.Inv.putClean {s : State} (h : s.Inv) (a : Nat) (bs : List Byte) : (s.putClean a bs).Inv := by
  unfold State.putClean
  exact foldl_keeps State.Inv _ (fun _ _ h => h.setWordPoison _ _) _ _ (h.putBytes _ _)

/-- A fill changes no memory: it copies words into a cache. -/
@[simp] theorem State.fillL2_mem (s : State) (w : Nat) : (s.fillL2 w).mem = s.mem := by
  unfold State.fillL2
  refine foldl_keeps (fun t : State => t.mem = s.mem) _ (fun t i h => ?_) _ _ rfl
  dsimp only
  (repeat' split) <;> exact h
@[simp] theorem State.fillL1_mem (s : State) (c w : Nat) : (s.fillL1 c w).mem = s.mem := by
  unfold State.fillL1
  refine foldl_keeps (fun t : State => t.mem = s.mem) _ (fun t i h => ?_) _ _ (s.fillL2_mem w)
  dsimp only
  split <;> exact h
theorem State.Inv.fillL2 {s : State} (h : s.Inv) (w : Nat) : (s.fillL2 w).Inv := h.of_mem (by simp)
theorem State.Inv.fillL1 {s : State} (h : s.Inv) (c w : Nat) : (s.fillL1 c w).Inv := h.of_mem (by simp)

theorem State.Inv.ite {s t : State} (c : Prop) [Decidable c] (hs : s.Inv) (ht : t.Inv) : (if c then s else t).Inv := by
  split <;> assumption

theorem State.Inv.pushedL1 {s : State} (h : s.Inv) (c w : Nat) : (s.pushedL1 c w).Inv := h.setL1 _ _ _

/-- Anchors that evict their copies write dirty ones at their home, and nothing else. -/
theorem State.Inv.dropStale {s : State} (h : s.Inv) (d c w : Nat) : (s.dropStale d c w).Inv := by
  induction d generalizing s c with
  | zero => exact h
  | succ d ih =>
    refine foldl_keeps State.Inv _ (fun t n ht => .ite _ ht ?_) _ _ h
    have hw : (if (t.l1Word n w).dirty = true then ((t.pushedL1 n w).dropStale d n w).homeWrite n w
        { val := (t.l1Word n w).val, poison := (t.l1Word n w).poison } else t).Inv :=
      .ite _ ((ih (ht.pushedL1 n w) n).homeWrite _ _ _) ht
    exact hw.of_mem rfl

theorem State.Inv.pushWord {s : State} (h : s.Inv) (c w : Nat) (p : Point) : (s.pushWord c w p).Inv := by
  unfold State.pushWord
  dsimp only
  split
  · exact h
  · split
    · exact (h.pushedL1 _ _).setL1 _ _ _
    · exact ((h.pushedL1 _ _).dropStale _ _ _).homeWrite _ _ _

theorem State.Inv.pushHost {s : State} (h : s.Inv) (w : Nat) : (s.pushHost w).Inv := by
  unfold State.pushHost
  dsimp only
  split
  · exact h
  · exact (h.setL2 _ _).setMemWord _ _

theorem State.Inv.settleWord {s : State} (h : s.Inv) (core w : Nat) (sc : Scope) (p : Point) : (s.settleWord core w sc p).Inv := by
  have h1 : (if p = .l1 core then s else s.pushWord core w p).Inv := by
    split
    · exact h
    · exact h.pushWord _ _ _
  unfold State.settleWord
  dsimp only
  split
  · exact h1.pushHost _
  · exact h1

theorem State.Inv.admitHost {s : State} (h : s.Inv) (w : Nat) : (s.admitHost w).Inv := .ite _ (h.of_mem rfl) h

theorem State.Inv.readWord {s : State} (h : s.Inv) (core anchor w : Nat) (sc : Scope) (loc : Loc) :
    (s.readWord core anchor w sc loc).1.Inv := by
  have h1 := h.settleWord core w sc (pointOf core anchor sc loc)
  unfold State.readWord
  dsimp only
  split
  · exact .ite _ h1 (h1.fillL1 _ _)
  · exact .ite _ (h1.admitHost _) ((h1.admitHost _).fillL2 _)
  · exact .ite _ (h1.fillL2 _) h1

theorem State.Inv.performWrite {s : State} (h : s.Inv) (core w off : Nat) (bs : List Byte) (sc : Scope) (poison : Bool) (p : Point) :
    (s.performWrite core w off bs sc poison p).Inv := by
  unfold State.performWrite
  split
  · exact State.Inv.setL1 (.ite _ h (h.fillL1 _ _)) _ _ _
  · exact State.Inv.setL2 (.ite _ (h.admitHost _) ((h.admitHost _).fillL2 _)) _ _
  · exact State.Inv.homeWrite (.ite _ h (h.fillL2 _)) _ _ _

theorem State.nearCopy_mem (s : State) (core w off : Nat) (bs : List Byte) (p : Bool) : (s.nearCopy core w off bs p).mem = s.mem := by
  unfold State.nearCopy; dsimp only; split <;> rfl

theorem State.farCopy_mem (s : State) (w off : Nat) (bs : List Byte) (p : Bool) : (s.farCopy w off bs p).mem = s.mem := by
  unfold State.farCopy; dsimp only; split <;> rfl

theorem State.Inv.writeWord {s : State} (h : s.Inv) (core anchor w off : Nat) (bs : List Byte) (sc : Scope) (loc : Loc) (p : Bool) :
    (s.writeWord core anchor w off bs sc loc p).Inv := by
  have h1 := (h.settleWord core w sc (pointOf core anchor sc loc)).performWrite core w off bs sc p (pointOf core anchor sc loc)
  have h2 := State.Inv.ite (pointOf core anchor sc loc = .l1 core) h1 (h1.of_mem (State.nearCopy_mem _ core w off bs p))
  exact .ite _ (h2.of_mem (State.farCopy_mem _ w off bs p)) h2

/-- `memReadAt` keeps the form: it fills and pushes, and stores nothing of its own. -/
theorem State.Inv.memReadAt {s : State} (h : s.Inv) (core anchor : Nat) (loc : Loc) (n : Nat) (sc : Scope) :
    (s.memReadAt core anchor loc n sc).1.Inv :=
  foldl_keeps (fun r : State × List (Byte × Bool) => r.1.Inv) _ (fun _ _ h => h.readWord _ _ _ _ _) _ _ h

theorem State.Inv.memWriteAt {s : State} (h : s.Inv) (core anchor : Nat) (loc : Loc) (bs : List Byte) (sc : Scope) (p : Bool) :
    (s.memWriteAt core anchor loc bs sc p).Inv :=
  foldl_keeps State.Inv _ (fun _ _ h => h.writeWord _ _ _ _ _ _ _ _) _ _ h

theorem State.Inv.devWrite {s : State} (h : s.Inv) (a : Nat) (bs : List Byte) : (s.devWrite a bs).Inv := by
  unfold State.devWrite
  refine foldl_keeps State.Inv _ (fun t e h => ?_) _ _ h
  dsimp only
  have h1 : (if isHostPa a = true then t.pushHost e.1
      else if (Decidable.decide (((bs.drop e.2.2.1).take e.2.2.2).length = 4) || (t.l2Word e.1).valid || !isHomed a) = true then t
        else t.fillL2 e.1).Inv := .ite _ (h.pushHost _) (.ite _ h (h.fillL2 _))
  exact .ite _ (.ite _ ((h1.homeWrite _ _ _).setL2 _ _) (h1.homeWrite _ _ _)) (h1.homeWrite _ _ _)

theorem State.Inv.putDword {s : State} (h : s.Inv) (a : Nat) (v : Dword) : (s.putDword a v).Inv := h.devWrite _ _

theorem State.Inv.pushFarWord {s : State} (h : s.Inv) (w : Nat) : (s.pushFarWord w).Inv := by
  unfold State.pushFarWord
  exact .ite _ h (.ite _ (h.pushHost _) (h.of_mem rfl))

theorem State.Inv.pushFar {s : State} (h : s.Inv) : s.pushFar.Inv :=
  foldl_keeps State.Inv _ (fun _ _ h => h.pushFarWord _) _ _ h

theorem State.Inv.oweDirty {s : State} (h : s.Inv) (core : Nat) : (s.oweDirty core).Inv :=
  foldl_keeps State.Inv _ (fun _ _ h => h.setL1 _ _ _) _ _ h

theorem State.Inv.scopePush {s : State} (h : s.Inv) (core anchor : Nat) (sc : Scope) : (s.scopePush core anchor sc).Inv := by
  have hd : ∀ (s : State), s.Inv → ∀ c l, (List.foldl (fun s w => s.pushWord c w .home) s l).Inv :=
    fun s h c l => foldl_keeps State.Inv _ (fun _ _ h => h.pushWord _ _ _) _ _ h
  unfold State.scopePush
  split
  · exact h
  · exact h
  · exact .ite _ (h.oweDirty _) (foldl_keeps State.Inv _ (fun _ _ h => h.pushWord _ _ _) _ _ h)
  all_goals exact .ite _ (State.Inv.pushFar (hd _ (hd _ h _ _) _ _)) (hd _ (hd _ h _ _) _ _)

/-- Copies in the slices that go take no value with them: only poison marks change (R424). -/
@[simp] theorem State.bareDram_mem (s : State) (f : Nat → Bool) : (s.bareDram f).mem = s.mem := by
  unfold State.bareDram
  refine foldl_keeps (fun t : State => t.mem = s.mem) _ (fun t e h => ?_) _ _ rfl
  split
  · unfold State.setWordPoison; split <;> exact h
  · exact h

theorem State.scopeInval_mem (s : State) (core : Nat) (sc : Scope) : (s.scopeInval core sc).mem = s.mem := by
  cases sc
  case s =>
    exact State.bareDram_mem { s with l1 := s.l1.put core ((s.l1.look core []).filter fun e => e.2.dirty) } fun w => isFar (128 * (w / 32))
  all_goals rfl

theorem State.Inv.scopeInval {s : State} (h : s.Inv) (core : Nat) (sc : Scope) : (s.scopeInval core sc).Inv :=
  h.of_mem (s.scopeInval_mem core sc)

theorem State.Inv.evictWords {s : State} (h : s.Inv) (core line : Nat) (mask : Word) : (s.evictWords core line mask).Inv :=
  (foldl_keeps State.Inv _ (fun _ _ h => h.pushWord _ _ _) _ _ h : (List.foldl (fun s w => s.pushWord core w .home) s _).Inv).of_mem rfl

theorem State.Inv.evictL1 {s : State} (h : s.Inv) (core line : Nat) : (s.evictL1 core line).Inv := h.evictWords _ _ _

/-- A poison mark changes no byte. -/
@[simp] theorem State.poisonWord_mem (s : State) (w : Nat) : (s.poisonWord w).mem = s.mem := by
  unfold State.poisonWord
  dsimp only
  split <;> simp

@[simp] theorem State.markPoison_mem (s : State) (a : Nat) (marks : List Bool) : (s.markPoison a marks).mem = s.mem := by
  unfold State.markPoison
  refine foldl_keeps (fun t : State => t.mem = s.mem) _ (fun t e h => ?_) _ _ rfl
  split
  · simpa using h
  · exact h

/-- A device read is a byte and its poison for each byte of the list that it gives. -/
theorem State.devRead_bytes (s : State) (a n : Nat) : (s.devRead a n).1 = (s.devReadP a n).map (·.1) := rfl

end Sys2Proof.Machine
end

