-- ==== Sys2Proof/Laws/State.lean ====
section
/-! SUPPORT. Laws of the state's accessors: what each update leaves in each field. -/

namespace Sys2Proof.Machine

open Sys2Proof

/-! `setGroup`, `setTeam` and `setCtx` change one table. -/

@[simp] theorem State.setGroup_node (s : State) (p : Nat) (x : Group) : (s.setGroup p x).node = s.node := rfl
@[simp] theorem State.setGroup_tier2 (s : State) (p : Nat) (x : Group) : (s.setGroup p x).tier2 = s.tier2 := rfl
@[simp] theorem State.setGroup_clock (s : State) (p : Nat) (x : Group) : (s.setGroup p x).clock = s.clock := rfl
@[simp] theorem State.setGroup_stopped (s : State) (p : Nat) (x : Group) : (s.setGroup p x).stopped = s.stopped := rfl
@[simp] theorem State.setGroup_emerg (s : State) (p : Nat) (x : Group) : (s.setGroup p x).emerg = s.emerg := rfl
@[simp] theorem State.setGroup_cur (s : State) (p : Nat) (x : Group) : (s.setGroup p x).cur = s.cur := rfl
@[simp] theorem State.setGroup_curSlot (s : State) (p : Nat) (x : Group) : (s.setGroup p x).curSlot = s.curSlot := rfl
@[simp] theorem State.setGroup_agenda (s : State) (p : Nat) (x : Group) : (s.setGroup p x).agenda = s.agenda := rfl
@[simp] theorem State.setGroup_draws (s : State) (p : Nat) (x : Group) : (s.setGroup p x).draws = s.draws := rfl
@[simp] theorem State.setGroup_nextId (s : State) (p : Nat) (x : Group) : (s.setGroup p x).nextId = s.nextId := rfl
@[simp] theorem State.setGroup_teams (s : State) (p : Nat) (x : Group) : (s.setGroup p x).teams = s.teams := rfl
@[simp] theorem State.setGroup_ctxs (s : State) (p : Nat) (x : Group) : (s.setGroup p x).ctxs = s.ctxs := rfl
@[simp] theorem State.setGroup_mem (s : State) (p : Nat) (x : Group) : (s.setGroup p x).mem = s.mem := rfl
@[simp] theorem State.setGroup_mpoison (s : State) (p : Nat) (x : Group) : (s.setGroup p x).mpoison = s.mpoison := rfl
@[simp] theorem State.setGroup_dramPoison (s : State) (p : Nat) (x : Group) : (s.setGroup p x).dramPoison = s.dramPoison := rfl
@[simp] theorem State.setGroup_l1 (s : State) (p : Nat) (x : Group) : (s.setGroup p x).l1 = s.l1 := rfl
@[simp] theorem State.setGroup_l2 (s : State) (p : Nat) (x : Group) : (s.setGroup p x).l2 = s.l2 := rfl
@[simp] theorem State.setGroup_l2line (s : State) (p : Nat) (x : Group) : (s.setGroup p x).l2line = s.l2line := rfl
@[simp] theorem State.setGroup_peerWrites (s : State) (p : Nat) (x : Group) : (s.setGroup p x).peerWrites = s.peerWrites := rfl
@[simp] theorem State.setGroup_holds (s : State) (p : Nat) (x : Group) : (s.setGroup p x).holds = s.holds := rfl
@[simp] theorem State.setGroup_fwin (s : State) (p : Nat) (x : Group) : (s.setGroup p x).fwin = s.fwin := rfl
@[simp] theorem State.setGroup_fwinOff (s : State) (p : Nat) (x : Group) : (s.setGroup p x).fwinOff = s.fwinOff := rfl
@[simp] theorem State.setGroup_ptroot (s : State) (p : Nat) (x : Group) : (s.setGroup p x).ptroot = s.ptroot := rfl
@[simp] theorem State.setGroup_hints (s : State) (p : Nat) (x : Group) : (s.setGroup p x).hints = s.hints := rfl
@[simp] theorem State.setGroup_rlog (s : State) (p : Nat) (x : Group) : (s.setGroup p x).rlog = s.rlog := rfl
@[simp] theorem State.setGroup_masts (s : State) (p : Nat) (x : Group) : (s.setGroup p x).masts = s.masts := rfl
@[simp] theorem State.setGroup_hoists (s : State) (p : Nat) (x : Group) : (s.setGroup p x).hoists = s.hoists := rfl
@[simp] theorem State.setGroup_err (s : State) (p : Nat) (x : Group) : (s.setGroup p x).err = s.err := rfl
@[simp] theorem State.setGroup_msi (s : State) (p : Nat) (x : Group) : (s.setGroup p x).msi = s.msi := rfl
@[simp] theorem State.setGroup_migcfg (s : State) (p : Nat) (x : Group) : (s.setGroup p x).migcfg = s.migcfg := rfl
@[simp] theorem State.setGroup_samp (s : State) (p : Nat) (x : Group) : (s.setGroup p x).samp = s.samp := rfl
@[simp] theorem State.setGroup_sk (s : State) (p : Nat) (x : Group) : (s.setGroup p x).sk = s.sk := rfl
@[simp] theorem State.setGroup_skc (s : State) (p : Nat) (x : Group) : (s.setGroup p x).skc = s.skc := rfl
@[simp] theorem State.setGroup_trace (s : State) (p : Nat) (x : Group) : (s.setGroup p x).trace = s.trace := rfl
@[simp] theorem State.setGroup_trkid (s : State) (p : Nat) (x : Group) : (s.setGroup p x).trkid = s.trkid := rfl
@[simp] theorem State.setGroup_bpaddr (s : State) (p : Nat) (x : Group) : (s.setGroup p x).bpaddr = s.bpaddr := rfl
@[simp] theorem State.setGroup_bpkid (s : State) (p : Nat) (x : Group) : (s.setGroup p x).bpkid = s.bpkid := rfl
@[simp] theorem State.setGroup_dbgctl (s : State) (p : Nat) (x : Group) : (s.setGroup p x).dbgctl = s.dbgctl := rfl
@[simp] theorem State.setGroup_pcieDown (s : State) (p : Nat) (x : Group) : (s.setGroup p x).pcieDown = s.pcieDown := rfl
@[simp] theorem State.setGroup_regions (s : State) (p : Nat) (x : Group) : (s.setGroup p x).regions = s.regions := rfl
@[simp] theorem State.setGroup_pubs (s : State) (p : Nat) (x : Group) : (s.setGroup p x).pubs = s.pubs := rfl
@[simp] theorem State.setGroup_resReqs (s : State) (p : Nat) (x : Group) : (s.setGroup p x).resReqs = s.resReqs := rfl
@[simp] theorem State.setGroup_hr (s : State) (p : Nat) (x : Group) : (s.setGroup p x).hr = s.hr := rfl
@[simp] theorem State.setGroup_saved (s : State) (p : Nat) (x : Group) : (s.setGroup p x).saved = s.saved := rfl
@[simp] theorem State.setGroup_xfers (s : State) (p : Nat) (x : Group) : (s.setGroup p x).xfers = s.xfers := rfl
@[simp] theorem State.setGroup_spent (s : State) (p : Nat) (x : Group) : (s.setGroup p x).spent = s.spent := rfl
@[simp] theorem State.setGroup_txq (s : State) (p : Nat) (x : Group) : (s.setGroup p x).txq = s.txq := rfl
@[simp] theorem State.setGroup_zones (s : State) (p : Nat) (x : Group) : (s.setGroup p x).zones = s.zones := rfl
@[simp] theorem State.setGroup_landing (s : State) (p : Nat) (x : Group) : (s.setGroup p x).landing = s.landing := rfl
@[simp] theorem State.setGroup_pools (s : State) (p : Nat) (x : Group) : (s.setGroup p x).pools = s.pools := rfl
@[simp] theorem State.setGroup_links (s : State) (p : Nat) (x : Group) : (s.setGroup p x).links = s.links := rfl
@[simp] theorem State.setGroup_routes (s : State) (p : Nat) (x : Group) : (s.setGroup p x).routes = s.routes := rfl
@[simp] theorem State.setGroup_delivered (s : State) (p : Nat) (x : Group) : (s.setGroup p x).delivered = s.delivered := rfl
@[simp] theorem State.setGroup_queues (s : State) (p : Nat) (x : Group) : (s.setGroup p x).queues = s.queues := rfl
@[simp] theorem State.setGroup_launches (s : State) (p : Nat) (x : Group) : (s.setGroup p x).launches = s.launches := rfl
@[simp] theorem State.setGroup_mbox (s : State) (p : Nat) (x : Group) : (s.setGroup p x).mbox = s.mbox := rfl
@[simp] theorem State.setGroup_mailSeq (s : State) (p : Nat) (x : Group) : (s.setGroup p x).mailSeq = s.mailSeq := rfl
@[simp] theorem State.setGroup_migfree (s : State) (p : Nat) (x : Group) : (s.setGroup p x).migfree = s.migfree := rfl
@[simp] theorem State.setGroup_work (s : State) (p : Nat) (x : Group) : (s.setGroup p x).work = s.work := rfl
@[simp] theorem State.setGroup_fwstat (s : State) (p : Nat) (x : Group) : (s.setGroup p x).fwstat = s.fwstat := rfl
@[simp] theorem State.setGroup_power (s : State) (p : Nat) (x : Group) : (s.setGroup p x).power = s.power := rfl
@[simp] theorem State.setGroup_bootHbm (s : State) (p : Nat) (x : Group) : (s.setGroup p x).bootHbm = s.bootHbm := rfl
@[simp] theorem State.setGroup_bootLoaded (s : State) (p : Nat) (x : Group) : (s.setGroup p x).bootLoaded = s.bootLoaded := rfl
@[simp] theorem State.setGroup_bootReady (s : State) (p : Nat) (x : Group) : (s.setGroup p x).bootReady = s.bootReady := rfl
@[simp] theorem State.setGroup_bootCheck (s : State) (p : Nat) (x : Group) : (s.setGroup p x).bootCheck = s.bootCheck := rfl
@[simp] theorem State.setGroup_begun (s : State) (p : Nat) (x : Group) : (s.setGroup p x).begun = s.begun := rfl
@[simp] theorem State.setGroup_svn (s : State) (p : Nat) (x : Group) : (s.setGroup p x).svn = s.svn := rfl
@[simp] theorem State.setGroup_fwDigest (s : State) (p : Nat) (x : Group) : (s.setGroup p x).fwDigest = s.fwDigest := rfl
@[simp] theorem State.setGroup_fwsram (s : State) (p : Nat) (x : Group) : (s.setGroup p x).fwsram = s.fwsram := rfl
@[simp] theorem State.setGroup_hostData (s : State) (p : Nat) (x : Group) : (s.setGroup p x).hostData = s.hostData := rfl
@[simp] theorem State.setGroup_hostMail (s : State) (p : Nat) (x : Group) : (s.setGroup p x).hostMail = s.hostMail := rfl
@[simp] theorem State.setGroup_rot (s : State) (p : Nat) (x : Group) : (s.setGroup p x).rot = s.rot := rfl
@[simp] theorem State.setGroup_lastIssue (s : State) (p : Nat) (x : Group) : (s.setGroup p x).lastIssue = s.lastIssue := rfl
@[simp] theorem State.setGroup_ftime (s : State) (p : Nat) (x : Group) : (s.setGroup p x).ftime = s.ftime := rfl
@[simp] theorem State.setGroup_outbox (s : State) (p : Nat) (x : Group) : (s.setGroup p x).outbox = s.outbox := rfl
@[simp] theorem State.setGroup_seqOut (s : State) (p : Nat) (x : Group) : (s.setGroup p x).seqOut = s.seqOut := rfl
@[simp] theorem State.setGroup_hseqOut (s : State) (p : Nat) (x : Group) : (s.setGroup p x).hseqOut = s.hseqOut := rfl
@[simp] theorem State.setGroup_seqIn (s : State) (p : Nat) (x : Group) : (s.setGroup p x).seqIn = s.seqIn := rfl
@[simp] theorem State.setGroup_marks (s : State) (p : Nat) (x : Group) : (s.setGroup p x).marks = s.marks := rfl
@[simp] theorem State.setGroup_gateLast (s : State) (p : Nat) (x : Group) : (s.setGroup p x).gateLast = s.gateLast := rfl
@[simp] theorem State.setGroup_tagGen (s : State) (p : Nat) (x : Group) : (s.setGroup p x).tagGen = s.tagGen := rfl
@[simp] theorem State.setGroup_tagTime (s : State) (p : Nat) (x : Group) : (s.setGroup p x).tagTime = s.tagTime := rfl
@[simp] theorem State.setTeam_node (s : State) (p : Nat) (x : Team) : (s.setTeam p x).node = s.node := rfl
@[simp] theorem State.setTeam_tier2 (s : State) (p : Nat) (x : Team) : (s.setTeam p x).tier2 = s.tier2 := rfl
@[simp] theorem State.setTeam_clock (s : State) (p : Nat) (x : Team) : (s.setTeam p x).clock = s.clock := rfl
@[simp] theorem State.setTeam_stopped (s : State) (p : Nat) (x : Team) : (s.setTeam p x).stopped = s.stopped := rfl
@[simp] theorem State.setTeam_emerg (s : State) (p : Nat) (x : Team) : (s.setTeam p x).emerg = s.emerg := rfl
@[simp] theorem State.setTeam_cur (s : State) (p : Nat) (x : Team) : (s.setTeam p x).cur = s.cur := rfl
@[simp] theorem State.setTeam_curSlot (s : State) (p : Nat) (x : Team) : (s.setTeam p x).curSlot = s.curSlot := rfl
@[simp] theorem State.setTeam_agenda (s : State) (p : Nat) (x : Team) : (s.setTeam p x).agenda = s.agenda := rfl
@[simp] theorem State.setTeam_draws (s : State) (p : Nat) (x : Team) : (s.setTeam p x).draws = s.draws := rfl
@[simp] theorem State.setTeam_nextId (s : State) (p : Nat) (x : Team) : (s.setTeam p x).nextId = s.nextId := rfl
@[simp] theorem State.setTeam_groups (s : State) (p : Nat) (x : Team) : (s.setTeam p x).groups = s.groups := rfl
@[simp] theorem State.setTeam_ctxs (s : State) (p : Nat) (x : Team) : (s.setTeam p x).ctxs = s.ctxs := rfl
@[simp] theorem State.setTeam_mem (s : State) (p : Nat) (x : Team) : (s.setTeam p x).mem = s.mem := rfl
@[simp] theorem State.setTeam_mpoison (s : State) (p : Nat) (x : Team) : (s.setTeam p x).mpoison = s.mpoison := rfl
@[simp] theorem State.setTeam_dramPoison (s : State) (p : Nat) (x : Team) : (s.setTeam p x).dramPoison = s.dramPoison := rfl
@[simp] theorem State.setTeam_l1 (s : State) (p : Nat) (x : Team) : (s.setTeam p x).l1 = s.l1 := rfl
@[simp] theorem State.setTeam_l2 (s : State) (p : Nat) (x : Team) : (s.setTeam p x).l2 = s.l2 := rfl
@[simp] theorem State.setTeam_l2line (s : State) (p : Nat) (x : Team) : (s.setTeam p x).l2line = s.l2line := rfl
@[simp] theorem State.setTeam_peerWrites (s : State) (p : Nat) (x : Team) : (s.setTeam p x).peerWrites = s.peerWrites := rfl
@[simp] theorem State.setTeam_holds (s : State) (p : Nat) (x : Team) : (s.setTeam p x).holds = s.holds := rfl
@[simp] theorem State.setTeam_fwin (s : State) (p : Nat) (x : Team) : (s.setTeam p x).fwin = s.fwin := rfl
@[simp] theorem State.setTeam_fwinOff (s : State) (p : Nat) (x : Team) : (s.setTeam p x).fwinOff = s.fwinOff := rfl
@[simp] theorem State.setTeam_ptroot (s : State) (p : Nat) (x : Team) : (s.setTeam p x).ptroot = s.ptroot := rfl
@[simp] theorem State.setTeam_hints (s : State) (p : Nat) (x : Team) : (s.setTeam p x).hints = s.hints := rfl
@[simp] theorem State.setTeam_rlog (s : State) (p : Nat) (x : Team) : (s.setTeam p x).rlog = s.rlog := rfl
@[simp] theorem State.setTeam_masts (s : State) (p : Nat) (x : Team) : (s.setTeam p x).masts = s.masts := rfl
@[simp] theorem State.setTeam_hoists (s : State) (p : Nat) (x : Team) : (s.setTeam p x).hoists = s.hoists := rfl
@[simp] theorem State.setTeam_err (s : State) (p : Nat) (x : Team) : (s.setTeam p x).err = s.err := rfl
@[simp] theorem State.setTeam_msi (s : State) (p : Nat) (x : Team) : (s.setTeam p x).msi = s.msi := rfl
@[simp] theorem State.setTeam_migcfg (s : State) (p : Nat) (x : Team) : (s.setTeam p x).migcfg = s.migcfg := rfl
@[simp] theorem State.setTeam_samp (s : State) (p : Nat) (x : Team) : (s.setTeam p x).samp = s.samp := rfl
@[simp] theorem State.setTeam_sk (s : State) (p : Nat) (x : Team) : (s.setTeam p x).sk = s.sk := rfl
@[simp] theorem State.setTeam_skc (s : State) (p : Nat) (x : Team) : (s.setTeam p x).skc = s.skc := rfl
@[simp] theorem State.setTeam_trace (s : State) (p : Nat) (x : Team) : (s.setTeam p x).trace = s.trace := rfl
@[simp] theorem State.setTeam_trkid (s : State) (p : Nat) (x : Team) : (s.setTeam p x).trkid = s.trkid := rfl
@[simp] theorem State.setTeam_bpaddr (s : State) (p : Nat) (x : Team) : (s.setTeam p x).bpaddr = s.bpaddr := rfl
@[simp] theorem State.setTeam_bpkid (s : State) (p : Nat) (x : Team) : (s.setTeam p x).bpkid = s.bpkid := rfl
@[simp] theorem State.setTeam_dbgctl (s : State) (p : Nat) (x : Team) : (s.setTeam p x).dbgctl = s.dbgctl := rfl
@[simp] theorem State.setTeam_pcieDown (s : State) (p : Nat) (x : Team) : (s.setTeam p x).pcieDown = s.pcieDown := rfl
@[simp] theorem State.setTeam_regions (s : State) (p : Nat) (x : Team) : (s.setTeam p x).regions = s.regions := rfl
@[simp] theorem State.setTeam_pubs (s : State) (p : Nat) (x : Team) : (s.setTeam p x).pubs = s.pubs := rfl
@[simp] theorem State.setTeam_resReqs (s : State) (p : Nat) (x : Team) : (s.setTeam p x).resReqs = s.resReqs := rfl
@[simp] theorem State.setTeam_hr (s : State) (p : Nat) (x : Team) : (s.setTeam p x).hr = s.hr := rfl
@[simp] theorem State.setTeam_saved (s : State) (p : Nat) (x : Team) : (s.setTeam p x).saved = s.saved := rfl
@[simp] theorem State.setTeam_xfers (s : State) (p : Nat) (x : Team) : (s.setTeam p x).xfers = s.xfers := rfl
@[simp] theorem State.setTeam_spent (s : State) (p : Nat) (x : Team) : (s.setTeam p x).spent = s.spent := rfl
@[simp] theorem State.setTeam_txq (s : State) (p : Nat) (x : Team) : (s.setTeam p x).txq = s.txq := rfl
@[simp] theorem State.setTeam_zones (s : State) (p : Nat) (x : Team) : (s.setTeam p x).zones = s.zones := rfl
@[simp] theorem State.setTeam_landing (s : State) (p : Nat) (x : Team) : (s.setTeam p x).landing = s.landing := rfl
@[simp] theorem State.setTeam_pools (s : State) (p : Nat) (x : Team) : (s.setTeam p x).pools = s.pools := rfl
@[simp] theorem State.setTeam_links (s : State) (p : Nat) (x : Team) : (s.setTeam p x).links = s.links := rfl
@[simp] theorem State.setTeam_routes (s : State) (p : Nat) (x : Team) : (s.setTeam p x).routes = s.routes := rfl
@[simp] theorem State.setTeam_delivered (s : State) (p : Nat) (x : Team) : (s.setTeam p x).delivered = s.delivered := rfl
@[simp] theorem State.setTeam_queues (s : State) (p : Nat) (x : Team) : (s.setTeam p x).queues = s.queues := rfl
@[simp] theorem State.setTeam_launches (s : State) (p : Nat) (x : Team) : (s.setTeam p x).launches = s.launches := rfl
@[simp] theorem State.setTeam_mbox (s : State) (p : Nat) (x : Team) : (s.setTeam p x).mbox = s.mbox := rfl
@[simp] theorem State.setTeam_mailSeq (s : State) (p : Nat) (x : Team) : (s.setTeam p x).mailSeq = s.mailSeq := rfl
@[simp] theorem State.setTeam_migfree (s : State) (p : Nat) (x : Team) : (s.setTeam p x).migfree = s.migfree := rfl
@[simp] theorem State.setTeam_work (s : State) (p : Nat) (x : Team) : (s.setTeam p x).work = s.work := rfl
@[simp] theorem State.setTeam_fwstat (s : State) (p : Nat) (x : Team) : (s.setTeam p x).fwstat = s.fwstat := rfl
@[simp] theorem State.setTeam_power (s : State) (p : Nat) (x : Team) : (s.setTeam p x).power = s.power := rfl
@[simp] theorem State.setTeam_bootHbm (s : State) (p : Nat) (x : Team) : (s.setTeam p x).bootHbm = s.bootHbm := rfl
@[simp] theorem State.setTeam_bootLoaded (s : State) (p : Nat) (x : Team) : (s.setTeam p x).bootLoaded = s.bootLoaded := rfl
@[simp] theorem State.setTeam_bootReady (s : State) (p : Nat) (x : Team) : (s.setTeam p x).bootReady = s.bootReady := rfl
@[simp] theorem State.setTeam_bootCheck (s : State) (p : Nat) (x : Team) : (s.setTeam p x).bootCheck = s.bootCheck := rfl
@[simp] theorem State.setTeam_begun (s : State) (p : Nat) (x : Team) : (s.setTeam p x).begun = s.begun := rfl
@[simp] theorem State.setTeam_svn (s : State) (p : Nat) (x : Team) : (s.setTeam p x).svn = s.svn := rfl
@[simp] theorem State.setTeam_fwDigest (s : State) (p : Nat) (x : Team) : (s.setTeam p x).fwDigest = s.fwDigest := rfl
@[simp] theorem State.setTeam_fwsram (s : State) (p : Nat) (x : Team) : (s.setTeam p x).fwsram = s.fwsram := rfl
@[simp] theorem State.setTeam_hostData (s : State) (p : Nat) (x : Team) : (s.setTeam p x).hostData = s.hostData := rfl
@[simp] theorem State.setTeam_hostMail (s : State) (p : Nat) (x : Team) : (s.setTeam p x).hostMail = s.hostMail := rfl
@[simp] theorem State.setTeam_rot (s : State) (p : Nat) (x : Team) : (s.setTeam p x).rot = s.rot := rfl
@[simp] theorem State.setTeam_lastIssue (s : State) (p : Nat) (x : Team) : (s.setTeam p x).lastIssue = s.lastIssue := rfl
@[simp] theorem State.setTeam_ftime (s : State) (p : Nat) (x : Team) : (s.setTeam p x).ftime = s.ftime := rfl
@[simp] theorem State.setTeam_outbox (s : State) (p : Nat) (x : Team) : (s.setTeam p x).outbox = s.outbox := rfl
@[simp] theorem State.setTeam_seqOut (s : State) (p : Nat) (x : Team) : (s.setTeam p x).seqOut = s.seqOut := rfl
@[simp] theorem State.setTeam_hseqOut (s : State) (p : Nat) (x : Team) : (s.setTeam p x).hseqOut = s.hseqOut := rfl
@[simp] theorem State.setTeam_seqIn (s : State) (p : Nat) (x : Team) : (s.setTeam p x).seqIn = s.seqIn := rfl
@[simp] theorem State.setTeam_marks (s : State) (p : Nat) (x : Team) : (s.setTeam p x).marks = s.marks := rfl
@[simp] theorem State.setTeam_gateLast (s : State) (p : Nat) (x : Team) : (s.setTeam p x).gateLast = s.gateLast := rfl
@[simp] theorem State.setTeam_tagGen (s : State) (p : Nat) (x : Team) : (s.setTeam p x).tagGen = s.tagGen := rfl
@[simp] theorem State.setTeam_tagTime (s : State) (p : Nat) (x : Team) : (s.setTeam p x).tagTime = s.tagTime := rfl
@[simp] theorem State.setCtx_node (s : State) (p : Nat) (x : Ctx) : (s.setCtx p x).node = s.node := rfl
@[simp] theorem State.setCtx_tier2 (s : State) (p : Nat) (x : Ctx) : (s.setCtx p x).tier2 = s.tier2 := rfl
@[simp] theorem State.setCtx_clock (s : State) (p : Nat) (x : Ctx) : (s.setCtx p x).clock = s.clock := rfl
@[simp] theorem State.setCtx_stopped (s : State) (p : Nat) (x : Ctx) : (s.setCtx p x).stopped = s.stopped := rfl
@[simp] theorem State.setCtx_emerg (s : State) (p : Nat) (x : Ctx) : (s.setCtx p x).emerg = s.emerg := rfl
@[simp] theorem State.setCtx_cur (s : State) (p : Nat) (x : Ctx) : (s.setCtx p x).cur = s.cur := rfl
@[simp] theorem State.setCtx_curSlot (s : State) (p : Nat) (x : Ctx) : (s.setCtx p x).curSlot = s.curSlot := rfl
@[simp] theorem State.setCtx_agenda (s : State) (p : Nat) (x : Ctx) : (s.setCtx p x).agenda = s.agenda := rfl
@[simp] theorem State.setCtx_draws (s : State) (p : Nat) (x : Ctx) : (s.setCtx p x).draws = s.draws := rfl
@[simp] theorem State.setCtx_nextId (s : State) (p : Nat) (x : Ctx) : (s.setCtx p x).nextId = s.nextId := rfl
@[simp] theorem State.setCtx_groups (s : State) (p : Nat) (x : Ctx) : (s.setCtx p x).groups = s.groups := rfl
@[simp] theorem State.setCtx_teams (s : State) (p : Nat) (x : Ctx) : (s.setCtx p x).teams = s.teams := rfl
@[simp] theorem State.setCtx_mem (s : State) (p : Nat) (x : Ctx) : (s.setCtx p x).mem = s.mem := rfl
@[simp] theorem State.setCtx_mpoison (s : State) (p : Nat) (x : Ctx) : (s.setCtx p x).mpoison = s.mpoison := rfl
@[simp] theorem State.setCtx_dramPoison (s : State) (p : Nat) (x : Ctx) : (s.setCtx p x).dramPoison = s.dramPoison := rfl
@[simp] theorem State.setCtx_l1 (s : State) (p : Nat) (x : Ctx) : (s.setCtx p x).l1 = s.l1 := rfl
@[simp] theorem State.setCtx_l2 (s : State) (p : Nat) (x : Ctx) : (s.setCtx p x).l2 = s.l2 := rfl
@[simp] theorem State.setCtx_l2line (s : State) (p : Nat) (x : Ctx) : (s.setCtx p x).l2line = s.l2line := rfl
@[simp] theorem State.setCtx_peerWrites (s : State) (p : Nat) (x : Ctx) : (s.setCtx p x).peerWrites = s.peerWrites := rfl
@[simp] theorem State.setCtx_holds (s : State) (p : Nat) (x : Ctx) : (s.setCtx p x).holds = s.holds := rfl
@[simp] theorem State.setCtx_fwin (s : State) (p : Nat) (x : Ctx) : (s.setCtx p x).fwin = s.fwin := rfl
@[simp] theorem State.setCtx_fwinOff (s : State) (p : Nat) (x : Ctx) : (s.setCtx p x).fwinOff = s.fwinOff := rfl
@[simp] theorem State.setCtx_ptroot (s : State) (p : Nat) (x : Ctx) : (s.setCtx p x).ptroot = s.ptroot := rfl
@[simp] theorem State.setCtx_hints (s : State) (p : Nat) (x : Ctx) : (s.setCtx p x).hints = s.hints := rfl
@[simp] theorem State.setCtx_rlog (s : State) (p : Nat) (x : Ctx) : (s.setCtx p x).rlog = s.rlog := rfl
@[simp] theorem State.setCtx_masts (s : State) (p : Nat) (x : Ctx) : (s.setCtx p x).masts = s.masts := rfl
@[simp] theorem State.setCtx_hoists (s : State) (p : Nat) (x : Ctx) : (s.setCtx p x).hoists = s.hoists := rfl
@[simp] theorem State.setCtx_err (s : State) (p : Nat) (x : Ctx) : (s.setCtx p x).err = s.err := rfl
@[simp] theorem State.setCtx_msi (s : State) (p : Nat) (x : Ctx) : (s.setCtx p x).msi = s.msi := rfl
@[simp] theorem State.setCtx_migcfg (s : State) (p : Nat) (x : Ctx) : (s.setCtx p x).migcfg = s.migcfg := rfl
@[simp] theorem State.setCtx_samp (s : State) (p : Nat) (x : Ctx) : (s.setCtx p x).samp = s.samp := rfl
@[simp] theorem State.setCtx_sk (s : State) (p : Nat) (x : Ctx) : (s.setCtx p x).sk = s.sk := rfl
@[simp] theorem State.setCtx_skc (s : State) (p : Nat) (x : Ctx) : (s.setCtx p x).skc = s.skc := rfl
@[simp] theorem State.setCtx_trace (s : State) (p : Nat) (x : Ctx) : (s.setCtx p x).trace = s.trace := rfl
@[simp] theorem State.setCtx_trkid (s : State) (p : Nat) (x : Ctx) : (s.setCtx p x).trkid = s.trkid := rfl
@[simp] theorem State.setCtx_bpaddr (s : State) (p : Nat) (x : Ctx) : (s.setCtx p x).bpaddr = s.bpaddr := rfl
@[simp] theorem State.setCtx_bpkid (s : State) (p : Nat) (x : Ctx) : (s.setCtx p x).bpkid = s.bpkid := rfl
@[simp] theorem State.setCtx_dbgctl (s : State) (p : Nat) (x : Ctx) : (s.setCtx p x).dbgctl = s.dbgctl := rfl
@[simp] theorem State.setCtx_pcieDown (s : State) (p : Nat) (x : Ctx) : (s.setCtx p x).pcieDown = s.pcieDown := rfl
@[simp] theorem State.setCtx_regions (s : State) (p : Nat) (x : Ctx) : (s.setCtx p x).regions = s.regions := rfl
@[simp] theorem State.setCtx_pubs (s : State) (p : Nat) (x : Ctx) : (s.setCtx p x).pubs = s.pubs := rfl
@[simp] theorem State.setCtx_resReqs (s : State) (p : Nat) (x : Ctx) : (s.setCtx p x).resReqs = s.resReqs := rfl
@[simp] theorem State.setCtx_hr (s : State) (p : Nat) (x : Ctx) : (s.setCtx p x).hr = s.hr := rfl
@[simp] theorem State.setCtx_saved (s : State) (p : Nat) (x : Ctx) : (s.setCtx p x).saved = s.saved := rfl
@[simp] theorem State.setCtx_xfers (s : State) (p : Nat) (x : Ctx) : (s.setCtx p x).xfers = s.xfers := rfl
@[simp] theorem State.setCtx_spent (s : State) (p : Nat) (x : Ctx) : (s.setCtx p x).spent = s.spent := rfl
@[simp] theorem State.setCtx_txq (s : State) (p : Nat) (x : Ctx) : (s.setCtx p x).txq = s.txq := rfl
@[simp] theorem State.setCtx_zones (s : State) (p : Nat) (x : Ctx) : (s.setCtx p x).zones = s.zones := rfl
@[simp] theorem State.setCtx_landing (s : State) (p : Nat) (x : Ctx) : (s.setCtx p x).landing = s.landing := rfl
@[simp] theorem State.setCtx_pools (s : State) (p : Nat) (x : Ctx) : (s.setCtx p x).pools = s.pools := rfl
@[simp] theorem State.setCtx_links (s : State) (p : Nat) (x : Ctx) : (s.setCtx p x).links = s.links := rfl
@[simp] theorem State.setCtx_routes (s : State) (p : Nat) (x : Ctx) : (s.setCtx p x).routes = s.routes := rfl
@[simp] theorem State.setCtx_delivered (s : State) (p : Nat) (x : Ctx) : (s.setCtx p x).delivered = s.delivered := rfl
@[simp] theorem State.setCtx_queues (s : State) (p : Nat) (x : Ctx) : (s.setCtx p x).queues = s.queues := rfl
@[simp] theorem State.setCtx_launches (s : State) (p : Nat) (x : Ctx) : (s.setCtx p x).launches = s.launches := rfl
@[simp] theorem State.setCtx_mbox (s : State) (p : Nat) (x : Ctx) : (s.setCtx p x).mbox = s.mbox := rfl
@[simp] theorem State.setCtx_mailSeq (s : State) (p : Nat) (x : Ctx) : (s.setCtx p x).mailSeq = s.mailSeq := rfl
@[simp] theorem State.setCtx_migfree (s : State) (p : Nat) (x : Ctx) : (s.setCtx p x).migfree = s.migfree := rfl
@[simp] theorem State.setCtx_work (s : State) (p : Nat) (x : Ctx) : (s.setCtx p x).work = s.work := rfl
@[simp] theorem State.setCtx_fwstat (s : State) (p : Nat) (x : Ctx) : (s.setCtx p x).fwstat = s.fwstat := rfl
@[simp] theorem State.setCtx_power (s : State) (p : Nat) (x : Ctx) : (s.setCtx p x).power = s.power := rfl
@[simp] theorem State.setCtx_bootHbm (s : State) (p : Nat) (x : Ctx) : (s.setCtx p x).bootHbm = s.bootHbm := rfl
@[simp] theorem State.setCtx_bootLoaded (s : State) (p : Nat) (x : Ctx) : (s.setCtx p x).bootLoaded = s.bootLoaded := rfl
@[simp] theorem State.setCtx_bootReady (s : State) (p : Nat) (x : Ctx) : (s.setCtx p x).bootReady = s.bootReady := rfl
@[simp] theorem State.setCtx_bootCheck (s : State) (p : Nat) (x : Ctx) : (s.setCtx p x).bootCheck = s.bootCheck := rfl
@[simp] theorem State.setCtx_begun (s : State) (p : Nat) (x : Ctx) : (s.setCtx p x).begun = s.begun := rfl
@[simp] theorem State.setCtx_svn (s : State) (p : Nat) (x : Ctx) : (s.setCtx p x).svn = s.svn := rfl
@[simp] theorem State.setCtx_fwDigest (s : State) (p : Nat) (x : Ctx) : (s.setCtx p x).fwDigest = s.fwDigest := rfl
@[simp] theorem State.setCtx_fwsram (s : State) (p : Nat) (x : Ctx) : (s.setCtx p x).fwsram = s.fwsram := rfl
@[simp] theorem State.setCtx_hostData (s : State) (p : Nat) (x : Ctx) : (s.setCtx p x).hostData = s.hostData := rfl
@[simp] theorem State.setCtx_hostMail (s : State) (p : Nat) (x : Ctx) : (s.setCtx p x).hostMail = s.hostMail := rfl
@[simp] theorem State.setCtx_rot (s : State) (p : Nat) (x : Ctx) : (s.setCtx p x).rot = s.rot := rfl
@[simp] theorem State.setCtx_lastIssue (s : State) (p : Nat) (x : Ctx) : (s.setCtx p x).lastIssue = s.lastIssue := rfl
@[simp] theorem State.setCtx_ftime (s : State) (p : Nat) (x : Ctx) : (s.setCtx p x).ftime = s.ftime := rfl
@[simp] theorem State.setCtx_outbox (s : State) (p : Nat) (x : Ctx) : (s.setCtx p x).outbox = s.outbox := rfl
@[simp] theorem State.setCtx_seqOut (s : State) (p : Nat) (x : Ctx) : (s.setCtx p x).seqOut = s.seqOut := rfl
@[simp] theorem State.setCtx_hseqOut (s : State) (p : Nat) (x : Ctx) : (s.setCtx p x).hseqOut = s.hseqOut := rfl
@[simp] theorem State.setCtx_seqIn (s : State) (p : Nat) (x : Ctx) : (s.setCtx p x).seqIn = s.seqIn := rfl
@[simp] theorem State.setCtx_marks (s : State) (p : Nat) (x : Ctx) : (s.setCtx p x).marks = s.marks := rfl
@[simp] theorem State.setCtx_gateLast (s : State) (p : Nat) (x : Ctx) : (s.setCtx p x).gateLast = s.gateLast := rfl
@[simp] theorem State.setCtx_tagGen (s : State) (p : Nat) (x : Ctx) : (s.setCtx p x).tagGen = s.tagGen := rfl
@[simp] theorem State.setCtx_tagTime (s : State) (p : Nat) (x : Ctx) : (s.setCtx p x).tagTime = s.tagTime := rfl

/-! The parts of a group that a slot's or a register's update leaves. -/

@[simp] theorem Group.setSlot_live (g : Group) (sl : SlotId) (x : Slot) : (g.setSlot sl x).live = g.live := by cases sl <;> rfl
@[simp] theorem Group.setSlot_ended (g : Group) (sl : SlotId) (x : Slot) : (g.setSlot sl x).ended = g.ended := by cases sl <;> rfl
@[simp] theorem Group.setSlot_tag (g : Group) (sl : SlotId) (x : Slot) : (g.setSlot sl x).tag = g.tag := by cases sl <;> rfl
@[simp] theorem Group.setSlot_gk (g : Group) (sl : SlotId) (x : Slot) : (g.setSlot sl x).gk = g.gk := by cases sl <;> rfl
@[simp] theorem Group.setSlot_startGen (g : Group) (sl : SlotId) (x : Slot) : (g.setSlot sl x).startGen = g.startGen := by cases sl <;> rfl
@[simp] theorem Group.setSlot_abit (g : Group) (sl : SlotId) (x : Slot) : (g.setSlot sl x).abit = g.abit := by cases sl <;> rfl
@[simp] theorem Group.setSlot_team (g : Group) (sl : SlotId) (x : Slot) : (g.setSlot sl x).team = g.team := by cases sl <;> rfl
@[simp] theorem Group.setSlot_gindex (g : Group) (sl : SlotId) (x : Slot) : (g.setSlot sl x).gindex = g.gindex := by cases sl <;> rfl
@[simp] theorem Group.setSlot_ctx (g : Group) (sl : SlotId) (x : Slot) : (g.setSlot sl x).ctx = g.ctx := by cases sl <;> rfl
@[simp] theorem Group.setSlot_v (g : Group) (sl : SlotId) (x : Slot) : (g.setSlot sl x).v = g.v := by cases sl <;> rfl
@[simp] theorem Group.setSlot_s (g : Group) (sl : SlotId) (x : Slot) : (g.setSlot sl x).s = g.s := by cases sl <;> rfl
@[simp] theorem Group.setSlot_p (g : Group) (sl : SlotId) (x : Slot) : (g.setSlot sl x).p = g.p := by cases sl <;> rfl
@[simp] theorem Group.setSlot_x (g : Group) (sl : SlotId) (x : Slot) : (g.setSlot sl x).x = g.x := by cases sl <;> rfl
@[simp] theorem Group.setSlot_vgran (g : Group) (sl : SlotId) (x : Slot) : (g.setSlot sl x).vgran = g.vgran := by cases sl <;> rfl
@[simp] theorem Group.setSlot_flags (g : Group) (sl : SlotId) (x : Slot) : (g.setSlot sl x).flags = g.flags := by cases sl <;> rfl
@[simp] theorem Group.setSlot_ops (g : Group) (sl : SlotId) (x : Slot) : (g.setSlot sl x).ops = g.ops := by cases sl <;> rfl
@[simp] theorem Group.setSlot_rng (g : Group) (sl : SlotId) (x : Slot) : (g.setSlot sl x).rng = g.rng := by cases sl <;> rfl
@[simp] theorem Group.setSlot_dsbase (g : Group) (sl : SlotId) (x : Slot) : (g.setSlot sl x).dsbase = g.dsbase := by cases sl <;> rfl
@[simp] theorem Group.setSlot_dslim (g : Group) (sl : SlotId) (x : Slot) : (g.setSlot sl x).dslim = g.dslim := by cases sl <;> rfl
@[simp] theorem Group.setSlot_spill (g : Group) (sl : SlotId) (x : Slot) : (g.setSlot sl x).spill = g.spill := by cases sl <;> rfl
@[simp] theorem Group.setSlot_openBatch (g : Group) (sl : SlotId) (x : Slot) : (g.setSlot sl x).openBatch = g.openBatch := by cases sl <;> rfl
@[simp] theorem Group.setSlot_lastBatch (g : Group) (sl : SlotId) (x : Slot) : (g.setSlot sl x).lastBatch = g.lastBatch := by cases sl <;> rfl
@[simp] theorem Group.setSlot_sealed (g : Group) (sl : SlotId) (x : Slot) : (g.setSlot sl x).sealed = g.sealed := by cases sl <;> rfl
@[simp] theorem Group.setSlot_batches (g : Group) (sl : SlotId) (x : Slot) : (g.setSlot sl x).batches = g.batches := by cases sl <;> rfl
@[simp] theorem Group.setSlot_tokens (g : Group) (sl : SlotId) (x : Slot) : (g.setSlot sl x).tokens = g.tokens := by cases sl <;> rfl
@[simp] theorem Group.setSlot_shipOut (g : Group) (sl : SlotId) (x : Slot) : (g.setSlot sl x).shipOut = g.shipOut := by cases sl <;> rfl
@[simp] theorem Group.setSlot_shipFail (g : Group) (sl : SlotId) (x : Slot) : (g.setSlot sl x).shipFail = g.shipFail := by cases sl <;> rfl
@[simp] theorem Group.setSlot_shipDone (g : Group) (sl : SlotId) (x : Slot) : (g.setSlot sl x).shipDone = g.shipDone := by cases sl <;> rfl
@[simp] theorem Group.setSlot_shipFar (g : Group) (sl : SlotId) (x : Slot) : (g.setSlot sl x).shipFar = g.shipFar := by cases sl <;> rfl
@[simp] theorem Group.setSlot_shipCls (g : Group) (sl : SlotId) (x : Slot) : (g.setSlot sl x).shipCls = g.shipCls := by cases sl <;> rfl
@[simp] theorem Group.setSlot_lockVa (g : Group) (sl : SlotId) (x : Slot) : (g.setSlot sl x).lockVa = g.lockVa := by cases sl <;> rfl
@[simp] theorem Group.setSlot_hold (g : Group) (sl : SlotId) (x : Slot) : (g.setSlot sl x).hold = g.hold := by cases sl <;> rfl
@[simp] theorem Group.setSlot_late (g : Group) (sl : SlotId) (x : Slot) : (g.setSlot sl x).late = g.late := by cases sl <;> rfl
@[simp] theorem Group.setSlot_rel (g : Group) (sl : SlotId) (x : Slot) : (g.setSlot sl x).rel = g.rel := by cases sl <;> rfl
@[simp] theorem Group.setSlot_relNodes (g : Group) (sl : SlotId) (x : Slot) : (g.setSlot sl x).relNodes = g.relNodes := by cases sl <;> rfl
@[simp] theorem Group.setSlot_relAt (g : Group) (sl : SlotId) (x : Slot) : (g.setSlot sl x).relAt = g.relAt := by cases sl <;> rfl
@[simp] theorem Group.setSlot_letGo (g : Group) (sl : SlotId) (x : Slot) : (g.setSlot sl x).letGo = g.letGo := by cases sl <;> rfl
@[simp] theorem Group.setSlot_fault (g : Group) (sl : SlotId) (x : Slot) : (g.setSlot sl x).fault = g.fault := by cases sl <;> rfl
@[simp] theorem Group.setSlot_halted (g : Group) (sl : SlotId) (x : Slot) : (g.setSlot sl x).halted = g.halted := by cases sl <;> rfl
@[simp] theorem Group.setSlot_stepSlot (g : Group) (sl : SlotId) (x : Slot) : (g.setSlot sl x).stepSlot = g.stepSlot := by cases sl <;> rfl
@[simp] theorem Group.setSlot_stepOver (g : Group) (sl : SlotId) (x : Slot) : (g.setSlot sl x).stepOver = g.stepOver := by cases sl <;> rfl
@[simp] theorem Group.setSlot_passBp (g : Group) (sl : SlotId) (x : Slot) : (g.setSlot sl x).passBp = g.passBp := by cases sl <;> rfl
@[simp] theorem Group.setSlot_service (g : Group) (sl : SlotId) (x : Slot) : (g.setSlot sl x).service = g.service := by cases sl <;> rfl
@[simp] theorem Group.setSlot_file (g : Group) (sl : SlotId) (x : Slot) : (g.setSlot sl x).file = g.file := by cases sl <;> rfl
@[simp] theorem Group.setSlot_since (g : Group) (sl : SlotId) (x : Slot) : (g.setSlot sl x).since = g.since := by cases sl <;> rfl
@[simp] theorem Group.setSlot_race (g : Group) (sl : SlotId) (x : Slot) : (g.setSlot sl x).race = g.race := by cases sl <;> rfl
@[simp] theorem Group.setSlot_sect (g : Group) (sl : SlotId) (x : Slot) : (g.setSlot sl x).sect = g.sect := by cases sl <;> rfl
@[simp] theorem Group.setV_live (g : Group) (r l : Nat) (w : PWord) : (g.setV r l w).live = g.live := rfl
@[simp] theorem Group.setV_ended (g : Group) (r l : Nat) (w : PWord) : (g.setV r l w).ended = g.ended := rfl
@[simp] theorem Group.setV_tag (g : Group) (r l : Nat) (w : PWord) : (g.setV r l w).tag = g.tag := rfl
@[simp] theorem Group.setV_gk (g : Group) (r l : Nat) (w : PWord) : (g.setV r l w).gk = g.gk := rfl
@[simp] theorem Group.setV_startGen (g : Group) (r l : Nat) (w : PWord) : (g.setV r l w).startGen = g.startGen := rfl
@[simp] theorem Group.setV_abit (g : Group) (r l : Nat) (w : PWord) : (g.setV r l w).abit = g.abit := rfl
@[simp] theorem Group.setV_team (g : Group) (r l : Nat) (w : PWord) : (g.setV r l w).team = g.team := rfl
@[simp] theorem Group.setV_gindex (g : Group) (r l : Nat) (w : PWord) : (g.setV r l w).gindex = g.gindex := rfl
@[simp] theorem Group.setV_ctx (g : Group) (r l : Nat) (w : PWord) : (g.setV r l w).ctx = g.ctx := rfl
@[simp] theorem Group.setV_s (g : Group) (r l : Nat) (w : PWord) : (g.setV r l w).s = g.s := rfl
@[simp] theorem Group.setV_p (g : Group) (r l : Nat) (w : PWord) : (g.setV r l w).p = g.p := rfl
@[simp] theorem Group.setV_x (g : Group) (r l : Nat) (w : PWord) : (g.setV r l w).x = g.x := rfl
@[simp] theorem Group.setV_vgran (g : Group) (r l : Nat) (w : PWord) : (g.setV r l w).vgran = g.vgran := rfl
@[simp] theorem Group.setV_slotA (g : Group) (r l : Nat) (w : PWord) : (g.setV r l w).slotA = g.slotA := rfl
@[simp] theorem Group.setV_slotB (g : Group) (r l : Nat) (w : PWord) : (g.setV r l w).slotB = g.slotB := rfl
@[simp] theorem Group.setV_flags (g : Group) (r l : Nat) (w : PWord) : (g.setV r l w).flags = g.flags := rfl
@[simp] theorem Group.setV_ops (g : Group) (r l : Nat) (w : PWord) : (g.setV r l w).ops = g.ops := rfl
@[simp] theorem Group.setV_rng (g : Group) (r l : Nat) (w : PWord) : (g.setV r l w).rng = g.rng := rfl
@[simp] theorem Group.setV_dsbase (g : Group) (r l : Nat) (w : PWord) : (g.setV r l w).dsbase = g.dsbase := rfl
@[simp] theorem Group.setV_dslim (g : Group) (r l : Nat) (w : PWord) : (g.setV r l w).dslim = g.dslim := rfl
@[simp] theorem Group.setV_spill (g : Group) (r l : Nat) (w : PWord) : (g.setV r l w).spill = g.spill := rfl
@[simp] theorem Group.setV_openBatch (g : Group) (r l : Nat) (w : PWord) : (g.setV r l w).openBatch = g.openBatch := rfl
@[simp] theorem Group.setV_lastBatch (g : Group) (r l : Nat) (w : PWord) : (g.setV r l w).lastBatch = g.lastBatch := rfl
@[simp] theorem Group.setV_sealed (g : Group) (r l : Nat) (w : PWord) : (g.setV r l w).sealed = g.sealed := rfl
@[simp] theorem Group.setV_batches (g : Group) (r l : Nat) (w : PWord) : (g.setV r l w).batches = g.batches := rfl
@[simp] theorem Group.setV_tokens (g : Group) (r l : Nat) (w : PWord) : (g.setV r l w).tokens = g.tokens := rfl
@[simp] theorem Group.setV_shipOut (g : Group) (r l : Nat) (w : PWord) : (g.setV r l w).shipOut = g.shipOut := rfl
@[simp] theorem Group.setV_shipFail (g : Group) (r l : Nat) (w : PWord) : (g.setV r l w).shipFail = g.shipFail := rfl
@[simp] theorem Group.setV_shipDone (g : Group) (r l : Nat) (w : PWord) : (g.setV r l w).shipDone = g.shipDone := rfl
@[simp] theorem Group.setV_shipFar (g : Group) (r l : Nat) (w : PWord) : (g.setV r l w).shipFar = g.shipFar := rfl
@[simp] theorem Group.setV_shipCls (g : Group) (r l : Nat) (w : PWord) : (g.setV r l w).shipCls = g.shipCls := rfl
@[simp] theorem Group.setV_lockVa (g : Group) (r l : Nat) (w : PWord) : (g.setV r l w).lockVa = g.lockVa := rfl
@[simp] theorem Group.setV_hold (g : Group) (r l : Nat) (w : PWord) : (g.setV r l w).hold = g.hold := rfl
@[simp] theorem Group.setV_late (g : Group) (r l : Nat) (w : PWord) : (g.setV r l w).late = g.late := rfl
@[simp] theorem Group.setV_rel (g : Group) (r l : Nat) (w : PWord) : (g.setV r l w).rel = g.rel := rfl
@[simp] theorem Group.setV_relNodes (g : Group) (r l : Nat) (w : PWord) : (g.setV r l w).relNodes = g.relNodes := rfl
@[simp] theorem Group.setV_relAt (g : Group) (r l : Nat) (w : PWord) : (g.setV r l w).relAt = g.relAt := rfl
@[simp] theorem Group.setV_letGo (g : Group) (r l : Nat) (w : PWord) : (g.setV r l w).letGo = g.letGo := rfl
@[simp] theorem Group.setV_fault (g : Group) (r l : Nat) (w : PWord) : (g.setV r l w).fault = g.fault := rfl
@[simp] theorem Group.setV_halted (g : Group) (r l : Nat) (w : PWord) : (g.setV r l w).halted = g.halted := rfl
@[simp] theorem Group.setV_stepSlot (g : Group) (r l : Nat) (w : PWord) : (g.setV r l w).stepSlot = g.stepSlot := rfl
@[simp] theorem Group.setV_stepOver (g : Group) (r l : Nat) (w : PWord) : (g.setV r l w).stepOver = g.stepOver := rfl
@[simp] theorem Group.setV_passBp (g : Group) (r l : Nat) (w : PWord) : (g.setV r l w).passBp = g.passBp := rfl
@[simp] theorem Group.setV_service (g : Group) (r l : Nat) (w : PWord) : (g.setV r l w).service = g.service := rfl
@[simp] theorem Group.setV_file (g : Group) (r l : Nat) (w : PWord) : (g.setV r l w).file = g.file := rfl
@[simp] theorem Group.setV_since (g : Group) (r l : Nat) (w : PWord) : (g.setV r l w).since = g.since := rfl
@[simp] theorem Group.setV_race (g : Group) (r l : Nat) (w : PWord) : (g.setV r l w).race = g.race := rfl
@[simp] theorem Group.setV_sect (g : Group) (r l : Nat) (w : PWord) : (g.setV r l w).sect = g.sect := rfl
@[simp] theorem Group.setS_live (g : Group) (r : Nat) (w : Dword) : (g.setS r w).live = g.live := rfl
@[simp] theorem Group.setS_ended (g : Group) (r : Nat) (w : Dword) : (g.setS r w).ended = g.ended := rfl
@[simp] theorem Group.setS_tag (g : Group) (r : Nat) (w : Dword) : (g.setS r w).tag = g.tag := rfl
@[simp] theorem Group.setS_gk (g : Group) (r : Nat) (w : Dword) : (g.setS r w).gk = g.gk := rfl
@[simp] theorem Group.setS_startGen (g : Group) (r : Nat) (w : Dword) : (g.setS r w).startGen = g.startGen := rfl
@[simp] theorem Group.setS_abit (g : Group) (r : Nat) (w : Dword) : (g.setS r w).abit = g.abit := rfl
@[simp] theorem Group.setS_team (g : Group) (r : Nat) (w : Dword) : (g.setS r w).team = g.team := rfl
@[simp] theorem Group.setS_gindex (g : Group) (r : Nat) (w : Dword) : (g.setS r w).gindex = g.gindex := rfl
@[simp] theorem Group.setS_ctx (g : Group) (r : Nat) (w : Dword) : (g.setS r w).ctx = g.ctx := rfl
@[simp] theorem Group.setS_v (g : Group) (r : Nat) (w : Dword) : (g.setS r w).v = g.v := rfl
@[simp] theorem Group.setS_p (g : Group) (r : Nat) (w : Dword) : (g.setS r w).p = g.p := rfl
@[simp] theorem Group.setS_x (g : Group) (r : Nat) (w : Dword) : (g.setS r w).x = g.x := rfl
@[simp] theorem Group.setS_vgran (g : Group) (r : Nat) (w : Dword) : (g.setS r w).vgran = g.vgran := rfl
@[simp] theorem Group.setS_slotA (g : Group) (r : Nat) (w : Dword) : (g.setS r w).slotA = g.slotA := rfl
@[simp] theorem Group.setS_slotB (g : Group) (r : Nat) (w : Dword) : (g.setS r w).slotB = g.slotB := rfl
@[simp] theorem Group.setS_flags (g : Group) (r : Nat) (w : Dword) : (g.setS r w).flags = g.flags := rfl
@[simp] theorem Group.setS_ops (g : Group) (r : Nat) (w : Dword) : (g.setS r w).ops = g.ops := rfl
@[simp] theorem Group.setS_rng (g : Group) (r : Nat) (w : Dword) : (g.setS r w).rng = g.rng := rfl
@[simp] theorem Group.setS_dsbase (g : Group) (r : Nat) (w : Dword) : (g.setS r w).dsbase = g.dsbase := rfl
@[simp] theorem Group.setS_dslim (g : Group) (r : Nat) (w : Dword) : (g.setS r w).dslim = g.dslim := rfl
@[simp] theorem Group.setS_spill (g : Group) (r : Nat) (w : Dword) : (g.setS r w).spill = g.spill := rfl
@[simp] theorem Group.setS_openBatch (g : Group) (r : Nat) (w : Dword) : (g.setS r w).openBatch = g.openBatch := rfl
@[simp] theorem Group.setS_lastBatch (g : Group) (r : Nat) (w : Dword) : (g.setS r w).lastBatch = g.lastBatch := rfl
@[simp] theorem Group.setS_sealed (g : Group) (r : Nat) (w : Dword) : (g.setS r w).sealed = g.sealed := rfl
@[simp] theorem Group.setS_batches (g : Group) (r : Nat) (w : Dword) : (g.setS r w).batches = g.batches := rfl
@[simp] theorem Group.setS_tokens (g : Group) (r : Nat) (w : Dword) : (g.setS r w).tokens = g.tokens := rfl
@[simp] theorem Group.setS_shipOut (g : Group) (r : Nat) (w : Dword) : (g.setS r w).shipOut = g.shipOut := rfl
@[simp] theorem Group.setS_shipFail (g : Group) (r : Nat) (w : Dword) : (g.setS r w).shipFail = g.shipFail := rfl
@[simp] theorem Group.setS_shipDone (g : Group) (r : Nat) (w : Dword) : (g.setS r w).shipDone = g.shipDone := rfl
@[simp] theorem Group.setS_shipFar (g : Group) (r : Nat) (w : Dword) : (g.setS r w).shipFar = g.shipFar := rfl
@[simp] theorem Group.setS_shipCls (g : Group) (r : Nat) (w : Dword) : (g.setS r w).shipCls = g.shipCls := rfl
@[simp] theorem Group.setS_lockVa (g : Group) (r : Nat) (w : Dword) : (g.setS r w).lockVa = g.lockVa := rfl
@[simp] theorem Group.setS_hold (g : Group) (r : Nat) (w : Dword) : (g.setS r w).hold = g.hold := rfl
@[simp] theorem Group.setS_late (g : Group) (r : Nat) (w : Dword) : (g.setS r w).late = g.late := rfl
@[simp] theorem Group.setS_rel (g : Group) (r : Nat) (w : Dword) : (g.setS r w).rel = g.rel := rfl
@[simp] theorem Group.setS_relNodes (g : Group) (r : Nat) (w : Dword) : (g.setS r w).relNodes = g.relNodes := rfl
@[simp] theorem Group.setS_relAt (g : Group) (r : Nat) (w : Dword) : (g.setS r w).relAt = g.relAt := rfl
@[simp] theorem Group.setS_letGo (g : Group) (r : Nat) (w : Dword) : (g.setS r w).letGo = g.letGo := rfl
@[simp] theorem Group.setS_fault (g : Group) (r : Nat) (w : Dword) : (g.setS r w).fault = g.fault := rfl
@[simp] theorem Group.setS_halted (g : Group) (r : Nat) (w : Dword) : (g.setS r w).halted = g.halted := rfl
@[simp] theorem Group.setS_stepSlot (g : Group) (r : Nat) (w : Dword) : (g.setS r w).stepSlot = g.stepSlot := rfl
@[simp] theorem Group.setS_stepOver (g : Group) (r : Nat) (w : Dword) : (g.setS r w).stepOver = g.stepOver := rfl
@[simp] theorem Group.setS_passBp (g : Group) (r : Nat) (w : Dword) : (g.setS r w).passBp = g.passBp := rfl
@[simp] theorem Group.setS_service (g : Group) (r : Nat) (w : Dword) : (g.setS r w).service = g.service := rfl
@[simp] theorem Group.setS_file (g : Group) (r : Nat) (w : Dword) : (g.setS r w).file = g.file := rfl
@[simp] theorem Group.setS_since (g : Group) (r : Nat) (w : Dword) : (g.setS r w).since = g.since := rfl
@[simp] theorem Group.setS_race (g : Group) (r : Nat) (w : Dword) : (g.setS r w).race = g.race := rfl
@[simp] theorem Group.setS_sect (g : Group) (r : Nat) (w : Dword) : (g.setS r w).sect = g.sect := rfl
@[simp] theorem Group.setX_live (g : Group) (r : Nat) (w : XReg) : (g.setX r w).live = g.live := rfl
@[simp] theorem Group.setX_ended (g : Group) (r : Nat) (w : XReg) : (g.setX r w).ended = g.ended := rfl
@[simp] theorem Group.setX_tag (g : Group) (r : Nat) (w : XReg) : (g.setX r w).tag = g.tag := rfl
@[simp] theorem Group.setX_gk (g : Group) (r : Nat) (w : XReg) : (g.setX r w).gk = g.gk := rfl
@[simp] theorem Group.setX_startGen (g : Group) (r : Nat) (w : XReg) : (g.setX r w).startGen = g.startGen := rfl
@[simp] theorem Group.setX_abit (g : Group) (r : Nat) (w : XReg) : (g.setX r w).abit = g.abit := rfl
@[simp] theorem Group.setX_team (g : Group) (r : Nat) (w : XReg) : (g.setX r w).team = g.team := rfl
@[simp] theorem Group.setX_gindex (g : Group) (r : Nat) (w : XReg) : (g.setX r w).gindex = g.gindex := rfl
@[simp] theorem Group.setX_ctx (g : Group) (r : Nat) (w : XReg) : (g.setX r w).ctx = g.ctx := rfl
@[simp] theorem Group.setX_v (g : Group) (r : Nat) (w : XReg) : (g.setX r w).v = g.v := rfl
@[simp] theorem Group.setX_s (g : Group) (r : Nat) (w : XReg) : (g.setX r w).s = g.s := rfl
@[simp] theorem Group.setX_p (g : Group) (r : Nat) (w : XReg) : (g.setX r w).p = g.p := rfl
@[simp] theorem Group.setX_vgran (g : Group) (r : Nat) (w : XReg) : (g.setX r w).vgran = g.vgran := rfl
@[simp] theorem Group.setX_slotA (g : Group) (r : Nat) (w : XReg) : (g.setX r w).slotA = g.slotA := rfl
@[simp] theorem Group.setX_slotB (g : Group) (r : Nat) (w : XReg) : (g.setX r w).slotB = g.slotB := rfl
@[simp] theorem Group.setX_flags (g : Group) (r : Nat) (w : XReg) : (g.setX r w).flags = g.flags := rfl
@[simp] theorem Group.setX_ops (g : Group) (r : Nat) (w : XReg) : (g.setX r w).ops = g.ops := rfl
@[simp] theorem Group.setX_rng (g : Group) (r : Nat) (w : XReg) : (g.setX r w).rng = g.rng := rfl
@[simp] theorem Group.setX_dsbase (g : Group) (r : Nat) (w : XReg) : (g.setX r w).dsbase = g.dsbase := rfl
@[simp] theorem Group.setX_dslim (g : Group) (r : Nat) (w : XReg) : (g.setX r w).dslim = g.dslim := rfl
@[simp] theorem Group.setX_spill (g : Group) (r : Nat) (w : XReg) : (g.setX r w).spill = g.spill := rfl
@[simp] theorem Group.setX_openBatch (g : Group) (r : Nat) (w : XReg) : (g.setX r w).openBatch = g.openBatch := rfl
@[simp] theorem Group.setX_lastBatch (g : Group) (r : Nat) (w : XReg) : (g.setX r w).lastBatch = g.lastBatch := rfl
@[simp] theorem Group.setX_sealed (g : Group) (r : Nat) (w : XReg) : (g.setX r w).sealed = g.sealed := rfl
@[simp] theorem Group.setX_batches (g : Group) (r : Nat) (w : XReg) : (g.setX r w).batches = g.batches := rfl
@[simp] theorem Group.setX_tokens (g : Group) (r : Nat) (w : XReg) : (g.setX r w).tokens = g.tokens := rfl
@[simp] theorem Group.setX_shipOut (g : Group) (r : Nat) (w : XReg) : (g.setX r w).shipOut = g.shipOut := rfl
@[simp] theorem Group.setX_shipFail (g : Group) (r : Nat) (w : XReg) : (g.setX r w).shipFail = g.shipFail := rfl
@[simp] theorem Group.setX_shipDone (g : Group) (r : Nat) (w : XReg) : (g.setX r w).shipDone = g.shipDone := rfl
@[simp] theorem Group.setX_shipFar (g : Group) (r : Nat) (w : XReg) : (g.setX r w).shipFar = g.shipFar := rfl
@[simp] theorem Group.setX_shipCls (g : Group) (r : Nat) (w : XReg) : (g.setX r w).shipCls = g.shipCls := rfl
@[simp] theorem Group.setX_lockVa (g : Group) (r : Nat) (w : XReg) : (g.setX r w).lockVa = g.lockVa := rfl
@[simp] theorem Group.setX_hold (g : Group) (r : Nat) (w : XReg) : (g.setX r w).hold = g.hold := rfl
@[simp] theorem Group.setX_late (g : Group) (r : Nat) (w : XReg) : (g.setX r w).late = g.late := rfl
@[simp] theorem Group.setX_rel (g : Group) (r : Nat) (w : XReg) : (g.setX r w).rel = g.rel := rfl
@[simp] theorem Group.setX_relNodes (g : Group) (r : Nat) (w : XReg) : (g.setX r w).relNodes = g.relNodes := rfl
@[simp] theorem Group.setX_relAt (g : Group) (r : Nat) (w : XReg) : (g.setX r w).relAt = g.relAt := rfl
@[simp] theorem Group.setX_letGo (g : Group) (r : Nat) (w : XReg) : (g.setX r w).letGo = g.letGo := rfl
@[simp] theorem Group.setX_fault (g : Group) (r : Nat) (w : XReg) : (g.setX r w).fault = g.fault := rfl
@[simp] theorem Group.setX_halted (g : Group) (r : Nat) (w : XReg) : (g.setX r w).halted = g.halted := rfl
@[simp] theorem Group.setX_stepSlot (g : Group) (r : Nat) (w : XReg) : (g.setX r w).stepSlot = g.stepSlot := rfl
@[simp] theorem Group.setX_stepOver (g : Group) (r : Nat) (w : XReg) : (g.setX r w).stepOver = g.stepOver := rfl
@[simp] theorem Group.setX_passBp (g : Group) (r : Nat) (w : XReg) : (g.setX r w).passBp = g.passBp := rfl
@[simp] theorem Group.setX_service (g : Group) (r : Nat) (w : XReg) : (g.setX r w).service = g.service := rfl
@[simp] theorem Group.setX_file (g : Group) (r : Nat) (w : XReg) : (g.setX r w).file = g.file := rfl
@[simp] theorem Group.setX_since (g : Group) (r : Nat) (w : XReg) : (g.setX r w).since = g.since := rfl
@[simp] theorem Group.setX_race (g : Group) (r : Nat) (w : XReg) : (g.setX r w).race = g.race := rfl
@[simp] theorem Group.setX_sect (g : Group) (r : Nat) (w : XReg) : (g.setX r w).sect = g.sect := rfl
@[simp] theorem Group.setP_live (g : Group) (n : Nat) (w : PWord) : (g.setP n w).live = g.live := by unfold Group.setP; split <;> rfl
@[simp] theorem Group.setP_ended (g : Group) (n : Nat) (w : PWord) : (g.setP n w).ended = g.ended := by unfold Group.setP; split <;> rfl
@[simp] theorem Group.setP_tag (g : Group) (n : Nat) (w : PWord) : (g.setP n w).tag = g.tag := by unfold Group.setP; split <;> rfl
@[simp] theorem Group.setP_gk (g : Group) (n : Nat) (w : PWord) : (g.setP n w).gk = g.gk := by unfold Group.setP; split <;> rfl
@[simp] theorem Group.setP_startGen (g : Group) (n : Nat) (w : PWord) : (g.setP n w).startGen = g.startGen := by unfold Group.setP; split <;> rfl
@[simp] theorem Group.setP_abit (g : Group) (n : Nat) (w : PWord) : (g.setP n w).abit = g.abit := by unfold Group.setP; split <;> rfl
@[simp] theorem Group.setP_team (g : Group) (n : Nat) (w : PWord) : (g.setP n w).team = g.team := by unfold Group.setP; split <;> rfl
@[simp] theorem Group.setP_gindex (g : Group) (n : Nat) (w : PWord) : (g.setP n w).gindex = g.gindex := by unfold Group.setP; split <;> rfl
@[simp] theorem Group.setP_ctx (g : Group) (n : Nat) (w : PWord) : (g.setP n w).ctx = g.ctx := by unfold Group.setP; split <;> rfl
@[simp] theorem Group.setP_v (g : Group) (n : Nat) (w : PWord) : (g.setP n w).v = g.v := by unfold Group.setP; split <;> rfl
@[simp] theorem Group.setP_s (g : Group) (n : Nat) (w : PWord) : (g.setP n w).s = g.s := by unfold Group.setP; split <;> rfl
@[simp] theorem Group.setP_x (g : Group) (n : Nat) (w : PWord) : (g.setP n w).x = g.x := by unfold Group.setP; split <;> rfl
@[simp] theorem Group.setP_vgran (g : Group) (n : Nat) (w : PWord) : (g.setP n w).vgran = g.vgran := by unfold Group.setP; split <;> rfl
@[simp] theorem Group.setP_slotA (g : Group) (n : Nat) (w : PWord) : (g.setP n w).slotA = g.slotA := by unfold Group.setP; split <;> rfl
@[simp] theorem Group.setP_slotB (g : Group) (n : Nat) (w : PWord) : (g.setP n w).slotB = g.slotB := by unfold Group.setP; split <;> rfl
@[simp] theorem Group.setP_flags (g : Group) (n : Nat) (w : PWord) : (g.setP n w).flags = g.flags := by unfold Group.setP; split <;> rfl
@[simp] theorem Group.setP_ops (g : Group) (n : Nat) (w : PWord) : (g.setP n w).ops = g.ops := by unfold Group.setP; split <;> rfl
@[simp] theorem Group.setP_rng (g : Group) (n : Nat) (w : PWord) : (g.setP n w).rng = g.rng := by unfold Group.setP; split <;> rfl
@[simp] theorem Group.setP_dsbase (g : Group) (n : Nat) (w : PWord) : (g.setP n w).dsbase = g.dsbase := by unfold Group.setP; split <;> rfl
@[simp] theorem Group.setP_dslim (g : Group) (n : Nat) (w : PWord) : (g.setP n w).dslim = g.dslim := by unfold Group.setP; split <;> rfl
@[simp] theorem Group.setP_spill (g : Group) (n : Nat) (w : PWord) : (g.setP n w).spill = g.spill := by unfold Group.setP; split <;> rfl
@[simp] theorem Group.setP_openBatch (g : Group) (n : Nat) (w : PWord) : (g.setP n w).openBatch = g.openBatch := by unfold Group.setP; split <;> rfl
@[simp] theorem Group.setP_lastBatch (g : Group) (n : Nat) (w : PWord) : (g.setP n w).lastBatch = g.lastBatch := by unfold Group.setP; split <;> rfl
@[simp] theorem Group.setP_sealed (g : Group) (n : Nat) (w : PWord) : (g.setP n w).sealed = g.sealed := by unfold Group.setP; split <;> rfl
@[simp] theorem Group.setP_batches (g : Group) (n : Nat) (w : PWord) : (g.setP n w).batches = g.batches := by unfold Group.setP; split <;> rfl
@[simp] theorem Group.setP_tokens (g : Group) (n : Nat) (w : PWord) : (g.setP n w).tokens = g.tokens := by unfold Group.setP; split <;> rfl
@[simp] theorem Group.setP_shipOut (g : Group) (n : Nat) (w : PWord) : (g.setP n w).shipOut = g.shipOut := by unfold Group.setP; split <;> rfl
@[simp] theorem Group.setP_shipFail (g : Group) (n : Nat) (w : PWord) : (g.setP n w).shipFail = g.shipFail := by unfold Group.setP; split <;> rfl
@[simp] theorem Group.setP_shipDone (g : Group) (n : Nat) (w : PWord) : (g.setP n w).shipDone = g.shipDone := by unfold Group.setP; split <;> rfl
@[simp] theorem Group.setP_shipFar (g : Group) (n : Nat) (w : PWord) : (g.setP n w).shipFar = g.shipFar := by unfold Group.setP; split <;> rfl
@[simp] theorem Group.setP_shipCls (g : Group) (n : Nat) (w : PWord) : (g.setP n w).shipCls = g.shipCls := by unfold Group.setP; split <;> rfl
@[simp] theorem Group.setP_lockVa (g : Group) (n : Nat) (w : PWord) : (g.setP n w).lockVa = g.lockVa := by unfold Group.setP; split <;> rfl
@[simp] theorem Group.setP_hold (g : Group) (n : Nat) (w : PWord) : (g.setP n w).hold = g.hold := by unfold Group.setP; split <;> rfl
@[simp] theorem Group.setP_late (g : Group) (n : Nat) (w : PWord) : (g.setP n w).late = g.late := by unfold Group.setP; split <;> rfl
@[simp] theorem Group.setP_rel (g : Group) (n : Nat) (w : PWord) : (g.setP n w).rel = g.rel := by unfold Group.setP; split <;> rfl
@[simp] theorem Group.setP_relNodes (g : Group) (n : Nat) (w : PWord) : (g.setP n w).relNodes = g.relNodes := by unfold Group.setP; split <;> rfl
@[simp] theorem Group.setP_relAt (g : Group) (n : Nat) (w : PWord) : (g.setP n w).relAt = g.relAt := by unfold Group.setP; split <;> rfl
@[simp] theorem Group.setP_letGo (g : Group) (n : Nat) (w : PWord) : (g.setP n w).letGo = g.letGo := by unfold Group.setP; split <;> rfl
@[simp] theorem Group.setP_fault (g : Group) (n : Nat) (w : PWord) : (g.setP n w).fault = g.fault := by unfold Group.setP; split <;> rfl
@[simp] theorem Group.setP_halted (g : Group) (n : Nat) (w : PWord) : (g.setP n w).halted = g.halted := by unfold Group.setP; split <;> rfl
@[simp] theorem Group.setP_stepSlot (g : Group) (n : Nat) (w : PWord) : (g.setP n w).stepSlot = g.stepSlot := by unfold Group.setP; split <;> rfl
@[simp] theorem Group.setP_stepOver (g : Group) (n : Nat) (w : PWord) : (g.setP n w).stepOver = g.stepOver := by unfold Group.setP; split <;> rfl
@[simp] theorem Group.setP_passBp (g : Group) (n : Nat) (w : PWord) : (g.setP n w).passBp = g.passBp := by unfold Group.setP; split <;> rfl
@[simp] theorem Group.setP_service (g : Group) (n : Nat) (w : PWord) : (g.setP n w).service = g.service := by unfold Group.setP; split <;> rfl
@[simp] theorem Group.setP_file (g : Group) (n : Nat) (w : PWord) : (g.setP n w).file = g.file := by unfold Group.setP; split <;> rfl
@[simp] theorem Group.setP_since (g : Group) (n : Nat) (w : PWord) : (g.setP n w).since = g.since := by unfold Group.setP; split <;> rfl
@[simp] theorem Group.setP_race (g : Group) (n : Nat) (w : PWord) : (g.setP n w).race = g.race := by unfold Group.setP; split <;> rfl
@[simp] theorem Group.setP_sect (g : Group) (n : Nat) (w : PWord) : (g.setP n w).sect = g.sect := by unfold Group.setP; split <;> rfl
@[simp] theorem Group.setVs_live (g : Group) (r : Nat) (ws : List (Nat × Word)) : (g.setVs r ws).live = g.live := by
  induction ws generalizing g with
  | nil => rfl
  | cons e ws ih => exact (ih _).trans rfl
@[simp] theorem Group.setVs_ended (g : Group) (r : Nat) (ws : List (Nat × Word)) : (g.setVs r ws).ended = g.ended := by
  induction ws generalizing g with
  | nil => rfl
  | cons e ws ih => exact (ih _).trans rfl
@[simp] theorem Group.setVs_tag (g : Group) (r : Nat) (ws : List (Nat × Word)) : (g.setVs r ws).tag = g.tag := by
  induction ws generalizing g with
  | nil => rfl
  | cons e ws ih => exact (ih _).trans rfl
@[simp] theorem Group.setVs_gk (g : Group) (r : Nat) (ws : List (Nat × Word)) : (g.setVs r ws).gk = g.gk := by
  induction ws generalizing g with
  | nil => rfl
  | cons e ws ih => exact (ih _).trans rfl
@[simp] theorem Group.setVs_startGen (g : Group) (r : Nat) (ws : List (Nat × Word)) : (g.setVs r ws).startGen = g.startGen := by
  induction ws generalizing g with
  | nil => rfl
  | cons e ws ih => exact (ih _).trans rfl
@[simp] theorem Group.setVs_abit (g : Group) (r : Nat) (ws : List (Nat × Word)) : (g.setVs r ws).abit = g.abit := by
  induction ws generalizing g with
  | nil => rfl
  | cons e ws ih => exact (ih _).trans rfl
@[simp] theorem Group.setVs_team (g : Group) (r : Nat) (ws : List (Nat × Word)) : (g.setVs r ws).team = g.team := by
  induction ws generalizing g with
  | nil => rfl
  | cons e ws ih => exact (ih _).trans rfl
@[simp] theorem Group.setVs_gindex (g : Group) (r : Nat) (ws : List (Nat × Word)) : (g.setVs r ws).gindex = g.gindex := by
  induction ws generalizing g with
  | nil => rfl
  | cons e ws ih => exact (ih _).trans rfl
@[simp] theorem Group.setVs_ctx (g : Group) (r : Nat) (ws : List (Nat × Word)) : (g.setVs r ws).ctx = g.ctx := by
  induction ws generalizing g with
  | nil => rfl
  | cons e ws ih => exact (ih _).trans rfl
@[simp] theorem Group.setVs_s (g : Group) (r : Nat) (ws : List (Nat × Word)) : (g.setVs r ws).s = g.s := by
  induction ws generalizing g with
  | nil => rfl
  | cons e ws ih => exact (ih _).trans rfl
@[simp] theorem Group.setVs_p (g : Group) (r : Nat) (ws : List (Nat × Word)) : (g.setVs r ws).p = g.p := by
  induction ws generalizing g with
  | nil => rfl
  | cons e ws ih => exact (ih _).trans rfl
@[simp] theorem Group.setVs_x (g : Group) (r : Nat) (ws : List (Nat × Word)) : (g.setVs r ws).x = g.x := by
  induction ws generalizing g with
  | nil => rfl
  | cons e ws ih => exact (ih _).trans rfl
@[simp] theorem Group.setVs_vgran (g : Group) (r : Nat) (ws : List (Nat × Word)) : (g.setVs r ws).vgran = g.vgran := by
  induction ws generalizing g with
  | nil => rfl
  | cons e ws ih => exact (ih _).trans rfl
@[simp] theorem Group.setVs_slotA (g : Group) (r : Nat) (ws : List (Nat × Word)) : (g.setVs r ws).slotA = g.slotA := by
  induction ws generalizing g with
  | nil => rfl
  | cons e ws ih => exact (ih _).trans rfl
@[simp] theorem Group.setVs_slotB (g : Group) (r : Nat) (ws : List (Nat × Word)) : (g.setVs r ws).slotB = g.slotB := by
  induction ws generalizing g with
  | nil => rfl
  | cons e ws ih => exact (ih _).trans rfl
@[simp] theorem Group.setVs_flags (g : Group) (r : Nat) (ws : List (Nat × Word)) : (g.setVs r ws).flags = g.flags := by
  induction ws generalizing g with
  | nil => rfl
  | cons e ws ih => exact (ih _).trans rfl
@[simp] theorem Group.setVs_ops (g : Group) (r : Nat) (ws : List (Nat × Word)) : (g.setVs r ws).ops = g.ops := by
  induction ws generalizing g with
  | nil => rfl
  | cons e ws ih => exact (ih _).trans rfl
@[simp] theorem Group.setVs_rng (g : Group) (r : Nat) (ws : List (Nat × Word)) : (g.setVs r ws).rng = g.rng := by
  induction ws generalizing g with
  | nil => rfl
  | cons e ws ih => exact (ih _).trans rfl
@[simp] theorem Group.setVs_dsbase (g : Group) (r : Nat) (ws : List (Nat × Word)) : (g.setVs r ws).dsbase = g.dsbase := by
  induction ws generalizing g with
  | nil => rfl
  | cons e ws ih => exact (ih _).trans rfl
@[simp] theorem Group.setVs_dslim (g : Group) (r : Nat) (ws : List (Nat × Word)) : (g.setVs r ws).dslim = g.dslim := by
  induction ws generalizing g with
  | nil => rfl
  | cons e ws ih => exact (ih _).trans rfl
@[simp] theorem Group.setVs_spill (g : Group) (r : Nat) (ws : List (Nat × Word)) : (g.setVs r ws).spill = g.spill := by
  induction ws generalizing g with
  | nil => rfl
  | cons e ws ih => exact (ih _).trans rfl
@[simp] theorem Group.setVs_openBatch (g : Group) (r : Nat) (ws : List (Nat × Word)) : (g.setVs r ws).openBatch = g.openBatch := by
  induction ws generalizing g with
  | nil => rfl
  | cons e ws ih => exact (ih _).trans rfl
@[simp] theorem Group.setVs_lastBatch (g : Group) (r : Nat) (ws : List (Nat × Word)) : (g.setVs r ws).lastBatch = g.lastBatch := by
  induction ws generalizing g with
  | nil => rfl
  | cons e ws ih => exact (ih _).trans rfl
@[simp] theorem Group.setVs_sealed (g : Group) (r : Nat) (ws : List (Nat × Word)) : (g.setVs r ws).sealed = g.sealed := by
  induction ws generalizing g with
  | nil => rfl
  | cons e ws ih => exact (ih _).trans rfl
@[simp] theorem Group.setVs_batches (g : Group) (r : Nat) (ws : List (Nat × Word)) : (g.setVs r ws).batches = g.batches := by
  induction ws generalizing g with
  | nil => rfl
  | cons e ws ih => exact (ih _).trans rfl
@[simp] theorem Group.setVs_tokens (g : Group) (r : Nat) (ws : List (Nat × Word)) : (g.setVs r ws).tokens = g.tokens := by
  induction ws generalizing g with
  | nil => rfl
  | cons e ws ih => exact (ih _).trans rfl
@[simp] theorem Group.setVs_shipOut (g : Group) (r : Nat) (ws : List (Nat × Word)) : (g.setVs r ws).shipOut = g.shipOut := by
  induction ws generalizing g with
  | nil => rfl
  | cons e ws ih => exact (ih _).trans rfl
@[simp] theorem Group.setVs_shipFail (g : Group) (r : Nat) (ws : List (Nat × Word)) : (g.setVs r ws).shipFail = g.shipFail := by
  induction ws generalizing g with
  | nil => rfl
  | cons e ws ih => exact (ih _).trans rfl
@[simp] theorem Group.setVs_shipDone (g : Group) (r : Nat) (ws : List (Nat × Word)) : (g.setVs r ws).shipDone = g.shipDone := by
  induction ws generalizing g with
  | nil => rfl
  | cons e ws ih => exact (ih _).trans rfl
@[simp] theorem Group.setVs_shipFar (g : Group) (r : Nat) (ws : List (Nat × Word)) : (g.setVs r ws).shipFar = g.shipFar := by
  induction ws generalizing g with
  | nil => rfl
  | cons e ws ih => exact (ih _).trans rfl
@[simp] theorem Group.setVs_shipCls (g : Group) (r : Nat) (ws : List (Nat × Word)) : (g.setVs r ws).shipCls = g.shipCls := by
  induction ws generalizing g with
  | nil => rfl
  | cons e ws ih => exact (ih _).trans rfl
@[simp] theorem Group.setVs_lockVa (g : Group) (r : Nat) (ws : List (Nat × Word)) : (g.setVs r ws).lockVa = g.lockVa := by
  induction ws generalizing g with
  | nil => rfl
  | cons e ws ih => exact (ih _).trans rfl
@[simp] theorem Group.setVs_hold (g : Group) (r : Nat) (ws : List (Nat × Word)) : (g.setVs r ws).hold = g.hold := by
  induction ws generalizing g with
  | nil => rfl
  | cons e ws ih => exact (ih _).trans rfl
@[simp] theorem Group.setVs_late (g : Group) (r : Nat) (ws : List (Nat × Word)) : (g.setVs r ws).late = g.late := by
  induction ws generalizing g with
  | nil => rfl
  | cons e ws ih => exact (ih _).trans rfl
@[simp] theorem Group.setVs_rel (g : Group) (r : Nat) (ws : List (Nat × Word)) : (g.setVs r ws).rel = g.rel := by
  induction ws generalizing g with
  | nil => rfl
  | cons e ws ih => exact (ih _).trans rfl
@[simp] theorem Group.setVs_relNodes (g : Group) (r : Nat) (ws : List (Nat × Word)) : (g.setVs r ws).relNodes = g.relNodes := by
  induction ws generalizing g with
  | nil => rfl
  | cons e ws ih => exact (ih _).trans rfl
@[simp] theorem Group.setVs_relAt (g : Group) (r : Nat) (ws : List (Nat × Word)) : (g.setVs r ws).relAt = g.relAt := by
  induction ws generalizing g with
  | nil => rfl
  | cons e ws ih => exact (ih _).trans rfl
@[simp] theorem Group.setVs_letGo (g : Group) (r : Nat) (ws : List (Nat × Word)) : (g.setVs r ws).letGo = g.letGo := by
  induction ws generalizing g with
  | nil => rfl
  | cons e ws ih => exact (ih _).trans rfl
@[simp] theorem Group.setVs_fault (g : Group) (r : Nat) (ws : List (Nat × Word)) : (g.setVs r ws).fault = g.fault := by
  induction ws generalizing g with
  | nil => rfl
  | cons e ws ih => exact (ih _).trans rfl
@[simp] theorem Group.setVs_halted (g : Group) (r : Nat) (ws : List (Nat × Word)) : (g.setVs r ws).halted = g.halted := by
  induction ws generalizing g with
  | nil => rfl
  | cons e ws ih => exact (ih _).trans rfl
@[simp] theorem Group.setVs_stepSlot (g : Group) (r : Nat) (ws : List (Nat × Word)) : (g.setVs r ws).stepSlot = g.stepSlot := by
  induction ws generalizing g with
  | nil => rfl
  | cons e ws ih => exact (ih _).trans rfl
@[simp] theorem Group.setVs_stepOver (g : Group) (r : Nat) (ws : List (Nat × Word)) : (g.setVs r ws).stepOver = g.stepOver := by
  induction ws generalizing g with
  | nil => rfl
  | cons e ws ih => exact (ih _).trans rfl
@[simp] theorem Group.setVs_passBp (g : Group) (r : Nat) (ws : List (Nat × Word)) : (g.setVs r ws).passBp = g.passBp := by
  induction ws generalizing g with
  | nil => rfl
  | cons e ws ih => exact (ih _).trans rfl
@[simp] theorem Group.setVs_service (g : Group) (r : Nat) (ws : List (Nat × Word)) : (g.setVs r ws).service = g.service := by
  induction ws generalizing g with
  | nil => rfl
  | cons e ws ih => exact (ih _).trans rfl
@[simp] theorem Group.setVs_file (g : Group) (r : Nat) (ws : List (Nat × Word)) : (g.setVs r ws).file = g.file := by
  induction ws generalizing g with
  | nil => rfl
  | cons e ws ih => exact (ih _).trans rfl
@[simp] theorem Group.setVs_since (g : Group) (r : Nat) (ws : List (Nat × Word)) : (g.setVs r ws).since = g.since := by
  induction ws generalizing g with
  | nil => rfl
  | cons e ws ih => exact (ih _).trans rfl
@[simp] theorem Group.setVs_race (g : Group) (r : Nat) (ws : List (Nat × Word)) : (g.setVs r ws).race = g.race := by
  induction ws generalizing g with
  | nil => rfl
  | cons e ws ih => exact (ih _).trans rfl
@[simp] theorem Group.setVs_sect (g : Group) (r : Nat) (ws : List (Nat × Word)) : (g.setVs r ws).sect = g.sect := by
  induction ws generalizing g with
  | nil => rfl
  | cons e ws ih => exact (ih _).trans rfl

@[simp] theorem Slot.past_state (x : Slot) : x.past.state = x.state := by unfold Slot.past; (repeat' split) <;> rfl
@[simp] theorem Slot.past_mask (x : Slot) : x.past.mask = x.mask := by unfold Slot.past; (repeat' split) <;> rfl
@[simp] theorem Slot.past_gm (x : Slot) : x.past.gm = x.gm := by unfold Slot.past; (repeat' split) <;> rfl
@[simp] theorem Slot.past_gmPoison (x : Slot) : x.past.gmPoison = x.gmPoison := by unfold Slot.past; (repeat' split) <;> rfl
@[simp] theorem Slot.past_cc (x : Slot) : x.past.cc = x.cc := by unfold Slot.past; (repeat' split) <;> rfl
@[simp] theorem Slot.past_own (x : Slot) : x.past.own = x.own := by unfold Slot.past; (repeat' split) <;> rfl
@[simp] theorem Slot.past_seen (x : Slot) : x.past.seen = x.seen := by unfold Slot.past; (repeat' split) <;> rfl
@[simp] theorem Slot.past_pc (x : Slot) : x.past.pc = x.pc + 4 := by unfold Slot.past; (repeat' split) <;> rfl
@[simp] theorem Slot.goto_state (x : Slot) (t : Addr) : (x.goto t).state = x.state := rfl
@[simp] theorem Slot.goto_mask (x : Slot) (t : Addr) : (x.goto t).mask = x.mask := rfl
@[simp] theorem Slot.goto_gm (x : Slot) (t : Addr) : (x.goto t).gm = x.gm := rfl
@[simp] theorem Slot.goto_gmPoison (x : Slot) (t : Addr) : (x.goto t).gmPoison = x.gmPoison := rfl
@[simp] theorem Slot.goto_cc (x : Slot) (t : Addr) : (x.goto t).cc = x.cc := rfl
@[simp] theorem Slot.goto_own (x : Slot) (t : Addr) : (x.goto t).own = x.own := rfl
@[simp] theorem Slot.goto_seen (x : Slot) (t : Addr) : (x.goto t).seen = x.seen := rfl
@[simp] theorem Slot.goto_pc (x : Slot) (t : Addr) : (x.goto t).pc = t := rfl

/-! What is read back. -/

@[simp] theorem State.group_setGroup (s : State) (p : Nat) (x : Group) : (s.setGroup p x).group p = x := Tab.look_put ..
theorem State.group_setGroup_ne (s : State) {p q : Nat} (x : Group) (h : q ≠ p) :
    (s.setGroup p x).group q = s.group q := Tab.look_put_ne _ _ _ h
@[simp] theorem State.team_setTeam (s : State) (p : Nat) (x : Team) : (s.setTeam p x).team p = x := Tab.look_put ..
@[simp] theorem State.ctx_setCtx (s : State) (p : Nat) (x : Ctx) : (s.setCtx p x).ctx p = x := Tab.look_put ..
@[simp] theorem State.team_setGroup (s : State) (p q : Nat) (x : Group) : (s.setGroup p x).team q = s.team q := rfl
@[simp] theorem State.ctx_setGroup (s : State) (p q : Nat) (x : Group) : (s.setGroup p x).ctx q = s.ctx q := rfl
@[simp] theorem State.group_setTeam (s : State) (p q : Nat) (x : Team) : (s.setTeam p x).group q = s.group q := rfl
@[simp] theorem State.setG_cur (s : State) (g : Group) : (s.setG g).cur = s.cur := rfl
@[simp] theorem State.setG_curSlot (s : State) (g : Group) : (s.setG g).curSlot = s.curSlot := rfl
@[simp] theorem State.setG_mem (s : State) (g : Group) : (s.setG g).mem = s.mem := rfl
@[simp] theorem State.g_setG (s : State) (g : Group) : (s.setG g).g = g := Tab.look_put ..
@[simp] theorem Group.slot_setSlot (g : Group) (sl : SlotId) (x : Slot) : (g.setSlot sl x).slot sl = x := by
  cases sl <;> rfl
@[simp] theorem Group.slot_setSlot_other (g : Group) (sl : SlotId) (x : Slot) :
    (g.setSlot sl x).slot (otherSlot sl) = g.slot (otherSlot sl) := by cases sl <;> rfl
@[simp] theorem State.advance_mem (s : State) : s.advance.mem = s.mem := rfl
theorem State.g_advance (s : State) : s.advance.g = s.g.setSlot s.curSlot s.sl.past := State.g_setG ..

/-! Register reads after writes. -/

theorem Group.getV_setV (g : Group) (r l r' l' : Nat) (w : PWord) (hl : l < 32) (hl' : l' < 32) :
    (g.setV r l w).getV r' l' = if r' = r ∧ l' = l then w else g.getV r' l' := by
  unfold Group.getV Group.setV
  rw [Tab.look_put_eq]
  by_cases h : r' = r ∧ l' = l
  · simp [h]
  · rw [if_neg h, if_neg (by omega)]
@[simp] theorem Group.getS_setS (g : Group) (r : Nat) (w : Dword) : (g.setS r w).getS r = { val := w } := Tab.look_put ..
theorem Group.getS_setS_ne (g : Group) {r r' : Nat} (w : Dword) (h : r' ≠ r) : (g.setS r w).getS r' = g.getS r' :=
  Tab.look_put_ne _ _ _ h
@[simp] theorem Group.getX_setX (g : Group) (r : Nat) (w : XReg) : (g.setX r w).getX r = w := Tab.look_put ..
@[simp] theorem Group.getP_zero (g : Group) (h : g.sect = none) : g.getP 0 = { val := BitVec.allOnes 32 } := by
  simp [Group.getP, h]
@[simp] theorem Group.setP_zero (g : Group) (w : PWord) : g.setP 0 w = g := rfl
theorem Group.getP_setP (g : Group) (h : g.sect = none) {n : Nat} (hn : n ≠ 0) (w : PWord) :
    (g.setP n w).getP n = w := by simp [Group.getP, Group.setP, hn, h]
theorem Group.getP_setP_ne (g : Group) {n m : Nat} (w : PWord) (h : m ≠ n) : (g.setP n w).getP m = g.getP m := by
  unfold Group.setP
  split
  · rfl
  · simp only [Group.getP, Tab.look_put_ne _ _ _ h]

theorem mem_lanesOf (m : Word) (l : Nat) : l ∈ lanesOf m ↔ l < 32 ∧ m.getLsbD l = true := by
  simp [lanesOf]

/-- What a write of words of one vector register leaves in each word. -/
theorem Group.getV_setVs (g : Group) (r r' l' : Nat) (hl' : l' < 32) (f : Nat → Word) (ls : List Nat) (hls : ∀ l ∈ ls, l < 32) :
    (g.setVs r (ls.map fun l => (l, f l))).getV r' l' = if r' = r ∧ l' ∈ ls then { val := f l' } else g.getV r' l' := by
  induction ls generalizing g with
  | nil => simp [Group.setVs]
  | cons l ls ih =>
    have hl : l < 32 := hls l (by simp)
    have ih := ih (g.setV r l { val := f l }) (fun l h => hls l (by simp [h]))
    simp only [List.map_cons, Group.setVs, List.foldl_cons] at ih ⊢
    rw [ih, Group.getV_setV _ _ _ _ _ _ hl hl']
    by_cases h1 : r' = r
    · by_cases h2 : l' ∈ ls
      · simp [h1, h2]
      · by_cases h3 : l' = l <;> simp [h1, h2, h3]
    · simp [h1]

end Sys2Proof.Machine
end

