-- ==== Sys2Proof/Laws/Operands.lean ====
section
/-! SUPPORT. What each operand form does when its operands meet its conditions: one lemma a form. -/

namespace Sys2Proof.Machine

open Sys2Proof

theorem need_true (f : FaultInfo) : need true f = .ok () := rfl

/-- A clean source passes the poison check. -/
theorem checkPoison_clean (s : State) (act : Word) (rs : List Nat) (h : Clean s act rs) : checkPoison s.g act rs = .ok () := by
  unfold checkPoison
  have : (lanesOf act).filter (fun l => rs.any (fun r => (s.g.getV r l).poison)) = [] := by
    rw [List.filter_eq_nil_iff]
    intro l hl
    rw [mem_lanesOf] at hl
    simp only [List.any_eq_true, not_exists, not_and, Bool.not_eq_true]
    intro r hr
    exact h r hr l hl.1 hl.2
  rw [this]

theorem owned_all (s : State) (rs : List Nat) (h : Owned s rs) : rs.all s.g.vOk = true := by
  simp only [List.all_eq_true]
  intro r hr
  simpa [Group.vOk] using h r hr

theorem active_lanes (s : State) (act : Word) (h : Lanes s act) : s.g.active s.curSlot = .ok act := by
  obtain ⟨h1, h2, h3⟩ := h
  unfold State.sl at *
  simp [Group.active, Slot.mode, h1, Group.readP, h2, h3, Except.bind, Bind.bind]

theorem mode_lanes (s : State) (act : Word) (h : Lanes s act) : (s.g.slot s.curSlot).mode = .ok s.sl.gm := by
  have h1 := h.1
  unfold State.sl at *
  simp [Slot.mode, h1]

/-- `issueG` with an effect that finds no fault. -/
theorem issueG_ok (s : State) (f : Group → Chk Group) (g : Group) (h : f s.g = .ok g) :
    issueG s f = .next (s.setG g).advance := by
  simp [issueG, issue, h, Except.map]

/-- `issueG` with an effect that finds a fault. -/
theorem issueG_error (s : State) (f : Group → Chk Group) (e : FaultInfo) (h : f s.g = .error e) :
    issueG s f = .next (s.raise e) := by
  simp [issueG, issue, h, Except.map]

/-- `issue` with an effect that finds no fault. -/
theorem issue_ok (s t : State) (f : State → Chk State) (h : f s = .ok t) : issue s f = .next t.advance := by
  simp [issue, h]

theorem Group.setVs_eq (g : Group) (r : Nat) (ws : List (Nat × Word)) : g.setVs r ws = { g with v := (g.setVs r ws).v } := by
  induction ws generalizing g with
  | nil => rfl
  | cons e ws ih =>
    have := ih (g.setV r e.1 { val := e.2 })
    simpa [Group.setVs, Group.setV] using this

/-- The words of `d` written in the lanes of `act`, as `WritesVector` says it. -/
theorem setVs_writes (s : State) (act : Word) (d : Nat) (f : Nat → Word) :
    ∃ v, (s.setG (s.g.setVs d ((lanesOf act).map fun l => (l, f l)))).advance = (s.setG { s.g with v := v }).advance ∧
      (∀ r l, l < 32 →
        v.look (r * 32 + l) {} = if r = d ∧ act.getLsbD l = true then { val := f l } else s.g.getV r l) ∧
      ∀ a, memRead (s.setG { s.g with v := v }).advance.mem a = memRead s.mem a := by
  refine ⟨_, congrArg (fun g => (s.setG g).advance) (Group.setVs_eq ..), fun r l hl => ?_, fun a => rfl⟩
  have := Group.getV_setVs s.g d r l hl f (lanesOf act) (fun l h => ((mem_lanesOf act l).1 h).1)
  simp only [Group.getV] at this
  rw [this]
  simp [mem_lanesOf, hl, Group.getV]

/-- The effect of a vector instruction whose operands meet its conditions. -/
theorem vecInstr_writes (i : Instr) (s : State) (act : Word) (d : Nat) (names srcs : List Nat)
    (f : Group → Word → Chk (Nat → Word)) (fn : Nat → Word) (hi : exec i s = vecInstr s d names srcs f)
    (ha : Lanes s act) (ho : Owned s (d :: names)) (hc : Clean s act srcs) (hf : f s.g s.sl.gm = .ok fn) (r : Nat → Word)
    (hr : ∀ l, r l = fn l) : WritesVector i s act d r := by
  obtain rfl : r = fn := funext hr
  obtain ⟨v, hv, h⟩ := setVs_writes s act d r
  refine ⟨v, ?_, h⟩
  rw [hi, ← hv]
  refine issueG_ok _ _ _ ?_
  simp [mode_lanes s act ha, owned_all s _ ho, need, hf, active_lanes s act ha, checkPoison_clean s act srcs hc, Bind.bind, Except.bind]

/-- The form `vec2`. -/
theorem vec2_writes (i : Instr) (s : State) (act : Word) (d a b : BitVec 8) (f : Word → Chk (Word → Word → Word))
    (fn : Word → Word → Word) (hi : exec i s = vec2 s d a b f) (ha : Lanes s act)
    (ho : Owned s [d.toNat, a.toNat, b.toNat]) (hc : Clean s act [a.toNat, b.toNat]) (hf : f s.sl.gm = .ok fn)
    (r : Nat → Word) (hr : ∀ l, r l = fn (s.vw a l) (s.vw b l)) : WritesVector i s act d.toNat r :=
  vecInstr_writes i s act d.toNat _ _ _ _ hi ha ho hc (by simp [hf, Except.map]; rfl) r hr

/-- The form `vec1`. -/
theorem vec1_writes (i : Instr) (s : State) (act : Word) (d a : BitVec 8) (f : Word → Chk (Word → Word))
    (fn : Word → Word) (hi : exec i s = vec1 s d a f) (ha : Lanes s act)
    (ho : Owned s [d.toNat, a.toNat]) (hc : Clean s act [a.toNat]) (hf : f s.sl.gm = .ok fn)
    (r : Nat → Word) (hr : ∀ l, r l = fn (s.vw a l)) : WritesVector i s act d.toNat r :=
  vecInstr_writes i s act d.toNat _ _ _ _ hi ha ho hc (by simp [hf, Except.map]; rfl) r hr

/-- The form `vec3`. -/
theorem vec3_writes (i : Instr) (s : State) (act : Word) (d a b : BitVec 8) (f : Word → Chk (Word → Word → Word → Word))
    (fn : Word → Word → Word → Word) (hi : exec i s = vec3 s d a b f) (ha : Lanes s act)
    (ho : Owned s [d.toNat, a.toNat, b.toNat]) (hc : Clean s act [a.toNat, b.toNat, d.toNat]) (hf : f s.sl.gm = .ok fn)
    (r : Nat → Word) (hr : ∀ l, r l = fn (s.vw d l) (s.vw a l) (s.vw b l)) : WritesVector i s act d.toNat r :=
  vecInstr_writes i s act d.toNat _ _ _ _ hi ha ho hc (by simp [hf, Except.map]; rfl) r hr

theorem vecDtype_ok (s : State) (T : Ty) (h : HasDtype s T) : vecDtype s.sl.gm = .ok T := by
  simp [vecDtype, h.1, h.2]

theorem intDtype_ok (s : State) (T : Ty) (h : HasDtype s T) : intDtype s.sl.gm = .ok (intTy T) := by
  simp [intDtype, vecDtype_ok s T h, Except.map]

theorem readSide_ok (s : State) (f : BitVec 7) (h : SideOk s f) : s.readSide f = .ok (s.side f).val := by
  simp [State.readSide, h.1, h.2]

/-- The effect of a compare whose operands meet its conditions. -/
theorem predInstr_writes (i : Instr) (s : State) (act : Word) (p : BitVec 4) (srcs : List Nat)
    (f : Group → Word → Chk (Nat → Bool)) (fn : Nat → Bool) (hi : exec i s = predInstr s p srcs f)
    (ha : Lanes s act) (ho : Owned s srcs) (hc : Clean s act srcs) (hf : f s.g s.sl.gm = .ok fn) :
    WritesPredicate i s act p.toNat (maskOf ((lanesOf act).filter fn)) := by
  unfold WritesPredicate
  rw [hi]
  refine issueG_ok _ _ _ ?_
  simp only [mode_lanes s act ha, owned_all s _ ho, need, hf, active_lanes s act ha, checkPoison_clean s act srcs hc,
    Bind.bind, Except.bind, if_true]
  simp only [Group.setPBits, Group.setP]

/-- The effect of a scalar instruction of two sources. -/
theorem scalar2_writes (i : Instr) (s : State) (d : BitVec 6) (a b : BitVec 7) (f : Dword → Dword → Dword)
    (c : Dword → Dword → Cond) (hi : exec i s = scalar2 s d a b f c) (ha : SideOk s a) (hb : SideOk s b) :
    WritesScalar i s d (f (s.side a).val (s.side b).val) (c (s.side a).val (s.side b).val) := by
  unfold WritesScalar
  rw [hi]
  refine issue_ok _ _ _ ?_
  simp only [readSide_ok s a ha, readSide_ok s b hb, Bind.bind, Except.bind]
  unfold State.setScalar State.sl
  cases s.curSlot <;> rfl

/-- A predicate that no lane uses is not met, however poisoned (R80, R107). -/
@[simp] theorem readPFor_none (g : Group) (n : Nat) : g.readPFor 0 n = .ok 0 := rfl

theorem readPFor_some (g : Group) (lanes : Word) (n : Nat) (h : lanes ≠ 0) : g.readPFor lanes n = g.readP n := by
  exact if_neg h

end Sys2Proof.Machine
end

