-- ==== Sys2Proof/Laws/PerInstr.lean ====
section
/-! SUPPORT. Statements made of every instruction, one lemma a constructor. `Encoded`: no instruction's word has major opcode
0x00, which names none (R65), so a word of zeros is always illegal; an event has no word. -/

namespace Sys2Proof

@[simp] theorem opOf_mkVVV (op : BitVec 6) (sub : BitVec 2) (d a b : BitVec 8) : opOf (mkVVV op sub d a b) = op := by
  refine BitVec.eq_of_getLsbD_eq fun i hi => ?_
  simp only [opOf, bitsAt, mkVVV, BitVec.getLsbD_extractLsb', BitVec.getLsbD_append, hi, decide_true, Bool.true_and]
  repeat rw [if_neg (by omega)]
  congr 1; omega

@[simp] theorem opOf_mkVI16 (op : BitVec 6) (sub : BitVec 2) (d : BitVec 8) (i : BitVec 16) : opOf (mkVI16 op sub d i) = op := by
  refine BitVec.eq_of_getLsbD_eq fun i hi => ?_
  simp only [opOf, bitsAt, mkVI16, BitVec.getLsbD_extractLsb', BitVec.getLsbD_append, hi, decide_true, Bool.true_and]
  repeat rw [if_neg (by omega)]
  congr 1; omega

@[simp] theorem opOf_mkCMP (sub : BitVec 2) (c p : BitVec 4) (a b : BitVec 8) : opOf (mkCMP sub c p a b) = 0x0C := by
  refine BitVec.eq_of_getLsbD_eq fun i hi => ?_
  simp only [opOf, bitsAt, mkCMP, BitVec.getLsbD_extractLsb', BitVec.getLsbD_append, hi, decide_true, Bool.true_and]
  repeat rw [if_neg (by omega)]
  congr 1; omega

@[simp] theorem opOf_mkB (op : BitVec 6) (c : BitVec 6) (o : BitVec 20) : opOf (mkB op c o) = op := by
  refine BitVec.eq_of_getLsbD_eq fun i hi => ?_
  simp only [opOf, bitsAt, mkB, BitVec.getLsbD_extractLsb', BitVec.getLsbD_append, hi, decide_true, Bool.true_and]
  repeat rw [if_neg (by omega)]
  congr 1; omega

@[simp] theorem opOf_mkM (op : BitVec 6) (sc sz : BitVec 3) (d : BitVec 8) (x : BitVec 3) (o : MOff) : opOf (mkM op sc sz d x o) = op := by
  refine BitVec.eq_of_getLsbD_eq fun i hi => ?_
  simp only [opOf, bitsAt, mkM, BitVec.getLsbD_extractLsb', BitVec.getLsbD_append, hi, decide_true, Bool.true_and]
  repeat rw [if_neg (by omega)]
  congr 1; omega

@[simp] theorem opOf_mkATM (op : BitVec 6) (sc : BitVec 3) (aop : BitVec 4) (x : BitVec 3) (d o : BitVec 8) : opOf (mkATM op sc aop x d o) = op := by
  refine BitVec.eq_of_getLsbD_eq fun i hi => ?_
  simp only [opOf, bitsAt, mkATM, BitVec.getLsbD_extractLsb', BitVec.getLsbD_append, hi, decide_true, Bool.true_and]
  repeat rw [if_neg (by omega)]
  congr 1; omega

@[simp] theorem opOf_mkCPX (op : BitVec 6) (sub : BitVec 2) (dx sx : BitVec 3) (dv sv : BitVec 8) : opOf (mkCPX op sub dx sx dv sv) = op := by
  refine BitVec.eq_of_getLsbD_eq fun i hi => ?_
  simp only [opOf, bitsAt, mkCPX, BitVec.getLsbD_extractLsb', BitVec.getLsbD_append, hi, decide_true, Bool.true_and]
  repeat rw [if_neg (by omega)]
  congr 1; omega

@[simp] theorem opOf_mkCPL (z : BitVec 2) (h : BitVec 7) (x : BitVec 3) (m : BitVec 4) (a : BitVec 8) : opOf (mkCPL z h x m a) = 0x3D := by
  refine BitVec.eq_of_getLsbD_eq fun i hi => ?_
  simp only [opOf, bitsAt, mkCPL, BitVec.getLsbD_extractLsb', BitVec.getLsbD_append, hi, decide_true, Bool.true_and]
  repeat rw [if_neg (by omega)]
  congr 1; omega

@[simp] theorem opOf_mkSHP (sub : BitVec 2) (a : BitVec 8) (e : BitVec 7) (x t : BitVec 3) : opOf (mkSHP sub a e x t) = 0x3E := by
  refine BitVec.eq_of_getLsbD_eq fun i hi => ?_
  simp only [opOf, bitsAt, mkSHP, BitVec.getLsbD_extractLsb', BitVec.getLsbD_append, hi, decide_true, Bool.true_and]
  repeat rw [if_neg (by omega)]
  congr 1; omega

end Sys2Proof

open Sys2Proof

/-- The instruction's word, where it has one, does not have major opcode 0x00. -/
def Sys2Proof.Laws.Encoded.Statement (i : Instr) : Prop := ∀ w, encode i = some w → opOf w ≠ 0

theorem Sys2Proof.Laws.Encoded.iadd (d a b : BitVec 8) : Statement (.iadd d a b) := by rintro w ⟨⟩; rw [opOf_mkVVV]; decide
theorem Sys2Proof.Laws.Encoded.isub (d a b : BitVec 8) : Statement (.isub d a b) := by rintro w ⟨⟩; rw [opOf_mkVVV]; decide
theorem Sys2Proof.Laws.Encoded.imul (d a b : BitVec 8) : Statement (.imul d a b) := by rintro w ⟨⟩; rw [opOf_mkVVV]; decide
theorem Sys2Proof.Laws.Encoded.imulh (d a b : BitVec 8) : Statement (.imulh d a b) := by rintro w ⟨⟩; rw [opOf_mkVVV]; decide
theorem Sys2Proof.Laws.Encoded.iaddImm (d a : BitVec 8) (i : BitVec 8) : Statement (.iaddImm d a i) := by rintro w ⟨⟩; rw [opOf_mkVVV]; decide
theorem Sys2Proof.Laws.Encoded.isubImm (d a : BitVec 8) (i : BitVec 8) : Statement (.isubImm d a i) := by rintro w ⟨⟩; rw [opOf_mkVVV]; decide
theorem Sys2Proof.Laws.Encoded.imulImm (d a : BitVec 8) (i : BitVec 8) : Statement (.imulImm d a i) := by rintro w ⟨⟩; rw [opOf_mkVVV]; decide
theorem Sys2Proof.Laws.Encoded.imulhImm (d a : BitVec 8) (i : BitVec 8) : Statement (.imulhImm d a i) := by rintro w ⟨⟩; rw [opOf_mkVVV]; decide
theorem Sys2Proof.Laws.Encoded.imad (d a b : BitVec 8) : Statement (.imad d a b) := by rintro w ⟨⟩; rw [opOf_mkVVV]; decide
theorem Sys2Proof.Laws.Encoded.imin (d a b : BitVec 8) : Statement (.imin d a b) := by rintro w ⟨⟩; rw [opOf_mkVVV]; decide
theorem Sys2Proof.Laws.Encoded.imax (d a b : BitVec 8) : Statement (.imax d a b) := by rintro w ⟨⟩; rw [opOf_mkVVV]; decide
theorem Sys2Proof.Laws.Encoded.iabs (d a : BitVec 8) : Statement (.iabs d a) := by rintro w ⟨⟩; rw [opOf_mkVVV]; decide
theorem Sys2Proof.Laws.Encoded.and (d a b : BitVec 8) : Statement (.and d a b) := by rintro w ⟨⟩; rw [opOf_mkVVV]; decide
theorem Sys2Proof.Laws.Encoded.or (d a b : BitVec 8) : Statement (.or d a b) := by rintro w ⟨⟩; rw [opOf_mkVVV]; decide
theorem Sys2Proof.Laws.Encoded.xor (d a b : BitVec 8) : Statement (.xor d a b) := by rintro w ⟨⟩; rw [opOf_mkVVV]; decide
theorem Sys2Proof.Laws.Encoded.not (d a : BitVec 8) : Statement (.not d a) := by rintro w ⟨⟩; rw [opOf_mkVVV]; decide
theorem Sys2Proof.Laws.Encoded.andImm (d a : BitVec 8) (i : BitVec 8) : Statement (.andImm d a i) := by rintro w ⟨⟩; rw [opOf_mkVVV]; decide
theorem Sys2Proof.Laws.Encoded.orImm (d a : BitVec 8) (i : BitVec 8) : Statement (.orImm d a i) := by rintro w ⟨⟩; rw [opOf_mkVVV]; decide
theorem Sys2Proof.Laws.Encoded.xorImm (d a : BitVec 8) (i : BitVec 8) : Statement (.xorImm d a i) := by rintro w ⟨⟩; rw [opOf_mkVVV]; decide
theorem Sys2Proof.Laws.Encoded.shl (d a b : BitVec 8) : Statement (.shl d a b) := by rintro w ⟨⟩; rw [opOf_mkVVV]; decide
theorem Sys2Proof.Laws.Encoded.shr (d a b : BitVec 8) : Statement (.shr d a b) := by rintro w ⟨⟩; rw [opOf_mkVVV]; decide
theorem Sys2Proof.Laws.Encoded.sar (d a b : BitVec 8) : Statement (.sar d a b) := by rintro w ⟨⟩; rw [opOf_mkVVV]; decide
theorem Sys2Proof.Laws.Encoded.shlImm (d a : BitVec 8) (i : BitVec 8) : Statement (.shlImm d a i) := by rintro w ⟨⟩; rw [opOf_mkVVV]; decide
theorem Sys2Proof.Laws.Encoded.shrImm (d a : BitVec 8) (i : BitVec 8) : Statement (.shrImm d a i) := by rintro w ⟨⟩; rw [opOf_mkVVV]; decide
theorem Sys2Proof.Laws.Encoded.sarImm (d a : BitVec 8) (i : BitVec 8) : Statement (.sarImm d a i) := by rintro w ⟨⟩; rw [opOf_mkVVV]; decide
theorem Sys2Proof.Laws.Encoded.clz (d a : BitVec 8) : Statement (.clz d a) := by rintro w ⟨⟩; rw [opOf_mkVVV]; decide
theorem Sys2Proof.Laws.Encoded.popc (d a : BitVec 8) : Statement (.popc d a) := by rintro w ⟨⟩; rw [opOf_mkVVV]; decide
theorem Sys2Proof.Laws.Encoded.brev (d a : BitVec 8) : Statement (.brev d a) := by rintro w ⟨⟩; rw [opOf_mkVVV]; decide
theorem Sys2Proof.Laws.Encoded.mov (d a : BitVec 8) : Statement (.mov d a) := by rintro w ⟨⟩; rw [opOf_mkVVV]; decide
theorem Sys2Proof.Laws.Encoded.bfe (d a b : BitVec 8) : Statement (.bfe d a b) := by rintro w ⟨⟩; rw [opOf_mkVVV]; decide
theorem Sys2Proof.Laws.Encoded.bfi (d a b : BitVec 8) : Statement (.bfi d a b) := by rintro w ⟨⟩; rw [opOf_mkVVV]; decide
theorem Sys2Proof.Laws.Encoded.sel (d a : BitVec 8) (p : BitVec 4) : Statement (.sel d a p) := by rintro w ⟨⟩; rw [opOf_mkVVV]; decide
theorem Sys2Proof.Laws.Encoded.lea (sh : BitVec 2) (d a b : BitVec 8) : Statement (.lea sh d a b) := by rintro w ⟨⟩; rw [opOf_mkVVV]; decide
theorem Sys2Proof.Laws.Encoded.movi (d : BitVec 8) (i : BitVec 16) : Statement (.movi d i) := by rintro w ⟨⟩; rw [opOf_mkVI16]; decide
theorem Sys2Proof.Laws.Encoded.movhi (d : BitVec 8) (i : BitVec 16) : Statement (.movhi d i) := by rintro w ⟨⟩; rw [opOf_mkVI16]; decide
theorem Sys2Proof.Laws.Encoded.icmp (c : ICond) (p : BitVec 4) (a b : BitVec 8) : Statement (.icmp c p a b) := by rintro w ⟨⟩; rw [opOf_mkCMP]; decide
theorem Sys2Proof.Laws.Encoded.icmpImm (c : ICond) (p : BitVec 4) (a : BitVec 8) (i : BitVec 8) : Statement (.icmpImm c p a i) := by rintro w ⟨⟩; rw [opOf_mkCMP]; decide
theorem Sys2Proof.Laws.Encoded.fcmp (c : FCond) (p : BitVec 4) (a b : BitVec 8) : Statement (.fcmp c p a b) := by rintro w ⟨⟩; rw [opOf_mkCMP]; decide
theorem Sys2Proof.Laws.Encoded.sadd (d : BitVec 6) (a b : BitVec 7) : Statement (.sadd d a b) := by rintro w ⟨⟩; rw [opOf_mkVVV]; decide
theorem Sys2Proof.Laws.Encoded.ssub (d : BitVec 6) (a b : BitVec 7) : Statement (.ssub d a b) := by rintro w ⟨⟩; rw [opOf_mkVVV]; decide
theorem Sys2Proof.Laws.Encoded.smul (d : BitVec 6) (a b : BitVec 7) : Statement (.smul d a b) := by rintro w ⟨⟩; rw [opOf_mkVVV]; decide
theorem Sys2Proof.Laws.Encoded.scmp (a b : BitVec 7) : Statement (.scmp a b) := by rintro w ⟨⟩; rw [opOf_mkVVV]; decide
theorem Sys2Proof.Laws.Encoded.sand (d : BitVec 6) (a b : BitVec 7) : Statement (.sand d a b) := by rintro w ⟨⟩; rw [opOf_mkVVV]; decide
theorem Sys2Proof.Laws.Encoded.sor (d : BitVec 6) (a b : BitVec 7) : Statement (.sor d a b) := by rintro w ⟨⟩; rw [opOf_mkVVV]; decide
theorem Sys2Proof.Laws.Encoded.sxor (d : BitVec 6) (a b : BitVec 7) : Statement (.sxor d a b) := by rintro w ⟨⟩; rw [opOf_mkVVV]; decide
theorem Sys2Proof.Laws.Encoded.smov (d : BitVec 6) (a : BitVec 7) : Statement (.smov d a) := by rintro w ⟨⟩; rw [opOf_mkVVV]; decide
theorem Sys2Proof.Laws.Encoded.sshl (d : BitVec 6) (a b : BitVec 7) : Statement (.sshl d a b) := by rintro w ⟨⟩; rw [opOf_mkVVV]; decide
theorem Sys2Proof.Laws.Encoded.sshr (d : BitVec 6) (a b : BitVec 7) : Statement (.sshr d a b) := by rintro w ⟨⟩; rw [opOf_mkVVV]; decide
theorem Sys2Proof.Laws.Encoded.ssar (d : BitVec 6) (a b : BitVec 7) : Statement (.ssar d a b) := by rintro w ⟨⟩; rw [opOf_mkVVV]; decide
theorem Sys2Proof.Laws.Encoded.smovImm (d : BitVec 6) (i : BitVec 16) : Statement (.smovImm d i) := by rintro w ⟨⟩; rw [opOf_mkVI16]; decide
theorem Sys2Proof.Laws.Encoded.saddImm (d : BitVec 6) (i : BitVec 16) : Statement (.saddImm d i) := by rintro w ⟨⟩; rw [opOf_mkVI16]; decide
theorem Sys2Proof.Laws.Encoded.scmpImm (a : BitVec 7) (i : BitVec 16) : Statement (.scmpImm a i) := by rintro w ⟨⟩; rw [opOf_mkVI16]; decide
theorem Sys2Proof.Laws.Encoded.fadd (d a b : BitVec 8) : Statement (.fadd d a b) := by rintro w ⟨⟩; rw [opOf_mkVVV]; decide
theorem Sys2Proof.Laws.Encoded.fsub (d a b : BitVec 8) : Statement (.fsub d a b) := by rintro w ⟨⟩; rw [opOf_mkVVV]; decide
theorem Sys2Proof.Laws.Encoded.fmul (d a b : BitVec 8) : Statement (.fmul d a b) := by rintro w ⟨⟩; rw [opOf_mkVVV]; decide
theorem Sys2Proof.Laws.Encoded.fma (d a b : BitVec 8) : Statement (.fma d a b) := by rintro w ⟨⟩; rw [opOf_mkVVV]; decide
theorem Sys2Proof.Laws.Encoded.fmin (d a b : BitVec 8) : Statement (.fmin d a b) := by rintro w ⟨⟩; rw [opOf_mkVVV]; decide
theorem Sys2Proof.Laws.Encoded.fmax (d a b : BitVec 8) : Statement (.fmax d a b) := by rintro w ⟨⟩; rw [opOf_mkVVV]; decide
theorem Sys2Proof.Laws.Encoded.fabs (d a : BitVec 8) : Statement (.fabs d a) := by rintro w ⟨⟩; rw [opOf_mkVVV]; decide
theorem Sys2Proof.Laws.Encoded.fneg (d a : BitVec 8) : Statement (.fneg d a) := by rintro w ⟨⟩; rw [opOf_mkVVV]; decide
theorem Sys2Proof.Laws.Encoded.frcp (d a : BitVec 8) : Statement (.frcp d a) := by rintro w ⟨⟩; rw [opOf_mkVVV]; decide
theorem Sys2Proof.Laws.Encoded.frsq (d a : BitVec 8) : Statement (.frsq d a) := by rintro w ⟨⟩; rw [opOf_mkVVV]; decide
theorem Sys2Proof.Laws.Encoded.fsqrt (d a : BitVec 8) : Statement (.fsqrt d a) := by rintro w ⟨⟩; rw [opOf_mkVVV]; decide
theorem Sys2Proof.Laws.Encoded.fscale (d a b : BitVec 8) : Statement (.fscale d a b) := by rintro w ⟨⟩; rw [opOf_mkVVV]; decide
theorem Sys2Proof.Laws.Encoded.fexp2 (d a : BitVec 8) : Statement (.fexp2 d a) := by rintro w ⟨⟩; rw [opOf_mkVVV]; decide
theorem Sys2Proof.Laws.Encoded.flog2 (d a : BitVec 8) : Statement (.flog2 d a) := by rintro w ⟨⟩; rw [opOf_mkVVV]; decide
theorem Sys2Proof.Laws.Encoded.fsin (d a : BitVec 8) : Statement (.fsin d a) := by rintro w ⟨⟩; rw [opOf_mkVVV]; decide
theorem Sys2Proof.Laws.Encoded.fcos (d a : BitVec 8) : Statement (.fcos d a) := by rintro w ⟨⟩; rw [opOf_mkVVV]; decide
theorem Sys2Proof.Laws.Encoded.ftanh (d a : BitVec 8) : Statement (.ftanh d a) := by rintro w ⟨⟩; rw [opOf_mkVVV]; decide
theorem Sys2Proof.Laws.Encoded.cvt (d a : BitVec 8) : Statement (.cvt d a) := by rintro w ⟨⟩; rw [opOf_mkVVV]; decide
theorem Sys2Proof.Laws.Encoded.pack (d a : BitVec 8) (i : BitVec 8) : Statement (.pack d a i) := by rintro w ⟨⟩; rw [opOf_mkVVV]; decide
theorem Sys2Proof.Laws.Encoded.unpack (d a : BitVec 8) (i : BitVec 8) : Statement (.unpack d a i) := by rintro w ⟨⟩; rw [opOf_mkVVV]; decide
theorem Sys2Proof.Laws.Encoded.shfl (m : ShflMode) (d a b : BitVec 8) : Statement (.shfl m d a b) := by rintro w ⟨⟩; rw [opOf_mkVVV]; decide
theorem Sys2Proof.Laws.Encoded.shflImm (m : ShflMode) (d a : BitVec 8) (i : BitVec 8) : Statement (.shflImm m d a i) := by rintro w ⟨⟩; rw [opOf_mkVVV]; decide
theorem Sys2Proof.Laws.Encoded.bcast (d a : BitVec 8) (i : BitVec 8) : Statement (.bcast d a i) := by rintro w ⟨⟩; rw [opOf_mkVVV]; decide
theorem Sys2Proof.Laws.Encoded.mbcnt (d : BitVec 8) (p : BitVec 4) : Statement (.mbcnt d p) := by rintro w ⟨⟩; rw [opOf_mkVVV]; decide
theorem Sys2Proof.Laws.Encoded.vote (d : BitVec 6) (p : BitVec 4) (i : BitVec 8) : Statement (.vote d p i) := by rintro w ⟨⟩; rw [opOf_mkVVV]; decide
theorem Sys2Proof.Laws.Encoded.redx (o : RedOp) (d a : BitVec 8) : Statement (.redx o d a) := by rintro w ⟨⟩; rw [opOf_mkVVV]; decide
theorem Sys2Proof.Laws.Encoded.scan (o : ScanOp) (d a : BitVec 8) : Statement (.scan o d a) := by rintro w ⟨⟩; rw [opOf_mkVVV]; decide
theorem Sys2Proof.Laws.Encoded.pand (d a b : BitVec 4) : Statement (.pand d a b) := by rintro w ⟨⟩; rw [opOf_mkVVV]; decide
theorem Sys2Proof.Laws.Encoded.por (d a b : BitVec 4) : Statement (.por d a b) := by rintro w ⟨⟩; rw [opOf_mkVVV]; decide
theorem Sys2Proof.Laws.Encoded.pxor (d a b : BitVec 4) : Statement (.pxor d a b) := by rintro w ⟨⟩; rw [opOf_mkVVV]; decide
theorem Sys2Proof.Laws.Encoded.pnot (d a : BitVec 4) : Statement (.pnot d a) := by rintro w ⟨⟩; rw [opOf_mkVVV]; decide
theorem Sys2Proof.Laws.Encoded.pmov (d a : BitVec 4) : Statement (.pmov d a) := by rintro w ⟨⟩; rw [opOf_mkVVV]; decide
theorem Sys2Proof.Laws.Encoded.pcnt (d : BitVec 6) (a : BitVec 4) : Statement (.pcnt d a) := by rintro w ⟨⟩; rw [opOf_mkVVV]; decide
theorem Sys2Proof.Laws.Encoded.pfirst (d a : BitVec 4) : Statement (.pfirst d a) := by rintro w ⟨⟩; rw [opOf_mkVVV]; decide
theorem Sys2Proof.Laws.Encoded.kmov (d : BitVec 6) (a : BitVec 7) : Statement (.kmov d a) := by rintro w ⟨⟩; rw [opOf_mkVVV]; decide
theorem Sys2Proof.Laws.Encoded.kld (d : BitVec 6) (a : BitVec 7) (i : BitVec 8) : Statement (.kld d a i) := by rintro w ⟨⟩; rw [opOf_mkVVV]; decide
theorem Sys2Proof.Laws.Encoded.sread (d : BitVec 6) (n : BitVec 16) : Statement (.sread d n) := by rintro w ⟨⟩; rw [opOf_mkVI16]; decide
theorem Sys2Proof.Laws.Encoded.swrite (a : BitVec 7) (n : BitVec 16) : Statement (.swrite a n) := by rintro w ⟨⟩; rw [opOf_mkVI16]; decide
theorem Sys2Proof.Laws.Encoded.br (o : BitVec 20) : Statement (.br o) := by rintro w ⟨⟩; rw [opOf_mkB]; decide
theorem Sys2Proof.Laws.Encoded.brc (c : CC) (o : BitVec 20) : Statement (.brc c o) := by rintro w ⟨⟩; rw [opOf_mkB]; decide
theorem Sys2Proof.Laws.Encoded.brz (p : BitVec 4) (o : BitVec 20) : Statement (.brz p o) := by rintro w ⟨⟩; rw [opOf_mkB]; decide
theorem Sys2Proof.Laws.Encoded.brnz (p : BitVec 4) (o : BitVec 20) : Statement (.brnz p o) := by rintro w ⟨⟩; rw [opOf_mkB]; decide
theorem Sys2Proof.Laws.Encoded.call (o : BitVec 20) : Statement (.call o) := by rintro w ⟨⟩; rw [opOf_mkB]; decide
theorem Sys2Proof.Laws.Encoded.fork (p : BitVec 4) (o : BitVec 20) : Statement (.fork p o) := by rintro w ⟨⟩; rw [opOf_mkB]; decide
theorem Sys2Proof.Laws.Encoded.yieldc (b : BitVec 4) (o : BitVec 20) : Statement (.yieldc b o) := by rintro w ⟨⟩; rw [opOf_mkB]; decide
theorem Sys2Proof.Laws.Encoded.nop : Statement .nop := by rintro w ⟨⟩; rw [opOf_mkVVV]; decide
theorem Sys2Proof.Laws.Encoded.exit : Statement .exit := by rintro w ⟨⟩; rw [opOf_mkVVV]; decide
theorem Sys2Proof.Laws.Encoded.yield : Statement .yield := by rintro w ⟨⟩; rw [opOf_mkVVV]; decide
theorem Sys2Proof.Laws.Encoded.join : Statement .join := by rintro w ⟨⟩; rw [opOf_mkVVV]; decide
theorem Sys2Proof.Laws.Encoded.ret (a : BitVec 7) : Statement (.ret a) := by rintro w ⟨⟩; rw [opOf_mkVVV]; decide
theorem Sys2Proof.Laws.Encoded.setmode (a : BitVec 7) : Statement (.setmode a) := by rintro w ⟨⟩; rw [opOf_mkVVV]; decide
theorem Sys2Proof.Laws.Encoded.trap (n : BitVec 16) : Statement (.trap n) := by rintro w ⟨⟩; rw [opOf_mkVI16]; decide
theorem Sys2Proof.Laws.Encoded.brk (n : BitVec 16) : Statement (.brk n) := by rintro w ⟨⟩; rw [opOf_mkVI16]; decide
theorem Sys2Proof.Laws.Encoded.modef (f : GmField) (i : BitVec 16) : Statement (.modef f i) := by rintro w ⟨⟩; rw [opOf_mkVI16]; decide
theorem Sys2Proof.Laws.Encoded.bar (b : BitVec 8) : Statement (.bar b) := by rintro w ⟨⟩; rw [opOf_mkVVV]; decide
theorem Sys2Proof.Laws.Encoded.cbar (b : BitVec 8) : Statement (.cbar b) := by rintro w ⟨⟩; rw [opOf_mkVVV]; decide
theorem Sys2Proof.Laws.Encoded.reggrow (n : BitVec 8) : Statement (.reggrow n) := by rintro w ⟨⟩; rw [opOf_mkVVV]; decide
theorem Sys2Proof.Laws.Encoded.regshrink (n : BitVec 8) : Statement (.regshrink n) := by rintro w ⟨⟩; rw [opOf_mkVVV]; decide
theorem Sys2Proof.Laws.Encoded.ld (sc : Scope) (z : Size) (d : BitVec 8) (x : BitVec 3) (o : MOff) : Statement (.ld sc z d x o) := by rintro w ⟨⟩; rw [opOf_mkM]; decide
theorem Sys2Proof.Laws.Encoded.st (sc : Scope) (z : Size) (d : BitVec 8) (x : BitVec 3) (o : MOff) : Statement (.st sc z d x o) := by rintro w ⟨⟩; rw [opOf_mkM]; decide
theorem Sys2Proof.Laws.Encoded.ldn (sc : Scope) (n : BitVec 3) (d : BitVec 8) (x : BitVec 3) (o : MOff) : Statement (.ldn sc n d x o) := by rintro w ⟨⟩; rw [opOf_mkM]; decide
theorem Sys2Proof.Laws.Encoded.stn (sc : Scope) (n : BitVec 3) (d : BitVec 8) (x : BitVec 3) (o : MOff) : Statement (.stn sc n d x o) := by rintro w ⟨⟩; rw [opOf_mkM]; decide
theorem Sys2Proof.Laws.Encoded.ldp (p : LdpPred) (z : Size) (d : BitVec 8) (x : BitVec 3) (o : MOff) : Statement (.ldp p z d x o) := by rintro w ⟨⟩; rw [opOf_mkM]; decide
theorem Sys2Proof.Laws.Encoded.atom (sc : Scope) (op : AtomOp) (x : BitVec 3) (d o : BitVec 8) : Statement (.atom sc op x d o) := by rintro w ⟨⟩; rw [opOf_mkATM]; decide
theorem Sys2Proof.Laws.Encoded.atomr (sc : Scope) (op : AtomOp) (x : BitVec 3) (d o : BitVec 8) : Statement (.atomr sc op x d o) := by rintro w ⟨⟩; rw [opOf_mkATM]; decide
theorem Sys2Proof.Laws.Encoded.preq (x : BitVec 3) (o : MOff) : Statement (.preq x o) := by rintro w ⟨⟩; rw [opOf_mkM]; decide
theorem Sys2Proof.Laws.Encoded.pref (x : BitVec 3) (o : MOff) : Statement (.pref x o) := by rintro w ⟨⟩; rw [opOf_mkM]; decide
theorem Sys2Proof.Laws.Encoded.rcmark (x : BitVec 3) (o : MOff) : Statement (.rcmark x o) := by rintro w ⟨⟩; rw [opOf_mkM]; decide
theorem Sys2Proof.Laws.Encoded.fenceAcq (sc : Scope) : Statement (.fenceAcq sc) := by rintro w ⟨⟩; rw [opOf_mkM]; decide
theorem Sys2Proof.Laws.Encoded.fenceRel (sc : Scope) : Statement (.fenceRel sc) := by rintro w ⟨⟩; rw [opOf_mkM]; decide
theorem Sys2Proof.Laws.Encoded.fenceAr (sc : Scope) : Statement (.fenceAr sc) := by rintro w ⟨⟩; rw [opOf_mkM]; decide
theorem Sys2Proof.Laws.Encoded.xlat (d : BitVec 3) (a b : BitVec 7) : Statement (.xlat d a b) := by rintro w ⟨⟩; rw [opOf_mkVVV]; decide
theorem Sys2Proof.Laws.Encoded.publish (a : BitVec 7) : Statement (.publish a) := by rintro w ⟨⟩; rw [opOf_mkVVV]; decide
theorem Sys2Proof.Laws.Encoded.xrel (d : BitVec 3) : Statement (.xrel d) := by rintro w ⟨⟩; rw [opOf_mkVVV]; decide
theorem Sys2Proof.Laws.Encoded.mma (sh : BitVec 2) (d : BitVec 5) (a b : BitVec 4) : Statement (.mma sh d a b) := by rintro w ⟨⟩; rw [opOf_mkVVV]; decide
theorem Sys2Proof.Laws.Encoded.mmaq (d : BitVec 5) (a : BitVec 7) : Statement (.mmaq d a) := by rintro w ⟨⟩; rw [opOf_mkVVV]; decide
theorem Sys2Proof.Laws.Encoded.mmaqs (d : BitVec 5) (a : BitVec 7) (m : BitVec 8) : Statement (.mmaqs d a m) := by rintro w ⟨⟩; rw [opOf_mkVVV]; decide
theorem Sys2Proof.Laws.Encoded.acommit (m : BitVec 8) : Statement (.acommit m) := by rintro w ⟨⟩; rw [opOf_mkVVV]; decide
theorem Sys2Proof.Laws.Encoded.adiscard (m : BitVec 8) : Statement (.adiscard m) := by rintro w ⟨⟩; rw [opOf_mkVVV]; decide
theorem Sys2Proof.Laws.Encoded.azero (d : BitVec 5) : Statement (.azero d) := by rintro w ⟨⟩; rw [opOf_mkVVV]; decide
theorem Sys2Proof.Laws.Encoded.amov (d : BitVec 8) (a : BitVec 5) (i : BitVec 8) : Statement (.amov d a i) := by rintro w ⟨⟩; rw [opOf_mkVVV]; decide
theorem Sys2Proof.Laws.Encoded.acvt (d : BitVec 8) (a : BitVec 5) (i : BitVec 8) : Statement (.acvt d a i) := by rintro w ⟨⟩; rw [opOf_mkVVV]; decide
theorem Sys2Proof.Laws.Encoded.cpy (z : CopySize) (dx sx : BitVec 3) (dv sv : BitVec 8) : Statement (.cpy z dx sx dv sv) := by rintro w ⟨⟩; rw [opOf_mkCPX]; decide
theorem Sys2Proof.Laws.Encoded.cpg (dx sx : BitVec 3) (dv sv : BitVec 8) : Statement (.cpg dx sx dv sv) := by rintro w ⟨⟩; rw [opOf_mkCPX]; decide
theorem Sys2Proof.Laws.Encoded.cpt (d : BitVec 4) (x : BitVec 3) (b : BitVec 7) : Statement (.cpt d x b) := by rintro w ⟨⟩; rw [opOf_mkVVV]; decide
theorem Sys2Proof.Laws.Encoded.cpq (d a : BitVec 4) (b : BitVec 7) : Statement (.cpq d a b) := by rintro w ⟨⟩; rw [opOf_mkVVV]; decide
theorem Sys2Proof.Laws.Encoded.cpwaitSrc (n : BitVec 8) : Statement (.cpwaitSrc n) := by rintro w ⟨⟩; rw [opOf_mkVVV]; decide
theorem Sys2Proof.Laws.Encoded.cpwaitVis (n : BitVec 8) : Statement (.cpwaitVis n) := by rintro w ⟨⟩; rw [opOf_mkVVV]; decide
theorem Sys2Proof.Laws.Encoded.cptest (d : BitVec 6) (n : BitVec 8) : Statement (.cptest d n) := by rintro w ⟨⟩; rw [opOf_mkVVV]; decide
theorem Sys2Proof.Laws.Encoded.seal (d : BitVec 6) (sc : BitVec 8) : Statement (.seal d sc) := by rintro w ⟨⟩; rw [opOf_mkVVV]; decide
theorem Sys2Proof.Laws.Encoded.lzopen (d : BitVec 6) (a : BitVec 7) : Statement (.lzopen d a) := by rintro w ⟨⟩; rw [opOf_mkVVV]; decide
theorem Sys2Proof.Laws.Encoded.lzclose (a : BitVec 7) : Statement (.lzclose a) := by rintro w ⟨⟩; rw [opOf_mkVVV]; decide
theorem Sys2Proof.Laws.Encoded.lzres (d : BitVec 6) (a b : BitVec 7) : Statement (.lzres d a b) := by rintro w ⟨⟩; rw [opOf_mkVVV]; decide
theorem Sys2Proof.Laws.Encoded.lzstat (d : BitVec 6) (a b : BitVec 7) : Statement (.lzstat d a b) := by rintro w ⟨⟩; rw [opOf_mkVVV]; decide
theorem Sys2Proof.Laws.Encoded.lzwait (a b : BitVec 7) : Statement (.lzwait a b) := by rintro w ⟨⟩; rw [opOf_mkVVV]; decide
theorem Sys2Proof.Laws.Encoded.lzfree (a b : BitVec 7) : Statement (.lzfree a b) := by rintro w ⟨⟩; rw [opOf_mkVVV]; decide
theorem Sys2Proof.Laws.Encoded.cpl (z : CopySize) (h : BitVec 7) (x : BitVec 3) (m : BitVec 4) (a : BitVec 8) : Statement (.cpl z h x m a) := by rintro w ⟨⟩; rw [opOf_mkCPL]; decide
theorem Sys2Proof.Laws.Encoded.shipW (a : BitVec 8) (e : BitVec 7) (x : BitVec 3) : Statement (.shipW a e x) := by rintro w ⟨⟩; rw [opOf_mkSHP]; decide
theorem Sys2Proof.Laws.Encoded.shipT (a : BitVec 8) (e : BitVec 7) (x t : BitVec 3) : Statement (.shipT a e x t) := by rintro w ⟨⟩; rw [opOf_mkSHP]; decide
theorem Sys2Proof.Laws.Encoded.waitk (k : BitVec 8) : Statement (.waitk k) := by rintro w ⟨⟩; rw [opOf_mkVVV]; decide
theorem Sys2Proof.Laws.Encoded.testk (d : BitVec 4) (k : BitVec 8) : Statement (.testk d k) := by rintro w ⟨⟩; rw [opOf_mkVVV]; decide
theorem Sys2Proof.Laws.Encoded.sret : Statement .sret := by rintro w ⟨⟩; rw [opOf_mkVVV]; decide
theorem Sys2Proof.Laws.Encoded.illegalInstructionWord (w : BitVec 32) : Statement (.illegalInstructionWord w) := by rintro w ⟨⟩
theorem Sys2Proof.Laws.Encoded.clauseStart (p : Nat) (sl : SlotId) : Statement (.clauseStart p sl) := by rintro w ⟨⟩
theorem Sys2Proof.Laws.Encoded.breakpointMatch (p : Nat) (sl : SlotId) : Statement (.breakpointMatch p sl) := by rintro w ⟨⟩
theorem Sys2Proof.Laws.Encoded.loadReturn (p id : Nat) : Statement (.loadReturn p id) := by rintro w ⟨⟩
theorem Sys2Proof.Laws.Encoded.emptyOperationComplete (p id : Nat) : Statement (.emptyOperationComplete p id) := by rintro w ⟨⟩
theorem Sys2Proof.Laws.Encoded.atomrReturn (p id : Nat) : Statement (.atomrReturn p id) := by rintro w ⟨⟩
theorem Sys2Proof.Laws.Encoded.xlatComplete (p id : Nat) : Statement (.xlatComplete p id) := by rintro w ⟨⟩
theorem Sys2Proof.Laws.Encoded.sreadComplete (p id : Nat) : Statement (.sreadComplete p id) := by rintro w ⟨⟩
theorem Sys2Proof.Laws.Encoded.functionResult (p id : Nat) : Statement (.functionResult p id) := by rintro w ⟨⟩
theorem Sys2Proof.Laws.Encoded.lzopenComplete (p id : Nat) (tag : BitVec 24) : Statement (.lzopenComplete p id tag) := by rintro w ⟨⟩
theorem Sys2Proof.Laws.Encoded.lzstatComplete (p id : Nat) : Statement (.lzstatComplete p id) := by rintro w ⟨⟩
theorem Sys2Proof.Laws.Encoded.lzresRequestArrival (a : LzArrival) : Statement (.lzresRequestArrival a) := by rintro w ⟨⟩
theorem Sys2Proof.Laws.Encoded.lzresAnswer (p id : Nat) (a : Option (Envelope × Dword)) : Statement (.lzresAnswer p id a) := by rintro w ⟨⟩
theorem Sys2Proof.Laws.Encoded.mmaPerformed (team : Nat) : Statement (.mmaPerformed team) := by rintro w ⟨⟩
theorem Sys2Proof.Laws.Encoded.mmaqPerformed (team : Nat) : Statement (.mmaqPerformed team) := by rintro w ⟨⟩
theorem Sys2Proof.Laws.Encoded.mmaqsPerformed (team : Nat) : Statement (.mmaqsPerformed team) := by rintro w ⟨⟩
theorem Sys2Proof.Laws.Encoded.azeroPerformed (team : Nat) : Statement (.azeroPerformed team) := by rintro w ⟨⟩
theorem Sys2Proof.Laws.Encoded.acommitPerformed (team : Nat) : Statement (.acommitPerformed team) := by rintro w ⟨⟩
theorem Sys2Proof.Laws.Encoded.adiscardPerformed (team : Nat) : Statement (.adiscardPerformed team) := by rintro w ⟨⟩
theorem Sys2Proof.Laws.Encoded.joinRedecide (p : Nat) (sl : SlotId) : Statement (.joinRedecide p sl) := by rintro w ⟨⟩
theorem Sys2Proof.Laws.Encoded.exitRedecide (p : Nat) (sl : SlotId) : Statement (.exitRedecide p sl) := by rintro w ⟨⟩
theorem Sys2Proof.Laws.Encoded.teamBarrierComplete (team : Nat) (b : BitVec 2) : Statement (.teamBarrierComplete team b) := by rintro w ⟨⟩
theorem Sys2Proof.Laws.Encoded.clusterBarrierComplete (ctx cluster : Nat) (b : BitVec 2) : Statement (.clusterBarrierComplete ctx cluster b) := by rintro w ⟨⟩
theorem Sys2Proof.Laws.Encoded.groupSlotRelease (p : Nat) : Statement (.groupSlotRelease p) := by rintro w ⟨⟩
theorem Sys2Proof.Laws.Encoded.scratchpadRelease (team : Nat) : Statement (.scratchpadRelease team) := by rintro w ⟨⟩
theorem Sys2Proof.Laws.Encoded.teamPlacement (ctx die core : Nat) : Statement (.teamPlacement ctx die core) := by rintro w ⟨⟩
theorem Sys2Proof.Laws.Encoded.timeSliceExpiry (ctx : Nat) : Statement (.timeSliceExpiry ctx) := by rintro w ⟨⟩
theorem Sys2Proof.Laws.Encoded.checkpointImageWrite (ctx : Nat) : Statement (.checkpointImageWrite ctx) := by rintro w ⟨⟩
theorem Sys2Proof.Laws.Encoded.savedResponseRecord (a : SavedAns) : Statement (.savedResponseRecord a) := by rintro w ⟨⟩
theorem Sys2Proof.Laws.Encoded.fileMoveStart (p : Nat) : Statement (.fileMoveStart p) := by rintro w ⟨⟩
theorem Sys2Proof.Laws.Encoded.groupMoveOutComplete (p : Nat) : Statement (.groupMoveOutComplete p) := by rintro w ⟨⟩
theorem Sys2Proof.Laws.Encoded.groupMoveInComplete (p : Nat) : Statement (.groupMoveInComplete p) := by rintro w ⟨⟩
theorem Sys2Proof.Laws.Encoded.reggrowGrant (core : Nat) : Statement (.reggrowGrant core) := by rintro w ⟨⟩
theorem Sys2Proof.Laws.Encoded.regpoolRefusal (core : Nat) : Statement (.regpoolRefusal core) := by rintro w ⟨⟩
theorem Sys2Proof.Laws.Encoded.remoteRequestArrival (r : PeerMsg) : Statement (.remoteRequestArrival r) := by rintro w ⟨⟩
theorem Sys2Proof.Laws.Encoded.remoteAnswer (t : AnsTo) (a : Envelope × RemAns) : Statement (.remoteAnswer t a) := by rintro w ⟨⟩
theorem Sys2Proof.Laws.Encoded.fenceMarkerArrival (node : BitVec 19) (gkey : BitVec 24) (e : Envelope) : Statement (.fenceMarkerArrival node gkey e) := by rintro w ⟨⟩
theorem Sys2Proof.Laws.Encoded.messageExpiry (m : MsgOf) : Statement (.messageExpiry m) := by rintro w ⟨⟩
theorem Sys2Proof.Laws.Encoded.ackTimeout (a : AckOf) : Statement (.ackTimeout a) := by rintro w ⟨⟩
theorem Sys2Proof.Laws.Encoded.hseqGapTimeout (port : Nat) (node : BitVec 19) : Statement (.hseqGapTimeout port node) := by rintro w ⟨⟩
theorem Sys2Proof.Laws.Encoded.hostAtomicopCompletion (p : Nat) (st : PcieStatus) : Statement (.hostAtomicopCompletion p st) := by rintro w ⟨⟩
theorem Sys2Proof.Laws.Encoded.releaseReadCompletion (p port : Nat) : Statement (.releaseReadCompletion p port) := by rintro w ⟨⟩
theorem Sys2Proof.Laws.Encoded.l1Eviction (core : Nat) (words : Nat × Word) : Statement (.l1Eviction core words) := by rintro w ⟨⟩
theorem Sys2Proof.Laws.Encoded.l2WriteBack (line : Nat) : Statement (.l2WriteBack line) := by rintro w ⟨⟩
theorem Sys2Proof.Laws.Encoded.transferOpDrained (id : Nat) (ext : List (Envelope × List (Byte × Bool))) : Statement (.transferOpDrained id ext) := by rintro w ⟨⟩
theorem Sys2Proof.Laws.Encoded.transferOpLanded (id : Nat × List Envelope) : Statement (.transferOpLanded id) := by rintro w ⟨⟩
theorem Sys2Proof.Laws.Encoded.transferOpFailed (id : Nat) (cls : BitVec 8 × Option (Nat × Envelope)) : Statement (.transferOpFailed id cls) := by rintro w ⟨⟩
theorem Sys2Proof.Laws.Encoded.emptyBatchComplete (p b : Nat) : Statement (.emptyBatchComplete p b) := by rintro w ⟨⟩
theorem Sys2Proof.Laws.Encoded.cpqComplete (id : Nat) : Statement (.cpqComplete id) := by rintro w ⟨⟩
theorem Sys2Proof.Laws.Encoded.twinWritePerformed (id : Nat) : Statement (.twinWritePerformed id) := by rintro w ⟨⟩
theorem Sys2Proof.Laws.Encoded.publishPerformed (id : Nat) : Statement (.publishPerformed id) := by rintro w ⟨⟩
theorem Sys2Proof.Laws.Encoded.landingPacketArrival (a : LandArrival) : Statement (.landingPacketArrival a) := by rintro w ⟨⟩
theorem Sys2Proof.Laws.Encoded.landingTagCheck (msg : Nat) (tag : Dword) : Statement (.landingTagCheck msg tag) := by rintro w ⟨⟩
theorem Sys2Proof.Laws.Encoded.zoneNumberCooldownEnd (core zone : Nat) : Statement (.zoneNumberCooldownEnd core zone) := by rintro w ⟨⟩
theorem Sys2Proof.Laws.Encoded.hoistArrival (h : HoistIn) : Statement (.hoistArrival h) := by rintro w ⟨⟩
theorem Sys2Proof.Laws.Encoded.sectionStart (mast ctx : Nat) : Statement (.sectionStart mast ctx) := by rintro w ⟨⟩
theorem Sys2Proof.Laws.Encoded.watchdogExpiry (p : Nat) : Statement (.watchdogExpiry p) := by rintro w ⟨⟩
theorem Sys2Proof.Laws.Encoded.hoistResponseArrival (id : Nat) (a : HoistAns) : Statement (.hoistResponseArrival id a) := by rintro w ⟨⟩
theorem Sys2Proof.Laws.Encoded.linkDown (port : Nat) : Statement (.linkDown port) := by rintro w ⟨⟩
theorem Sys2Proof.Laws.Encoded.ucieLinkFailure (dieA dieB : Nat) : Statement (.ucieLinkFailure dieA dieB) := by rintro w ⟨⟩
theorem Sys2Proof.Laws.Encoded.pciePortDown (port : Nat) : Statement (.pciePortDown port) := by rintro w ⟨⟩
theorem Sys2Proof.Laws.Encoded.pageFaultService (p : Nat) : Statement (.pageFaultService p) := by rintro w ⟨⟩
theorem Sys2Proof.Laws.Encoded.migrationDecision (va : Addr) (m : MigPlan) : Statement (.migrationDecision va m) := by rintro w ⟨⟩
theorem Sys2Proof.Laws.Encoded.pageFaultResolved (va : Addr) (ext : List (Byte × Bool)) : Statement (.pageFaultResolved va ext) := by rintro w ⟨⟩
theorem Sys2Proof.Laws.Encoded.uncorrectableError (e : ErrPlace) (latent : Bool) : Statement (.uncorrectableError e latent) := by rintro w ⟨⟩
theorem Sys2Proof.Laws.Encoded.scrub (e : ErrPlace) : Statement (.scrub e) := by rintro w ⟨⟩
theorem Sys2Proof.Laws.Encoded.sensorSample (r : SensorReading) : Statement (.sensorSample r) := by rintro w ⟨⟩
theorem Sys2Proof.Laws.Encoded.wearUpdate (w : WearReading) : Statement (.wearUpdate w) := by rintro w ⟨⟩
theorem Sys2Proof.Laws.Encoded.pcSample (core sampler : Nat) (m : SampleMoment) : Statement (.pcSample core sampler m) := by rintro w ⟨⟩
theorem Sys2Proof.Laws.Encoded.traceSync (die : Nat) : Statement (.traceSync die) := by rintro w ⟨⟩
theorem Sys2Proof.Laws.Encoded.traceLossRecovery (die : Nat) : Statement (.traceLossRecovery die) := by rintro w ⟨⟩
theorem Sys2Proof.Laws.Encoded.launch (q : Nat) : Statement (.launch q) := by rintro w ⟨⟩
theorem Sys2Proof.Laws.Encoded.launchWaitResume (q : Nat) : Statement (.launchWaitResume q) := by rintro w ⟨⟩
theorem Sys2Proof.Laws.Encoded.signalWrite (q : Nat) : Statement (.signalWrite q) := by rintro w ⟨⟩
theorem Sys2Proof.Laws.Encoded.signalAdd (q : Nat) : Statement (.signalAdd q) := by rintro w ⟨⟩
theorem Sys2Proof.Laws.Encoded.waitGe (q : Nat) : Statement (.waitGe q) := by rintro w ⟨⟩
theorem Sys2Proof.Laws.Encoded.waitEq (q : Nat) : Statement (.waitEq q) := by rintro w ⟨⟩
theorem Sys2Proof.Laws.Encoded.waitSatisfied (q : Nat) : Statement (.waitSatisfied q) := by rintro w ⟨⟩
theorem Sys2Proof.Laws.Encoded.queueCall (q : Nat) : Statement (.queueCall q) := by rintro w ⟨⟩
theorem Sys2Proof.Laws.Encoded.queueReturn (q : Nat) : Statement (.queueReturn q) := by rintro w ⟨⟩
theorem Sys2Proof.Laws.Encoded.queueJoin (q : Nat) : Statement (.queueJoin q) := by rintro w ⟨⟩
theorem Sys2Proof.Laws.Encoded.queueFence (q : Nat) : Statement (.queueFence q) := by rintro w ⟨⟩
theorem Sys2Proof.Laws.Encoded.queueFenceDone (q : Nat) : Statement (.queueFenceDone q) := by rintro w ⟨⟩
theorem Sys2Proof.Laws.Encoded.prio (q : Nat) : Statement (.prio q) := by rintro w ⟨⟩
theorem Sys2Proof.Laws.Encoded.region (q : Nat) (tag : BitVec 24) (gen : BitVec 8) : Statement (.region q tag gen) := by rintro w ⟨⟩
theorem Sys2Proof.Laws.Encoded.revoke (q : Nat) : Statement (.revoke q) := by rintro w ⟨⟩
theorem Sys2Proof.Laws.Encoded.destroy (q : Nat) : Statement (.destroy q) := by rintro w ⟨⟩
theorem Sys2Proof.Laws.Encoded.destroySave (q : Nat) : Statement (.destroySave q) := by rintro w ⟨⟩
theorem Sys2Proof.Laws.Encoded.lookaheadRead (q : Nat) : Statement (.lookaheadRead q) := by rintro w ⟨⟩
theorem Sys2Proof.Laws.Encoded.serviceAnswer : Statement .serviceAnswer := by rintro w ⟨⟩
theorem Sys2Proof.Laws.Encoded.dispositionResume : Statement .dispositionResume := by rintro w ⟨⟩
theorem Sys2Proof.Laws.Encoded.dispositionEnd : Statement .dispositionEnd := by rintro w ⟨⟩
theorem Sys2Proof.Laws.Encoded.coreDumpRequest : Statement .coreDumpRequest := by rintro w ⟨⟩
theorem Sys2Proof.Laws.Encoded.haltGroup : Statement .haltGroup := by rintro w ⟨⟩
theorem Sys2Proof.Laws.Encoded.haltKernel : Statement .haltKernel := by rintro w ⟨⟩
theorem Sys2Proof.Laws.Encoded.resume : Statement .resume := by rintro w ⟨⟩
theorem Sys2Proof.Laws.Encoded.step : Statement .step := by rintro w ⟨⟩
theorem Sys2Proof.Laws.Encoded.stateWrite : Statement .stateWrite := by rintro w ⟨⟩
theorem Sys2Proof.Laws.Encoded.stateReadBack : Statement .stateReadBack := by rintro w ⟨⟩
theorem Sys2Proof.Laws.Encoded.mastClaim : Statement .mastClaim := by rintro w ⟨⟩
theorem Sys2Proof.Laws.Encoded.mastRelease : Statement .mastRelease := by rintro w ⟨⟩
theorem Sys2Proof.Laws.Encoded.attestationRequest : Statement .attestationRequest := by rintro w ⟨⟩
theorem Sys2Proof.Laws.Encoded.genericRegisterWrite (off : Nat) (v : Dword) : Statement (.genericRegisterWrite off v) := by rintro w ⟨⟩
theorem Sys2Proof.Laws.Encoded.bar0BadAccess (off width : Nat) (write : Bool) : Statement (.bar0BadAccess off width write) := by rintro w ⟨⟩
theorem Sys2Proof.Laws.Encoded.qctlWrite (q : BitVec 6) (v : Dword) : Statement (.qctlWrite q v) := by rintro w ⟨⟩
theorem Sys2Proof.Laws.Encoded.qtailWrite (q : BitVec 6) (v : Dword) : Statement (.qtailWrite q v) := by rintro w ⟨⟩
theorem Sys2Proof.Laws.Encoded.qstatWrite (q : BitVec 6) (v : Dword) : Statement (.qstatWrite q v) := by rintro w ⟨⟩
theorem Sys2Proof.Laws.Encoded.qspbufWrite (q : BitVec 6) (hi : Bool) (v : Dword) : Statement (.qspbufWrite q hi v) := by rintro w ⟨⟩
theorem Sys2Proof.Laws.Encoded.mbin3Write (f : BitVec 3) (v : Dword) : Statement (.mbin3Write f v) := by rintro w ⟨⟩
theorem Sys2Proof.Laws.Encoded.fwinEnable (w : BitVec 4) (v : Dword) : Statement (.fwinEnable w v) := by rintro w ⟨⟩
theorem Sys2Proof.Laws.Encoded.fwinDisable (w : BitVec 4) (v : Dword) : Statement (.fwinDisable w v) := by rintro w ⟨⟩
theorem Sys2Proof.Laws.Encoded.fwinDisableComplete (w : BitVec 4) : Statement (.fwinDisableComplete w) := by rintro w ⟨⟩
theorem Sys2Proof.Laws.Encoded.mastringWrite (die : BitVec 3) (m : BitVec 5) (v : Dword) : Statement (.mastringWrite die m v) := by rintro w ⟨⟩
theorem Sys2Proof.Laws.Encoded.mastclrClearLock (die : BitVec 3) (m : BitVec 5) (v : Dword) : Statement (.mastclrClearLock die m v) := by rintro w ⟨⟩
theorem Sys2Proof.Laws.Encoded.mastclrClearAll (die : BitVec 3) (m : BitVec 5) (v : Dword) : Statement (.mastclrClearAll die m v) := by rintro w ⟨⟩
theorem Sys2Proof.Laws.Encoded.rlogctlWrite (v : Dword) : Statement (.rlogctlWrite v) := by rintro w ⟨⟩
theorem Sys2Proof.Laws.Encoded.ptrootWrite (v : Dword) : Statement (.ptrootWrite v) := by rintro w ⟨⟩
theorem Sys2Proof.Laws.Encoded.skctlClr (u : BitVec 2) (v : Dword) : Statement (.skctlClr u v) := by rintro w ⟨⟩
theorem Sys2Proof.Laws.Encoded.trctlWrite (die : BitVec 3) (v : Dword) : Statement (.trctlWrite die v) := by rintro w ⟨⟩
theorem Sys2Proof.Laws.Encoded.pwrctlWrite (die : BitVec 3) (v : Dword) : Statement (.pwrctlWrite die v) := by rintro w ⟨⟩
theorem Sys2Proof.Laws.Encoded.bootgoWrite (v : Dword) : Statement (.bootgoWrite v) := by rintro w ⟨⟩
theorem Sys2Proof.Laws.Encoded.firmwareReady (b : BringUp) : Statement (.firmwareReady b) := by rintro w ⟨⟩
theorem Sys2Proof.Laws.Encoded.hostBar2Read (addr len : Nat) : Statement (.hostBar2Read addr len) := by rintro w ⟨⟩
theorem Sys2Proof.Laws.Encoded.hostBar2Write (addr : Nat) (data : List Byte) : Statement (.hostBar2Write addr data) := by rintro w ⟨⟩
theorem Sys2Proof.Laws.Encoded.packageReset : Statement .packageReset := by rintro w ⟨⟩
theorem Sys2Proof.Laws.Encoded.hbmTrainingComplete : Statement .hbmTrainingComplete := by rintro w ⟨⟩
theorem Sys2Proof.Laws.Encoded.correctedError (die : BitVec 3) (e : ErrPlace) : Statement (.correctedError die e) := by rintro w ⟨⟩
theorem Sys2Proof.Laws.Encoded.reggrowSpillLoadComplete (p : Nat) : Statement (.reggrowSpillLoadComplete p) := by rintro w ⟨⟩
theorem Sys2Proof.Laws.Encoded.residencyRequestService : Statement .residencyRequestService := by rintro w ⟨⟩
theorem Sys2Proof.Laws.Encoded.fenceMarkerAckArrival (n : Envelope × BitVec 19) (p : Nat) : Statement (.fenceMarkerAckArrival n p) := by rintro w ⟨⟩
theorem Sys2Proof.Laws.Encoded.hoistAcknowledgmentArrival (a : Envelope × Nat) : Statement (.hoistAcknowledgmentArrival a) := by rintro w ⟨⟩
theorem Sys2Proof.Laws.Encoded.linkUp (port : Nat) : Statement (.linkUp port) := by rintro w ⟨⟩
theorem Sys2Proof.Laws.Encoded.pciePortUp (port : Nat) : Statement (.pciePortUp port) := by rintro w ⟨⟩
theorem Sys2Proof.Laws.Encoded.l2Eviction (line : Nat) : Statement (.l2Eviction line) := by rintro w ⟨⟩
end

