-- ==== Sys2Proof/Tests/Slice0.lean ====
section
/-! SUPPORT. Tests of the model, each about one word or one step of a small state, and for every obligation with hypotheses a state
and operands that meet them. Expected values come from the spec's rules and examples, as the comments say. -/

set_option Elab.async false -- one kernel evaluation at a time

namespace Sys2Proof.Tests

open Sys2Proof Sys2Proof.Machine

/-! The states of the tests: `u` is a group of the widest allotments that may issue from slot A (R74); the rest add to it. -/

/-- A group at group slot 0, as it is placed, that issues `NOP` next. -/
def u : State := State.reset.placeWord 0x9C000000
/-- A state with its issuing group changed. -/
def onG (s : State) (f : Group → Group) : State := s.setGroup s.cur (f s.g)
/-- A state with its issuing slot changed. -/
def onS (s : State) (f : Slot → Slot) : State := s.setSl (f s.sl)
/-- A state with `gm` of the issuing slot replaced. -/
def withGm (s : State) (m : Word) : State := onS s fun x => { x with gm := m }
/-- A state with words of vector registers, as (register, lane, word), set. -/
def withV (s : State) (vs : List (Nat × Nat × Word)) : State :=
  onG s fun g => { g with v := vs.foldl (fun t e => t.put (e.1 * 32 + e.2.1) { val := e.2.2 }) g.v }
/-- A state with scalar registers set. -/
def withS (s : State) (ss : List (Nat × Dword)) : State :=
  onG s fun g => { g with s := ss.foldl (fun t e => t.put e.1 { val := e.2 }) g.s }
/-- All 32 lanes. -/
def all : Word := BitVec.allOnes 32
/-- A field of the next state; `d` where there is none. -/
def next {α : Type} (o : Host.Outcome State Fault Refusal) (d : α) (f : State → α) : α :=
  match o with
  | .next t => f t
  | _ => d
/-- The state of an outcome; reset where there is none. -/
def nx (o : Host.Outcome State Fault Refusal) : State := next o State.reset id

/-! Decoding and encoding, one word a row: the row's fixed bits of the opcode table with its fields at the places of R29 to R31,
R62 and R63 and the codes of R30, R31, R35 and R64. -/

/-- The word stands for the instruction, both ways. -/
def isWord (w : Word) (i : Instr) : Bool := decode w = some i && encode i = some w

theorem test_words_integer1 :
    isWord 0x04554F50 (.iadd 85 79 80) ∧
    isWord 0x05959084 (.isub 149 144 132) ∧
    isWord 0x06A8E816 (.imul 168 232 22) ∧
    isWord 0x070D2816 (.imulh 13 40 22) ∧
    isWord 0x08D3659C (.iaddImm 211 101 156) ∧
    isWord 0x09F873C9 (.isubImm 248 115 201) ∧
    isWord 0x0A922D61 (.imulImm 146 45 97) ∧
    isWord 0x0B35540F (.imulhImm 53 84 15) ∧
    isWord 0x0CCA65EF (.imad 202 101 239) ∧
    isWord 0x0DBC9AD5 (.imin 188 154 213) ∧
    isWord 0x0E2F0D7D (.imax 47 13 125) ∧
    isWord 0x0FC0A000 (.iabs 192 160) := by decide +kernel

theorem test_words_integer2 :
    isWord 0x10A1DF23 (.and 161 223 35) ∧
    isWord 0x118DD2EB (.or 141 210 235) ∧
    isWord 0x12B903BD (.xor 185 3 189) ∧
    isWord 0x138E0000 (.not 142 0) ∧
    isWord 0x14CE3E73 (.andImm 206 62 115) ∧
    isWord 0x153279F1 (.orImm 50 121 241) ∧
    isWord 0x16084C52 (.xorImm 8 76 82) ∧
    isWord 0x1831770A (.shl 49 119 10) ∧
    isWord 0x19631BAD (.shr 99 27 173) ∧
    isWord 0x1AE7798B (.sar 231 121 139) ∧
    isWord 0x1C55211F (.shlImm 85 33 31) ∧
    isWord 0x1D1DDDB2 (.shrImm 29 221 178) := by decide +kernel

theorem test_words_integer3 :
    isWord 0x1EA22C6F (.sarImm 162 44 111) ∧
    isWord 0x20560E00 (.clz 86 14) ∧
    isWord 0x21D5F800 (.popc 213 248) ∧
    isWord 0x228B2F00 (.brev 139 47) ∧
    isWord 0x23F42400 (.mov 244 36) ∧
    isWord 0x248B9125 (.bfe 139 145 37) ∧
    isWord 0x255E537F (.bfi 94 83 127) ∧
    isWord 0x26C3D30F (.sel 195 211 15) ∧
    isWord 0x2AEB6FEA (.lea 2 235 111 234) ∧
    isWord 0x2F7997C8 (.movi 121 0xE5F2) ∧
    isWord 0x2E71A779 (.movhi 113 0xA9DE) := by decide +kernel

theorem test_words_compare :
    isWord 0x30098B30 (.icmp .eq 9 139 48) ∧
    isWord 0x3126A3E3 (.icmpImm .lt 6 163 227) ∧
    isWord 0x322D1206 (.fcmp .lt 13 18 6) := by decide +kernel

theorem test_words_scalar1 :
    isWord 0x34011A04 (.sadd 1 26 4) ∧
    isWord 0x35145849 (.ssub 20 88 73) ∧
    isWord 0x36244A5C (.smul 36 74 92) ∧
    isWord 0x37004560 (.scmp 69 96) ∧
    isWord 0x3824592B (.sand 36 89 43) ∧
    isWord 0x39225D1B (.sor 34 93 27) ∧
    isWord 0x3A171632 (.sxor 23 22 50) ∧
    isWord 0x3B2E6500 (.smov 46 101) ∧
    isWord 0x3C2A1F5D (.sshl 42 31 93) ∧
    isWord 0x3D300860 (.sshr 48 8 96) ∧
    isWord 0x3E35555D (.ssar 53 85 93) ∧
    isWord 0x4102E9C4 (.smovImm 2 0x7A71) := by decide +kernel

theorem test_words_scalar2 :
    isWord 0x40146AC1 (.saddImm 20 0x1AB0) ∧
    isWord 0x42501036 (.scmpImm 80 0x840D) := by decide +kernel

theorem test_words_float1 :
    isWord 0x44DD1B31 (.fadd 221 27 49) ∧
    isWord 0x456A379C (.fsub 106 55 156) ∧
    isWord 0x4699DDDB (.fmul 153 221 219) ∧
    isWord 0x4704C075 (.fma 4 192 117) ∧
    isWord 0x48A5FFE3 (.fmin 165 255 227) ∧
    isWord 0x49BD31F8 (.fmax 189 49 248) ∧
    isWord 0x4AFE0200 (.fabs 254 2) ∧
    isWord 0x4BDA1C00 (.fneg 218 28) ∧
    isWord 0x4CCD5100 (.frcp 205 81) ∧
    isWord 0x4DBD5700 (.frsq 189 87) ∧
    isWord 0x4ECB7300 (.fsqrt 203 115) ∧
    isWord 0x4FB65536 (.fscale 182 85 54) := by decide +kernel

theorem test_words_float2 :
    isWord 0x50F76000 (.fexp2 247 96) ∧
    isWord 0x51810800 (.flog2 129 8) ∧
    isWord 0x52271900 (.fsin 39 25) ∧
    isWord 0x5308FD00 (.fcos 8 253) ∧
    isWord 0x5410FB00 (.ftanh 16 251) ∧
    isWord 0x55D69300 (.cvt 214 147) ∧
    isWord 0x587EE397 (.pack 126 227 151) ∧
    isWord 0x5904FD6C (.unpack 4 253 108) := by decide +kernel

theorem test_words_crossLane :
    isWord 0x5E4DD8F4 (.shfl .up 77 216 244) ∧
    isWord 0x612A1C95 (.shflImm .xor 42 28 149) ∧
    isWord 0x64811695 (.bcast 129 22 149) ∧
    isWord 0x652C0500 (.mbcnt 44 5) ∧
    isWord 0x660F0E54 (.vote 15 14 84) ∧
    isWord 0x6ACF1500 (.redx .max 207 21) ∧
    isWord 0x6F255200 (.scan .max 37 82) := by decide +kernel

theorem test_words_predicate :
    isWord 0x70040B09 (.pand 4 11 9) ∧
    isWord 0x71060701 (.por 6 7 1) ∧
    isWord 0x720F050C (.pxor 15 5 12) ∧
    isWord 0x73080500 (.pnot 8 5) ∧
    isWord 0x740C0D00 (.pmov 12 13) ∧
    isWord 0x753E0500 (.pcnt 62 5) ∧
    isWord 0x76070700 (.pfirst 7 7) ∧
    isWord 0x785D5C00 (.kmov 29 92) ∧
    isWord 0x79516612 (.kld 17 102 18) ∧
    isWord 0x7C26002C (.sread 38 0x000B) ∧
    isWord 0x7C57002D (.swrite 87 0x000B) := by decide +kernel

theorem test_words_control1 :
    isWord 0x800401D6 (.br 262614) ∧
    isWord 0x8478F15E (.brc .le 586078) ∧
    isWord 0x88548B32 (.brz 5 297778) ∧
    isWord 0x8CD2E5F1 (.brnz 13 189937) ∧
    isWord 0x90062D97 (.call 404887) ∧
    isWord 0x947A328B (.fork 7 668299) ∧
    isWord 0x98B18509 (.yieldc 11 99593) ∧
    isWord 0x9C000000 .nop ∧
    isWord 0x9D000000 .exit ∧
    isWord 0x9E000000 .yield ∧
    isWord 0x9F000000 .join ∧
    isWord 0xA0002100 (.ret 33) := by decide +kernel

theorem test_words_control2 :
    isWord 0xA1002F00 (.setmode 47) ∧
    isWord 0xA4005360 (.trap 0x14D8) ∧
    isWord 0xA7006059 (.brk 0xD816) ∧
    isWord 0xA400000E (.modef .guard 0x0003) ∧
    isWord 0xA8000003 (.bar 3) ∧
    isWord 0xA9000003 (.cbar 3) ∧
    isWord 0xAA000020 (.reggrow 32) ∧
    isWord 0xAB000020 (.regshrink 32) := by decide +kernel

theorem test_words_memory1 :
    isWord 0xAD1B47E6 (.ld .c .half 180 3 (.step 230)) ∧
    isWord 0xB2267C0D (.st .s .word 103 6 (.vec 13)) ∧
    isWord 0xB5C2CE6D (.ldn .d 4 44 7 (.vec 109)) ∧
    isWord 0xB8AFBABA (.stn .t 2 251 5 (.vec 186)) ∧
    isWord 0xBE307612 (.ldp .p4 .dword 7 3 (.vec 18)) ∧
    isWord 0xC1014EE0 (.atom .c .add 1 78 224) ∧
    isWord 0xC6219719 (.atomr .s .min 1 151 25) ∧
    isWord 0xC8000A39 (.preq 5 (.vec 57)) ∧
    isWord 0xC81008FB (.pref 4 (.vec 251)) ∧
    isWord 0xC8200700 (.rcmark 3 (.step 0)) ∧
    isWord 0xC8300000 (.fenceAcq .g) ∧
    isWord 0xC9400000 (.fenceRel .c) := by decide +kernel

theorem test_words_memory2 :
    isWord 0xCA500000 (.fenceAr .s) := by decide +kernel

theorem test_words_matrix :
    isWord 0xCC02003E (.xlat 2 0 62) ∧
    isWord 0xCD000400 (.publish 4) ∧
    isWord 0xCE020000 (.xrel 2) ∧
    isWord 0xD0080A0C (.mma 0 8 10 12) ∧
    isWord 0xD4106900 (.mmaq 16 105) ∧
    isWord 0xD50D3B07 (.mmaqs 13 59 7) ∧
    isWord 0xD6000007 (.acommit 7) ∧
    isWord 0xD7000007 (.adiscard 7) ∧
    isWord 0xD8140000 (.azero 20) ∧
    isWord 0xD90B02FA (.amov 11 2 250) ∧
    isWord 0xDA630712 (.acvt 99 7 18) := by decide +kernel

theorem test_words_copy :
    isWord 0xDD844AAA (.cpy .b8 4 1 74 170) ∧
    isWord 0xE05806E1 (.cpg 2 6 6 225) ∧
    isWord 0xE40A0241 (.cpt 10 2 65) ∧
    isWord 0xE50D0861 (.cpq 13 8 97) ∧
    isWord 0xE80000B8 (.cpwaitSrc 184) ∧
    isWord 0xE9000009 (.cpwaitVis 9) ∧
    isWord 0xEA2800BE (.cptest 40 190) ∧
    isWord 0xEB2700D3 (.seal 39 211) := by decide +kernel

theorem test_words_landing :
    isWord 0xEC050600 (.lzopen 5 6) ∧
    isWord 0xED000A00 (.lzclose 10) ∧
    isWord 0xEE255C25 (.lzres 37 92 37) ∧
    isWord 0xEF1D0C09 (.lzstat 29 12 9) ∧
    isWord 0xF000475B (.lzwait 71 91) ∧
    isWord 0xF1005328 (.lzfree 83 40) ∧
    isWord 0xF441E803 (.cpl .b4 65 7 4 3) := by decide +kernel

theorem test_words_shipped :
    isWord 0xF80B3440 (.shipW 11 52 2) ∧
    isWord 0xF93534D8 (.shipT 53 52 6 6) ∧
    isWord 0xFC000007 (.waitk 7) ∧
    isWord 0xFD090007 (.testk 9 7) ∧
    isWord 0xFE000000 .sret := by decide +kernel

/-! Worked examples of the spec. -/

/-- R82: dtype n8, `IADD v1, v2, -3` of 0x0102_FF05, with sat = 1 and with sat = 0. -/
theorem test_iaddImm_n8 :
    (next (exec (.iaddImm 1 2 0xFD) (withV (withGm u 0x02004000) [(2, 31, 0x0102FF05)])) 0 fun t => (t.g.getV 1 31).val) = 0x0000FC02 ∧
    (next (exec (.iaddImm 1 2 0xFD) (withV (withGm u 0x02000000) [(2, 31, 0x0102FF05)])) 0 fun t => (t.g.getV 1 31).val) = 0xFEFFFC02 := by
  decide +kernel

/-- R111: `SCAN.XADD v6, v5` and `REDX.ADD v7, v5` of 4, 1, 7 and 2 in lanes 0, 2, 3 and 5. -/
def scanState : State :=
  withV (onS u fun x => { x with gm := 0x01000000, mask := 0x2D }) [(5, 0, 4), (5, 2, 1), (5, 3, 7), (5, 5, 2), (6, 1, 9)]
theorem test_scan_xadd : ([0, 2, 3, 5, 1].map fun l => next (exec (.scan .xadd 6 5) scanState) 0 fun t => (t.g.getV 6 l).val) =
    [0, 4, 5, 12, 9] := by decide +kernel
theorem test_redx_add : ([0, 2, 3, 5, 1].map fun l => next (exec (.redx .add 7 5) scanState) 0 fun t => (t.g.getV 7 l).val) =
    [14, 14, 14, 14, 0] := by decide +kernel

/-- R98: the four `PACK`s into `v8` with dtype e4m3 and stype f32, and the `UNPACK` back. -/
def packed (gm : Word) : State :=
  [0, 1, 2, 3].foldl (fun s i => nx (exec (.pack 8 (BitVec.ofNat 8 (1 + i)) (BitVec.ofNat 8 i)) s))
    (withV (withGm u gm) [(1, 0, 0x3FC00000), (2, 0, 0x43E00000), (3, 0, 0x447A0000), (4, 0, 0xBF000000)])
theorem test_pack : ((packed 0x05A00000).g.getV 8 0).val = 0xB07F7E3C ∧ ((packed 0x05A04000).g.getV 8 0).val = 0xB07E7E3C := by
  decide +kernel
theorem test_unpack :
    (next (exec (.unpack 9 8 3) (withGm (packed 0x05A00000) 0x042C0000)) 0 fun t => (t.g.getV 9 0).val) = 0xBF000000 := by decide +kernel

/-- R192: eight 4 KiB slots at 0x2_0000 under generation 0x01 and tag 0x5C_192E; the handle of slot 0 on node 5, die 2, core 17;
the state words after the reservation, after 3072 bytes and after all. -/
def zoneState : State :=
  nx (exec (.lzopenComplete 0 0 0x5C192E) (nx (exec (.lzopen 20 21)
    ((withS (u.setTeam 0 { u.tm with units := 3 }) [(21, 0x07420000)]).setZone 0 0 { gen := 1 }))))
theorem test_lzopen_descriptor : (zoneState.g.getS 20).val = 0x015C192E1D020000 ∧ handleOf 1 5 2 17 0 0 4 = 0x80010000A8440004 := by
  decide +kernel
theorem test_lzstat_words :
    let r : LzPeerReq := { node := 9, gkey := 3, die := 0, core := 0, zone := 0, gen := 1, tag := 0x5C192E }
    let word := fun (f : LzSlot → LzSlot) =>
      let t := (zoneState.reserve r none).1
      let t := withS (t.setZone 0 0 { t.zone 0 0 with slots := (t.zone 0 0).slots.put 0 (f ((t.zone 0 0).slot 0)) }) [(20, 0x015C192E1D020000)]
      let t := nx (exec (.lzstat 7 20 8) t)
      ((nx (exec (.lzstatComplete 0 (t.nextId - 1)) t)).g.getS 7).val
    word id = 0x2001000000001000 ∧ word (·.credit 3072) = 0x4001000000000400 ∧
      word (fun x => (x.credit 3072).credit 1024) = 0x6001000000000000 := by decide +kernel

/-- The words of the spec's examples (R73, R82, R98, R111, R192). -/
theorem test_words_examples :
    isWord 0x46020101 (.fmul 2 1 1) ∧ isWord 0xCC000405 (.xlat 0 4 5) ∧ isWord 0xAC201100 (.ld .g .word 1 0 (.step 0)) ∧
    isWord 0xB0202100 (.st .g .word 2 0 (.step 0)) ∧ isWord 0x6D060500 (.scan .xadd 6 5) ∧ isWord 0x58080302 (.pack 8 3 2) ∧
    isWord 0xEC141500 (.lzopen 20 21) ∧ isWord 0xEE161417 (.lzres 22 20 23) ∧ isWord 0xF6164004 (.cpl .b16 0x16 2 0 4) ∧
    isWord 0xF0001419 (.lzwait 20 25) := by decide +kernel

/-! For every obligation with hypotheses: a state and operands that meet those of each clause together. -/

/-- The conditions on operands, unfolded: each a decidable fact about a concrete state. -/
theorem witness_vectorOperands :
    Lanes u all ∧ HasDtype u .f32 ∧ Owned u [255, 254, 0] ∧ Clean u all [255, 254, 0] ∧ HasDtype (withGm u 0) .s8 ∧ Lanes (withGm u 0) all ∧
    Lanes (onS (withGm u 0x10000000) fun x => { x with mask := 1 }) 0 := by
  unfold Lanes HasDtype Owned Clean; decide +kernel

theorem witness_IntegerArithmetic : Lanes (withGm u 0x02004000) all ∧ HasDtype (withGm u 0x02004000) .n8 ∧
    Owned (withGm u 0x02004000) [255, 1, 2] ∧ Clean (withGm u 0x02004000) all [1, 2] ∧ Clean (withGm u 0x02004000) all [255] := by
  unfold Lanes HasDtype Owned Clean; decide +kernel

theorem witness_IntegerResultsFit : tyS .bp2 = true ∧ tyN .n64 = true ∧ tyS .n64 = false := by decide

theorem witness_WordLogicAndMoves : Lanes u 0xFFFFFFFF ∧ Owned u [255, 0, 0] ∧ Clean u 0xFFFFFFFF [0, 0] ∧ Clean u 0xFFFFFFFF [255] := by
  unfold Lanes Owned Clean; decide +kernel

theorem witness_Shifts : Lanes (withGm u 0x00800000) all ∧ HasDtype (withGm u 0x00800000) .s16 ∧ Owned (withGm u 0x00800000) [3, 1, 2] ∧
    Clean (withGm u 0x00800000) all [1, 2] := by unfold Lanes HasDtype Owned Clean; decide +kernel

theorem witness_BitCountsAndFields : Lanes (withGm u 0x03000000) all ∧ HasDtype (withGm u 0x03000000) .n32 ∧
    Owned (withGm u 0x03000000) [3, 1, 2] ∧ Clean (withGm u 0x03000000) all [1, 2] ∧ Clean (withGm u 0x03000000) all [3] := by
  unfold Lanes HasDtype Owned Clean; decide +kernel

theorem witness_ComparesWritePredicates : Lanes u all ∧ HasDtype u .f32 ∧ Owned u [1, 2] ∧ Clean u all [1, 2] ∧
    Lanes (withGm u 0x01000000) all ∧ HasDtype (withGm u 0x01000000) .s32 := by unfold Lanes HasDtype Owned Clean; decide +kernel

theorem witness_PredicateInstructions : Lanes u all ∧ (u.g.getP 15).poison = false ∧ (u.g.getP 0).poison = false ∧ u.g.sect = none ∧
    2 < (3 : BitVec 8).toNat := by unfold Lanes; decide +kernel

theorem witness_FloatArithmetic : [(0x04200000, Ty.f32), (0x04A00000, .f16), (0x05200000, .bf16)].all fun e =>
    (tyOf (gmDtype e.1) = some e.2) && !ty64 e.2 := by decide
theorem witness_FloatArithmetic_operands : Lanes (withGm u 0x04A24000) all ∧ HasDtype (withGm u 0x04A24000) .f16 ∧
    Owned (withGm u 0x04A24000) [3, 1, 2] ∧ Clean (withGm u 0x04A24000) all [1, 2] ∧ Clean (withGm u 0x04A24000) all [3] := by
  unfold Lanes HasDtype Owned Clean; decide +kernel

theorem witness_ApproximatedFunctions : Lanes u all ∧ HasDtype u .f32 ∧ Owned u [3, 1] ∧ Clean u all [1] ∧ u.flagFull = false := by
  unfold Lanes HasDtype Owned Clean; decide +kernel

theorem witness_ApproximationSpecialValues :
    (0x04200000 : Word).getLsbD 12 = false ∧ (0x04200000 : Word).getLsbD 13 = false ∧ (0x04200000 : Word).getLsbD 14 = false ∧
    decodeNum .f32 false 0x7FC00000 = .nan ∧ (∃ m e, decodeNum .f32 false 0xBF800000 = .fin true m e ∧ m ≠ 0) ∧
    ∃ m e, decodeNum .f32 false 0x40800000 = .fin false m e ∧ m ≠ 0 := by
  refine ⟨rfl, rfl, rfl, by decide, ⟨_, _, rfl, by decide⟩, ⟨_, _, rfl, by decide⟩⟩

/-- `CVT` and `PACK` from f32 to e4m3, `UNPACK` from e4m3 to f32. -/
theorem witness_ConversionsOfElements :
    (let s := withGm u 0x05A00000
     Lanes s all ∧ HasDtype s .e4m3 ∧ tyOf (gmStype s.sl.gm) = some .f32 ∧ ty64 .f32 = false ∧ Owned s [8, 1] ∧ Clean s all [1] ∧
      Clean s all [8] ∧ ((3 : BitVec 8).toNat + 1) * tyCount .f32 ≤ tyCount .e4m3) ∧
    (let s := withGm u 0x042C0000
     Lanes s all ∧ HasDtype s .f32 ∧ tyOf (gmStype s.sl.gm) = some .e4m3 ∧ Owned s [8, 1] ∧ Clean s all [1] ∧
      ((3 : BitVec 8).toNat + 1) * tyCount .f32 ≤ tyCount .e4m3) := by unfold Lanes HasDtype Owned Clean; decide +kernel

theorem witness_CrossLaneMoves : Lanes u all ∧ (254 : BitVec 8).toNat < 255 ∧ Owned u [3, 254, 255] ∧ (u.g.getP 1).poison = false ∧
    (∀ r < 256, ∀ l < 32, (u.g.getV r l).poison = false) ∧ Owned u [3, 1, 2] ∧ Clean u all [2] ∧ (31 : BitVec 8).toNat < 32 := by
  unfold Lanes Owned Clean; decide +kernel

theorem witness_ReductionsAndScans :
    (let s := withGm u 0x01000000
     Lanes s all ∧ HasDtype s .s32 ∧ Owned s [6, 5] ∧ Clean s all [5] ∧ ¬ (Ty.s32 = .f32 ∨ Ty.s32 = .f16 ∨ Ty.s32 = .bf16)) ∧
    (Lanes u all ∧ HasDtype u .f32 ∧ Owned u [6, 5] ∧ Clean u all [5]) := by unfold Lanes HasDtype Owned Clean; decide +kernel

theorem witness_ScalarArithmetic : SideOk u 63 ∧ SideOk u 64 ∧ SideOk u 127 ∧ (u.g.getS 63).poison = false := by
  unfold SideOk; decide +kernel

theorem witness_LeaScalesAndAdds : Lanes u all ∧ Owned u [3, 1, 2] ∧ Clean u all [1, 2] := by unfold Lanes Owned Clean; decide +kernel
theorem witness_PcntCountsActiveLanes : Lanes u all ∧ (u.g.getP 15).poison = false ∧ 0x40 ≤ (0x40 : BitVec 8).toNat := by
  unfold Lanes; decide +kernel

/-- A kernel of 64 code bytes at 0x40000000, all of them clause starts, in the slot's clause at its first header. -/
def coded (s : State) : State :=
  let c := s.ctx 0
  let s := s.setCtx 0 { c with codeva := 0x40000000, kernel := { c.kernel with codeBytes := 64, mapPa := 0x200, codeva := 0x40000000 } }
  let s := s.putBytes 0x200 [0xFF, 0xFF]
  onS s fun x => { x with pc := 0x40000004, clause := some { hdr := 0x40000000, header := 0xFF00, words := [0x9C000000], idx := 0 } }

theorem witness_BranchesAndCalls :
    (let s := withS (coded u) [(7, 0x40000004), (8, 2), (9, 0x200000000000000)]
     s.targetOk s.cur (s.sl.header + BitVec.ofInt 57 (4 * (15 : BitVec 20).toInt)) = true ∧
      s.targetOk s.cur (s.sl.header + BitVec.ofInt 57 (4 * (16 : BitVec 20).toInt)) = false ∧ SideOk s 7 ∧
      (s.side 7).val.toNat % 4 = 0 ∧ (s.side 7).val.toNat < 2 ^ 57 ∧ s.targetOk s.cur ((s.side 7).val.setWidth 57) = true ∧
      (s.g.getP 1).poison = false ∧ (s.g.getP 1).val &&& s.sl.mask = 0 ∧ (s.g.getP 0).val &&& s.sl.mask ≠ 0 ∧
      SideOk s 8 ∧ (s.side 8).val.toNat % 4 ≠ 0 ∧
      SideOk s 9 ∧ (s.side 9).val.toNat % 4 = 0 ∧ 2 ^ 57 ≤ (s.side 9).val.toNat) := by unfold SideOk; decide +kernel

/-- `coded` with `p1` true in lanes 0 to 7, a scratchpad of eleven units and a stack at its base. -/
def forked : State :=
  let s := coded u
  let s := s.setTeam 0 { s.tm with units := 11 }
  onG s fun g => { g with p := g.p.put 1 { val := 0xFF }, s := g.s.put 63 { val := 0x1FF000000000000 },
                          dsbase := 0x1FF000000000000, dslim := 0x1FF000000000100 }
/-- The other slot parked at a word. -/
def parkedAt (w : Addr) (s : State) : State := s.setOther { state := .parked w, pc := w, mask := 0xF0 }

theorem witness_ForkSplitsTheSlot :
    (let s := forked
     (s.g.getP 1).poison = false ∧ s.sl.gmPoison = false ∧ s.sl.mask &&& (s.g.getP 1).val ≠ 0 ∧ s.sl.mask &&& ~~~(s.g.getP 1).val ≠ 0 ∧
      s.targetOk s.cur (s.sl.header + BitVec.ofInt 57 (4 * (6 : BitVec 20).toInt)) = true ∧ s.other.state = .free) ∧
    (let s := forked
     s.sl.mask &&& (s.g.getP 2).val = 0 ∧ s.sl.mask &&& ~~~(s.g.getP 0).val = 0) ∧
    (let s := parkedAt 0x40000020 forked
     let sp := (s.g.getS 63).val
     s.other.state ≠ .free ∧ s.g.getS 63 = { val := sp } ∧ sp.toNat % 16 = 0 ∧ s.g.dsbase.toNat ≤ sp.toNat ∧
      sp.toNat + 16 ≤ s.g.dslim.toNat ∧ sp.toNat - s.g.dsbase.toNat < 0x100000) := by decide +kernel
/-- The entry that the third clause pushes is accepted, and `FORK` of a group whose two slots are in use pushes it. -/
theorem witness_ForkSplitsTheSlot_push :
    (match (parkedAt 0x40000020 forked).putEntry (.fork 1 6) 0x1FF000000000000
        ⟨false, .A, forked.sl.cc, forked.sl.pc + 4, forked.sl.gm, 0xFFFFFF00⟩ with
      | .ok _ => true | .error _ => false) = true ∧
    next (exec (.fork 1 6) (parkedAt 0x40000020 forked)) 0 (fun t => (t.g.getS 63).val) = 0x1FF000000000010 := by decide +kernel

theorem witness_JoinAndExitOfAnEmptyStack :
    (let s := forked
     s.g.getS 63 = { val := 0x1FF000000000000 } ∧ s.sl.own = 0 ∧ s.g.dsbase = 0x1FF000000000000 ∧ isMast s.cur = false ∧
      s.other.state = .free) ∧
    (parkedAt 0x40000004 forked).other.state = .parked (parkedAt 0x40000004 forked).sl.pc ∧
    (parkedAt 0x40000020 forked).other.state = .parked 0x40000020 ∧ (0x40000020 : Addr) ≠ (parkedAt 0x40000020 forked).sl.pc ∧
    (let s := forked.setOther { state := .live }
     s.other.state ≠ .free ∧ (∀ b < 4, s.other.state ≠ .waiting (.bar b) ∧ s.other.state ≠ .waiting (.cbar b))) ∧
    (forked.setOther { state := .waiting (.bar 3) }).other.state = .waiting (.bar 3) ∧
    (onS forked fun x => { x with state := .parked x.pc }).g.due .A = true ∧
    (onS forked fun x => { x with state := .exitwait }).g.due .A = true ∧
    isMast ({ u with cur := 2 ^ 18 } : State).cur = true := by decide +kernel

/-- `forked` with an entry of the issuing slot on its stack. -/
def stacked (e : Entry) : State :=
  let s := match forked.putEntry (.fork 1 6) 0x1FF000000000000 e with
    | .ok t => t
    | .error _ => forked
  onS (onG s fun g => { g with s := g.s.put 63 { val := 0x1FF000000000010 } }) fun x => { x with own := 1 }
/-- The top entry as `JOIN` reads it, and the state after the read. -/
def topEntry (s : State) : Option (State × Entry) :=
  match s.entryLoc .join 0x1FF000000000000 .read with
  | .ok loc =>
    let r := (s.touchUnit s.cur s.sl.pc .g loc 0x1FF000000000000 16 false).readLoc s.cur loc 16 .g
    if r.2.any (·.2) then none else (Entry.ofBytes (r.2.map (·.1))).map fun e => (r.1, e)
  | .error _ => none
/-- A pending entry of slot A that starts at a word, and one that waits there. -/
def entryAt (waiting : Bool) (w : Addr) (owner : SlotId := .A) : Entry := ⟨waiting, owner, {}, w, 0x04200000, 0xF⟩
theorem witness_JoinAndExitOfAnEmptyStack_owned :
    (let s := stacked (entryAt false 0x40000020)
     s.g.getS 63 = { val := 0x1FF000000000010 } ∧ 0x1FF000000000010 % 16 = 0 ∧ s.g.dsbase.toNat + 16 ≤ 0x1FF000000000010 ∧
      0x1FF000000000010 ≤ s.g.dslim.toNat ∧ s.sl.gmPoison = false ∧ isMast s.cur = false ∧
      (topEntry s).any (fun r => r.2 = entryAt false 0x40000020 && r.1.targetOk s.cur r.2.addr &&
        (match r.1.putEntry .join 0x1FF000000000000 ⟨true, .A, s.sl.cc, s.sl.pc, s.sl.gm, s.sl.mask⟩ with
          | .ok _ => true | .error _ => false)) = true ∧
      (topEntry (stacked (entryAt false 0x40000120))).any (fun r => !r.1.targetOk s.cur r.2.addr) = true) ∧
    (let s := stacked (entryAt true 0x40000004)
     (topEntry s).any (fun r => r.2.waiting && r.2.addr = s.sl.pc && r.1.targetOk s.cur (r.2.addr + 4)) = true) ∧
    (let s := stacked (entryAt true 0x40000008)
     (topEntry s).any (fun r => r.2.waiting && r.2.addr != s.sl.pc) = true) ∧
    (let s := stacked (entryAt false 0x40000020 .B)
     (topEntry s).any (fun r => r.2.owner != s.curSlot) = true ∧ 0 < s.sl.own ∧ (0x1FF000000000010 : Dword) ≠ s.g.dsbase) ∧
    (let s := onS forked fun x => { x with own := 1 }
     s.g.getS 63 = { val := s.g.dsbase } ∧ 0 < s.sl.own ∧ s.other.state ≠ .waiting (.bar 3) ∧
      (s.setOther { state := .waiting (.bar 3) }).other.state = .waiting (.bar 3)) := by decide +kernel

theorem witness_ModeAndNoEffect :
    (let s := withS u [(1, 0xFFFFFFFF0BD84000), (2, 0x0C000000)]
     let valid := fun (m : Word) => m.toNat / 2 ^ 23 % 32 < 24 ∧ m.toNat / 2 ^ 18 % 32 < 24 ∧ m.toNat / 2 ^ 15 % 8 < 5 ∧ m.toNat % 2 ^ 12 = 0
     SideOk s 1 ∧ valid (BitVec.ofNat 32 (s.side 1).val.toNat) ∧ SideOk s 2 ∧ ¬ valid (BitVec.ofNat 32 (s.side 2).val.toNat) ∧
      s.sl.gmPoison = false ∧ (15 : BitVec 16).toNat < 2 ^ 4 ∧ valid ((s.sl.gm &&& ~~~0xF0000000) ||| 0xF0000000)) := by
  unfold SideOk; decide +kernel

/-- Both groups of the team wait at team barrier 3. -/
def arrivedState (w : Wait) : State :=
  (onS u fun x => { x with state := .waiting w }).setTeam 0 u.tm

theorem witness_BarriersAndYieldC :
    (isMast u.cur = false ∧ (3 : BitVec 8).toNat < 4 ∧ u.other.state = .free ∧
      (u.setOther { state := .exitwait }).other.state = .exitwait ∧ (parkedAt 4 u).other.state = .parked 4) ∧
    (let s := arrivedState (.bar 3)
     (s.team 0).live = true ∧ (s.team 0).ended = false ∧ s.liveGroups (s.team 0) ≠ [] ∧ ∀ p ∈ s.liveGroups (s.team 0),
      ((s.group p).slotA.state = .free ∨ (s.group p).slotA.state = .waiting (.bar 3)) ∧
      ((s.group p).slotB.state = .free ∨ (s.group p).slotB.state = .waiting (.bar 3)) ∧ s.barrierReady p = true) ∧
    (let s := arrivedState (.cbar 0)
     let ts := s.teams.filter (fun e => e.2.live && !e.2.ended && e.2.ctx = 0 && e.2.index / 1 = 0)
     ts.flatMap (fun e => s.liveGroups e.2) ≠ [] ∧ ∀ p ∈ ts.flatMap (fun e => s.liveGroups e.2),
      ((s.group p).slotA.state = .free ∨ (s.group p).slotA.state = .waiting (.cbar 0)) ∧
      ((s.group p).slotB.state = .free ∨ (s.group p).slotB.state = .waiting (.cbar 0)) ∧ s.barrierReady p = true) ∧
    (coded u).targetOk (coded u).cur ((coded u).sl.header + BitVec.ofInt 57 (4 * (2 : BitVec 20).toInt)) = true := by decide +kernel

theorem witness_TrapsAndBreakpoints :
    (0x7FFF : BitVec 16).toNat < 0x8000 ∧ 0x1000 ≤ (0x1000 : BitVec 16).toNat ∧ (0xFFF : BitVec 16).toNat < 0x1000 ∧
    isMast u.cur = false ∧ Lanes u all ∧ Clean u all (List.range 8) ∧ Lanes (withGm u 0x14200000) 0 ∧
    (let s : State := onG ({ u with bpaddr := [(3, 0x8000000000000000)] } : State) fun g => { g with passBp := [] }
     s.breakDue 0 .A = some 3) := by unfold Lanes Clean; decide +kernel

/-- A group of one granule that asks for 31 more. -/
def grower (spill : Dword) : State := onG (u.setPool 0 [(0, .A)]) fun g =>
  { g with vgran := 1, spill := spill, slotA := { g.slotA with state := .waiting (.reggrow 31 none) } }

theorem witness_RegisterAllotment :
    1 ≤ (31 : BitVec 8).toNat ∧ (31 : BitVec 8).toNat ≤ 32 ∧
    ((grower 0).g.vgran + 31 ≤ 32) ∧ (32 < u.g.vgran + 31) ∧ u.memReady = true ∧ ((grower 0).g.vgran < 31 + 1) ∧
    (31 + 1 ≤ u.g.vgran ∧ u.g.spill = 0) ∧
    (let s := onG (u.setTeam 0 { u.tm with units := 11 }) fun g => { g with spill := 0x1FF000000000000 }
     31 + 1 ≤ s.g.vgran ∧ s.g.spill ≠ 0 ∧ (spillUnits s (8 * 31) .write).2 = none ∧
      spillHold s (.regshrink 31) (spillUnits s (8 * 31) .write).1 false = none) := by decide +kernel
theorem witness_RegisterAllotment_grant :
    (let s := grower 0
     s.pool 0 = [(0, .A)] ∧ ((s.group 0).slot .A).state = .waiting (.reggrow 31 none) ∧ 31 ≤ s.freeGranules 0 ∧
      (s.group 0).vgran + 31 ≤ 32 ∧ (s.group 0).spill = 0) ∧
    (let s := onG ((grower 0x1FF000000000000).setTeam 0 { u.tm with units := 11 }) fun g =>
      { g with vgran := 32, slotA := { g.slotA with state := .waiting (.reggrow 31 (some 1)) } }
     (s.group 0).live = true ∧ s.openPub 0 = false ∧ (s.group 0).hold = none ∧
      (s.group 0).slotA.state = .waiting (.reggrow 31 (some 1)) ∧
      spillHold (s.focus 0 .A) (.reggrow 31) (spillUnits (s.focus 0 .A) (8 * 31) .read).1 true = none ∧
      (spillUnits (s.focus 0 .A) (8 * 31) .read).2 = none) ∧
    (let s := onG ((grower 0x1FF000000000000).setTeam 0 { u.tm with units := 11 }) fun g =>
      { g with vgran := 32, slotA := { g.slotA with state := .live }, slotB := { state := .waiting (.reggrow 31 (some 1)) } }
     ((s.group 0).slot .B).state = .waiting (.reggrow 31 (some 1)) ∧ (s.group 0).slotA.state = .live ∧ s.openPub 0 = false ∧
      spillHold (s.focus 0 .B) (.reggrow 31) (spillUnits (s.focus 0 .B) (8 * 31) .read).1 true = none ∧
      (spillUnits (s.focus 0 .B) (8 * 31) .read).2 = none) := by decide +kernel
/-- 33 groups of 31 granules each, all in the pool's queue, with one granule free: place 5 asks for three, the others for two. -/
def crowded : State :=
  (List.range 33).foldl (fun (s : State) p =>
    let x : Slot := { state := .waiting (.reggrow (if p = 5 then 3 else 2) none) }
    s.setGroup p { live := true, vgran := 31, slotA := x }) (u.setPool 0 ((List.range 33).map fun p => (p, .A)))
theorem witness_RegisterAllotment_refusal :
    let s := crowded
    let ask := fun (e : Nat × SlotId) => match ((s.group e.1).slot e.2).state with
      | .waiting (.reggrow k _) => k
      | _ => 0
    s.pool 0 = (0, .A) :: (List.range' 1 32).map (fun p => (p, .A)) ∧ s.freeGranules 0 < ask (0, .A) ∧
    (∀ e ∈ s.coreGroups 0, e.2.growing = true ∧ grantOf e.2.slotA = none ∧ grantOf e.2.slotB = none) ∧ (5, .A) ∈ s.pool 0 ∧
    (∀ e ∈ s.pool 0, ask e ≤ ask (5, .A)) ∧ (∀ e ∈ s.pool 0, ask e = ask (5, .A) → 5 < e.1 ∨ e = (5, .A)) := by decide +kernel
/-- A view of four GiB of local memory at 0x40000000, for reads and writes. -/
def view : XReg := { valid := true, wr := true, rd := true, base := 0x40000000, pa := 0x40000000, limit := 0x100000000 }
/-- `u` with the view in `x0` and `x7`. -/
def uview : State := onG u fun g => { g with x := (g.x.put 0 view).put 7 view }
/-- Page tables that map one GiB at virtual address 0x40000000 by a leaf entry of the given double words. -/
def paged (s : State) (d0 d1 : Nat) : State :=
  let s : State := { s with ptroot := 0x8000000000010000 }
  let s := s.putBytes 0x10000 (bytesOf 8 (2 ^ 63 + 0x14000))
  let s := s.putBytes 0x14000 (bytesOf 8 (2 ^ 63 + 0x18000))
  s.putBytes 0x18020 (bytesOf 8 d0 ++ bytesOf 8 d1)
/-- Present leaf, readable, writable, with a twin frame. -/
def twinPage (s : State) : State := paged s (2 ^ 63 + 2 ^ 62 + 2 ^ 61 + 2 ^ 60 + 2 ^ 57 + 0x40000000) 0x80000000
/-- A leaf that is not present. -/
def absentPage (s : State) : State := paged s (2 ^ 62 + 0x40000000) 0
/-- A leaf entry with a reserved bit set. -/
def brokenPage (s : State) : State := paged s (2 ^ 63 + 2 ^ 62 + 2 ^ 52 + 0x40000000) 0

/-- An access goes through, and its last checks find nothing. -/
def passes (s : State) (h : Hold) : Prop := Goes s h ∧ (s.open_.lastChecks h).2 = none
theorem witness_LoadsReadTheirUnits :
    (let s := uview
     let one := mkUnits s 0 (lanesOf all) 1 16 (memOff s.g (.step 255) 16) .read
     s.flagFull = false ∧ s.g.spanOk 252 (sizeRegs .quad) = true ∧ Accessible s 0 all (offReg (.step 255)) one ∧
      passes s (s.access (.ld .s .quad 252 0 (.step 255)) all one false noData noCompare)) ∧
    (let s := uview
     let here := notAbsent (mkUnits s 0 (lanesOf all) 1 1 (memOff s.g (.step 0) 1) .read)
     s.g.spanOk 255 (sizeRegs .byte) = true ∧ Accessible s 0 all (offReg (.step 0)) here ∧
      passes s (s.access (.ldp .p7 .byte 255 0 (.step 0)) all here false noData noCompare)) ∧
    (let s := withGm uview 0x14200000
     s.memReady = true ∧ Lanes s 0 ∧ s.flagFull = false) := by
  unfold Accessible Lanes Owned Clean passes Goes; decide +kernel
theorem witness_LoadsReadTheirUnits_span :
    let s := uview
    let span := mkUnits s 7 (lanesOf all) 8 4 (memOff s.g (.vec 1) 32) .read
    let h := s.access (.ldn .g 7 248 7 (.vec 1)) all span false (fun l j => regBytes s.g (248 + j) 1 l) noCompare
    s.g.spanOk 248 8 = true ∧ operandBitsOk (.ldn .g 7 248 7 (.vec 1)) = true ∧ Accessible s 7 all (offReg (.vec 1)) span ∧
      Goes s h ∧ (s.open_.spanChecks false h).2 = none := by
  unfold Accessible Lanes Owned Clean Goes; decide +kernel

theorem witness_StoresAndAtomicsPerformTheirUnits :
    (let s := uview
     let one := mkUnits s 0 (lanesOf all) 1 4 (memOff s.g (.step 0) 4) .write
     s.g.spanOk 255 (sizeRegs .word) = true ∧ Accessible s 0 all ([255] ++ offReg (.step 0)) one ∧
      passes s (s.access (.st .s .word 255 0 (.step 0)) all one true
        (fun l _ => (regBytes s.g 255 (sizeRegs .word) l).take (sizeBytes .word)) noCompare)) ∧
    (let s := uview
     let span := mkUnits s 0 (lanesOf all) 2 4 (memOff s.g (.step 0) 8) .write
     let h := s.access (.stn .d 1 254 0 (.step 0)) all span true (fun l j => regBytes s.g (254 + j) 1 l) noCompare
     s.g.spanOk 254 2 = true ∧ operandBitsOk (.stn .d 1 254 0 (.step 0)) = true ∧
      Accessible s 0 all ([254, 255] ++ offReg (.step 0)) span ∧ Goes s h ∧ (s.open_.spanChecks true h).2 = none) := by
  unfold Accessible Lanes Owned Clean passes Goes; decide +kernel
theorem witness_StoresAndAtomicsPerformTheirUnits_atomics :
    let s := withGm uview 0x01A00000
    let both := mkUnits s 0 (lanesOf all) 1 8 (fun l => (s.vw 1 l).toNat) .both
    let atom := fun (i : Instr) => s.access i all both false (fun l _ => regBytes s.g 254 2 l) (fun l => regBytes s.g 252 2 l)
    atomTy s.sl.gm .cas = some .s64 ∧ s.g.spanOk 252 4 = true ∧ s.flagFull = false ∧
      Accessible s 0 all ([252, 253, 254, 255] ++ [1]) both ∧ passes s (atom (.atom .s .cas 0 252 1)) ∧
      passes s (atom (.atomr .c .cas 0 252 1)) := by
  unfold Accessible Lanes Owned Clean passes Goes; decide +kernel

theorem witness_AtomicOperations : (2 ^ 64 - 1) < 2 ^ tyWidth .s64 ∧ (2 ^ 32 - 1) < 2 ^ tyWidth .n32 ∧
    tyOf (gmDtype 0x01800000) = some .s64 ∧ tyOf (gmDtype 0x04200000) = some .f32 ∧ tyOf (gmDtype 0x00000000) = some .s8 := by decide

theorem witness_ReadsAfterWritesOfMemory :
    u.Inv ∧ (∀ i < 8, isAperture (0x1000 + i) = false) ∧ 0x1000 + 8 ≤ 2 ^ 52 ∧ 0x1000 % 4 = 0 ∧ 8 % 4 = 0 ∧
    (∀ i < 4, isAperture (2 ^ 52 - 4 + i) = false) ∧ 2 ^ 52 - 4 + 4 ≤ 2 ^ 52 ∧
    0x1008 < 2 ^ 51 ∧ 0x1000 + 8 ≤ 2 ^ 51 ∧ isAperture 0x1008 = false ∧ 0x1000 + 8 ≤ 0x1008 := by unfold State.Inv; decide +kernel

theorem witness_ProbesAndMarks :
    (let s := uview
     let ws := mkUnits s 0 (lanesOf all) 1 1 (memOff s.g (.step 0) 1) .write
     Owned s (offReg (.step 0)) ∧ (s.g.getX 0).valid = true ∧ Accessible s 0 all (offReg (.step 0)) ws ∧
      let h := s.access (.rcmark 0 (.step 0)) all ws true noData noCompare
      Goes s h ∧ s.open_.refusals .g false h.units = []) ∧
    ((u.g.getX 0).poison = false ∧ (u.g.getX 0).valid = false ∧ Lanes u all ∧ Lanes (withGm u 0x14200000) 0) := by
  unfold Accessible Lanes Owned Clean Goes; decide +kernel

theorem witness_FencesAndPublish :
    (u.memReady = true ∧ u.growLoads u.cur = false ∧ u.txReserved u.cur < 4 ∧ isMast ({ u with cur := 2 ^ 18 } : State).cur = true ∧
      ({ u with cur := 2 ^ 18 } : State).memReady = true) ∧
    (let s := withS (twinPage u) [(5, 0x40000000)]
     s.memReady = true ∧ isMast s.cur = false ∧ SideOk s 5 ∧ 0x10000 ≤ (s.side 5).val.toNat ∧ (s.side 5).val.toNat < 0x1FE000000000000 ∧
      (match walk s (s.side 5).val.toNat with
        | .present e => e.tw && e.wr
        | _ => false) = true) ∧
    (let s := u.setL1 0 0x400 { valid := true, dirty := true, val := 5 }
     s.Inv ∧ s.memReady = true ∧ s.growLoads s.cur = false ∧ s.anchorOf s.cur = coreKey s.cur ∧ (s.l1Word (coreKey s.cur) 0x400).dirty = true ∧
      isHostPa (4 * 0x400) = false) := by unfold SideOk State.Inv; decide +kernel

theorem witness_UniformSystemAndTranslationRegisters :
    let s := withS (twinPage u) [(5, 0x40000000), (6, 0x80), (7, 0x1FFFFFFFFFFFFFF)]
    (isMast s.cur = false ∧ (63 : BitVec 6).toNat < 8 * s.tm.kgran ∧ SideOk s 5 ∧ (s.uniformWrite 63 (Config.freeWord s.draws)).2 = none ∧
      s.flagFull = false ∧
      (match tlbUnit s ((s.side 5).val + BitVec.ofInt 64 (8 * (0 : BitVec 8).toInt)).toNat 8 .read with
        | .ok t =>
          let unit := tlbHold s 0 ((s.side 5).val + BitVec.ofInt 64 (8 * (0 : BitVec 8).toInt)).toNat 8 t.loc true t.rc
          let claim := s.txDone.claimUniform 63 ((s.side 5).val + BitVec.ofInt 64 (8 * (0 : BitVec 8).toInt))
          let h : Hold := { slot := s.curSlot, instr := .kld 63 5 0, lanes := 1, units := [unit], uni := some claim.2 }
          !s.uniformStops (s.uniformRace 63 ((s.side 5).val + BitVec.ofInt 64 (8 * (0 : BitVec 8).toInt))) &&
            s.memReady && h.units.all (fun u => !s.locked u.loc.key u.bytes && !u.waits) && (s.txRoom (txLines h.instr h.units)).isSome &&
            !h.sequenced && (claim.1.endHold.lastChecks h).2 = none
        | .error _ => false) = true) ∧
    ((0x0D : BitVec 16).toNat < 0x0E ∧ s.g.sect = none ∧ SideOk s 6 ∧ (s.side 6).val.toNat < 2 ^ 57 ∧ (s.side 6).val.toNat % 16 = 0 ∧
      (s.side 6).val.toNat % 128 = 0 ∧ SideOk s 7 ∧ (s.side 7).val.toNat < 2 ^ 57 ∧ (s.g.getX 0).valid = false) := by
  unfold SideOk; decide +kernel
/-- A held view that nothing uses, and one that a copy of the group still uses. -/
def heldView (xs : List Xfer) : State :=
  { onG u fun g => { g with x := g.x.put 0 { view with held := true } } with xfers := xs, nextId := 9 }
theorem witness_UniformSystemAndTranslationRegisters_views :
    let x := (heldView []).g.getX 0
    let f := viewFrame (heldView []).node x
    let b := pageBytes x.psize.toNat
    let m : Move := { src := .phys 0x40000000, dst := .mem 0x90000000 (.phys 0x90000000), n := 16 }
    let copy : Xfer := { id := 3, place := 0, tag := 0, key := 1, team := 0, kind := .cpy, moves := [m] }
    x.held = true ∧ (heldView []).frameUsed 0 f b 9 = false ∧ (heldView [copy]).frameUsed 0 f b 9 = true := by decide +kernel

/-- `u` with an outstanding operation of a kind, with flag 11. -/
def pending (k : PendKind) (ws : List RegWrite) : State :=
  onG u fun g => { g with ops := [{ id := 7, kind := k, flag := some 11, writes := ws }], flags := g.flags.put 11 1 }
theorem witness_LongOperationsComplete :
    ([PendKind.load, .empty, .atomr, .sread, .func].all fun k =>
      ((pending k [.v 255 31 { val := 5 }]).group 0).op? 7 = some { id := 7, kind := k, flag := some 11, writes := [.v 255 31 { val := 5 }] }) = true ∧
    ((pending (.xlat 7 0x40000000 64) []).group 0).op? 7 =
      some { id := 7, kind := .xlat 7 0x40000000 64, flag := some 11, writes := [] } ∧
    (match translateVa (twinPage (pending (.xlat 7 0x40000000 64) [])) 0 0x40000000 with
      | .ok t => t.loc = .phys 0x40000000 && t.rd
      | .error _ => false) = true ∧
    ((pending .load []).group 0).ended = false ∧
    (match walk (absentPage (pending (.xlat 7 0x40000000 64) [])) 0x40000000 with
      | .absent _ => true
      | _ => false) = true ∧
    (match walk (brokenPage (pending (.xlat 7 0x40000000 64) [])) 0x40000000 with
      | .invalid _ => true
      | _ => false) = true := by decide +kernel
/-- The same group after its end. -/
theorem witness_LongOperationsComplete_ended :
    let s := onG (twinPage (pending (.xlat 7 0x40000000 64) [])) fun g => { g with ended := true }
    ((s.group 0).op? 7).isSome = true ∧ (s.group 0).ended = true ∧ (translateVa s 0 0x40000000).isOk = true := by decide +kernel
/-- An accepted operand block of f16 × f16, tiles 0 and 15, one block of 32. -/
def block16 : List Dword := [BitVec.ofNat 64 (9 * 2 ^ 59 + 9 * 2 ^ 54 + 15 * 2 ^ 44 + 2 ^ 24), 0, 0, 0]
/-- A team that may issue matrix operations under f16, with the operand block at the base of its scratchpad. -/
def matState : State :=
  let s := withS (withGm u 0x04A40000) [(5, 0x1FF000000000000)]
  let s := s.setTeam 0 { s.tm with units := 1, shadows := [(0, { held := true, id := 7, acc := 31 })] }
  s.putBytes (Loc.key (.spad 0 0)) (block16.flatMap fun d => bytesOf 8 d.toNat)

theorem witness_MatrixOperationsEnterTheQueue :
    let s := matState
    isMast s.cur = false ∧ Lanes s (BitVec.allOnes 32) ∧ (31 : BitVec 5).toNat < s.tm.accs ∧ s.accBusy 31 = false ∧
    tyOf (gmDtype s.sl.gm) = some .f16 ∧ tyOf (gmStype s.sl.gm) = some .f16 ∧ pairOk .f16 .f16 = true ∧ ¬ 2 ≤ (1 : BitVec 2).toNat ∧
    (15 : BitVec 4).toNat < s.tm.tiles ∧ (7 : BitVec 8).toNat < 8 ∧ s.tm.pairsOf 7 ≠ [] ∧
    (∀ k ∈ s.tm.pairsOf 7, s.accBusy (s.tm.shadows.look k {}).acc = false) ∧ s.flagFull = false ∧ s.memReady = true ∧ SideOk s 5 := by
  unfold Lanes SideOk; decide +kernel
theorem witness_MatrixOperationsEnterTheQueue_mx : pairOk .e2m1 .e4m3 = true ∧ isMx .e2m1 = true ∧ isMx .e4m3 = true ∧
    tyOf (gmDtype 0x07AC0000) = some .e2m1 ∧ tyOf (gmStype 0x07AC0000) = some .e4m3 := by decide
theorem witness_MatrixOperationsEnterTheQueue_block :
    let s := matState
    (match tlbUnit s (s.side 5).val.toNat 32 .read with
      | .ok t =>
        let x := (s.touchUnit s.cur s.sl.pc .g t.loc (s.side 5).val.toNat 32 false).readLoc s.cur t.loc 32 .g
        let ds := (List.range 4).map fun j => BitVec.ofNat 64 (ofBytes (((x.2.map (·.1)).drop (8 * j)).take 8))
        !s.unitWaits .g t.loc 32 true && !x.2.any (·.2) && ds = block16 && (x.1.tm.shadowFor 7 31).isSome
      | .error _ => false) = true ∧
    (matBlock s.tm.tiles block16).map (fun b => (b.ta, b.tb, b.kblk, b.ascale, b.bscale)) = some (.f16, .f16, 1, none, none) := by
  decide +kernel

/-- The team's queue with one operation at its head, and one behind it. -/
def queued (i : Instr) (f : MatOp → MatOp := id) : State :=
  let m : MatOp := { place := 0, tag := 0, instr := i, gm := 0x04A40000 }
  matState.setTeam 0 { matState.tm with mq := [f m, m] }
theorem witness_MatrixOperationsPerformed :
    (let s := queued (.mma 1 31 0 15)
     (s.team 0).mq.head?.map (fun m => (m.instr, m.op)) = some (.mma 1 31 0 15, none) ∧
      (match mmaTypes 0x04A40000 (matShape 1).2 with | .ok e => e = (.f16, .f16) | .error _ => false) = true) ∧
    (queued (.azero 31)).matHead 0 = some { place := 0, tag := 0, instr := .azero 31, gm := 0x04A40000 } ∧
    (let s := queued (.mmaq 31 5) fun m => { m with block := block16, op := some 3 }
     (match (s.team 0).mq with
      | m :: _ => (s.blockArgs 0 m).2.isSome
      | [] => false) = true) ∧
    (let s := queued (.mmaqs 31 5 7) fun m => { m with block := block16, op := some 3, shadows := [0] }
     (match (s.team 0).mq with
      | m :: _ => m.shadows = [0] && (s.blockArgs 0 m).2.isSome
      | [] => false) = true) ∧
    ((queued (.acommit 7) fun m => { m with shadows := [0] }).team 0).mq.head?.map (fun m => (m.instr, m.shadows)) = some (.acommit 7, [0]) ∧
    ((queued (.adiscard 0) fun m => { m with shadows := [0] }).team 0).mq.head?.map (fun m => (m.instr, m.shadows)) = some (.adiscard 0, [0]) := by
  decide +kernel

theorem witness_AccumulatorReads :
    (let s := withGm u 0x05A00000
     Lanes s all ∧ isMast s.cur = false ∧ s.accBusy 31 = false ∧ s.sl.gmPoison = false ∧ Owned s [255] ∧ (31 : BitVec 5).toNat < s.tm.accs ∧
      (28 : BitVec 8).toNat < 32 ∧ (∀ k < 4, ∀ l < 32, (s.tm.readElem 31 ((28 + k) * 32 + l)).poison = false) ∧ HasDtype s .e4m3 ∧
      tyOf (gmStype s.sl.gm) = some .f32 ∧ (28 : BitVec 8).toNat + tyCount .e4m3 ≤ 32 ∧ 32 < (29 : BitVec 8).toNat + tyCount .e4m3) ∧
    (let s := withGm (u.setTeam 0 (u.tm.putAcc 31 [(31 * 1024 + 28 * 32 + 5, { poison := true })])) 0x05A00000
     Lanes s all ∧ s.accBusy 31 = false ∧ (0x20 : Word) ≠ 0 ∧
      ∀ l < 32, (0x20 : Word).getLsbD l = (all.getLsbD l && (s.tm.readElem 31 (28 * 32 + l)).poison)) ∧
    (let m : MatOp := { place := 0, tag := 0, instr := .acommit 7, gm := 0x04A40000, shadows := [0] }
     let s := u.setTeam 0 { u.tm with mq := [m], shadows := [(0, { held := true, id := 7, acc := 31 })] }
     s.accBusy 31 = false ∧ s.tm.mq = [m] ∧ m.shadows = [0] ∧ (s.tm.shadows.look 0 {}).acc = 31) := by
  unfold Lanes HasDtype Owned; decide +kernel

/-- `u` with views of local memory at 0x40000000 in `x0` and at 0x80000000 in `x1`, and each lane's offset 16 l in `v1` and `v2`. -/
def copyState : State :=
  let s := onG u fun g => { g with x := (g.x.put 0 view).put 1 { view with base := 0x80000000, pa := 0x80000000 } }
  let s := s.setTeam 0 { s.tm with units := 1 }
  withV s ((List.range 32).flatMap fun l => [(1, l, BitVec.ofNat 32 (16 * l)), (2, l, BitVec.ofNat 32 (16 * l)), (3, l, 16)])
/-- The operations of a checked copy; none where a check fails. -/
def checkedMoves (c : Chk (List (MUnit × Trans))) : List Move := (movesOf (c.toOption.getD [])).map (·.2)
theorem witness_CopiesBecomeTransferOperations_cpy :
    let s := copyState
    let us := (lanesOf all).flatMap fun l =>
      [copyUnit s 0 l (s.vw 2 l).toNat (copyBytes .b16) .read, copyUnit s 1 l (s.vw 1 l).toNat (copyBytes .b16) .write]
    isMast s.cur = false ∧ s.memReady = true ∧ all ≠ 0 ∧ Lanes s all ∧ Owned s [1, 2] ∧
      (copyCheck s all [1, 2] [0, 1] us).isOk = true ∧
      (let ops := sortBy s.opKey (byLine (checkedMoves (copyCheck s all [1, 2] [0, 1] us)))
       ops ≠ [] ∧ (s.txRoom ops.length).isSome = true) := by unfold Lanes Owned; decide +kernel
theorem witness_CopiesBecomeTransferOperations_cpg :
    let s := copyState
    let us := (lanesOf all).flatMap fun l =>
      let r := cpgRow s.g 1 2 l
      (List.range (r.2.2 / 16)).flatMap fun i => [copyUnit s 0 l (r.1 + 16 * i) 16 .read, copyUnit s 1 l (r.2.1 + 16 * i) 16 .write]
    (2 : BitVec 8).toNat < 255 ∧ Owned s [1, 2, 3] ∧ Clean s all [1, 2, 3] ∧
      (∀ l < 32, (cpgRow s.g 1 2 l).2.2 ≠ 0 ∧ (cpgRow s.g 1 2 l).2.2 % 16 = 0) ∧ (copyCheck s all [1, 2, 3] [0, 1] us).isOk = true ∧
      (s.txRoom 32).isSome = true := by unfold Owned Clean; decide +kernel
theorem witness_CopiesBecomeTransferOperations_tiles :
    let s := withS copyState [(5, BitVec.ofNat 64 (2 * 2 ^ 56 + 125 * 2 ^ 48))]
    let w := (s.side 5).val.toNat
    let us := (List.range 3).flatMap fun r => (List.range 8).map fun i => copyUnit s 0 0 (w % 2 ^ 32 + r * 128 + 16 * i) 16 .read
    (15 : BitVec 4).toNat < s.tm.tiles ∧ SideOk s 5 ∧ w < 2 ^ 63 ∧ w / 2 ^ 55 % 2 = 0 ∧
      w / 2 ^ 48 % 128 + (w / 2 ^ 56 % 128 + 1) ≤ 128 ∧ (copyCheck s 0 [] [0] us).isOk = true ∧ (s.txRoom 3).isSome = true := by
  unfold SideOk; decide +kernel

theorem witness_BatchesSealedAndTested : isMast u.cur = false ∧ (4 : BitVec 8).toNat < 5 ∧ u.g.batchesFull = false ∧
    (15 : BitVec 8).toNat < 16 := by decide +kernel

/-- A message of this package that has left by port 15. -/
def sentMsg (num : Nat) : OutMsg :=
  { num := num, port := 15, born := 0, sent := true, msg := { kind := 2, dst := 9, src := 0, ddie := 0, sdie := 0, seq := 0, birth := 0, packets := [] } }
/-- A transfer operation of 16 bytes of local memory. -/
def op16 : Xfer :=
  let m : Move := { src := .phys 0x1000, dst := .mem 0x40000000 (.phys 0x2000), n := 16, data := List.replicate 16 (7, false) }
  { id := 3, place := 0, tag := 0, key := 1, team := 0, kind := .cpy, moves := [m] }
/-- `u` with that operation. -/
def moving (f : Xfer → Xfer) : State := { u with xfers := [f op16] }

theorem witness_TransferOperationsProgress :
    (let s := moving id
     s.xfer? 3 = some op16 ∧ op16.drained = false ∧ op16.deaf = false ∧
      ([] : List (Envelope × List (Byte × Bool))).map (·.2.length) = op16.reads.map op16.readLen ∧ s.xferLost op16 = false ∧
      s.readLocked op16 = false ∧ s.readsAway op16 = true ∧ (s.hearAll []).1.xfer? 3 = some op16) ∧
    (let x := { op16 with drained := true }
     let s := moving fun _ => x
     s.xfer? 3 = some x ∧ x.twin = false ∧ x.deaf = false ∧ s.landsAlone x = true ∧ s.xferLost x = false ∧ s.writeLocked x = false ∧
      s.writesAway x = true ∧ ([] : List Envelope).length = x.acks.length ∧ s.twinHeld x = false) ∧
    (let x := { op16 with drained := true, twin := true }
     (moving fun _ => x).xfer? 3 = some x ∧ (moving fun _ => x).twinHeld x = false) ∧
    (let x := { op16 with kind := .cpq 1 2 0 0, source := some [] }
     (moving fun _ => x).xfer? 3 = some x) ∧
    (let m : Move := { src := .phys (2 ^ 51), dst := .mem 0x40000000 (.phys 0x2000), n := 16 }
     ({ moving id with pcieDown := [(0, true), (1, true)] } : State).xferLost { op16 with moves := [m] } = true) ∧
    (let s := twinPage { moving (fun x => { x with drained := true }) with holds := [(frameKey 0 0 0x80000000, 1)] }
     s.twinHeld { op16 with drained := true } = true ∧ s.writesAway op16 = true) ∧
    (let s := onG u fun g => { g with batches := [(15, { used := true, out := true, landed := false, drained := false })] }
     (s.group 0).live = true ∧ ((s.group 0).batch 15).out = true ∧ ((s.group 0).batch 15).undrained = 0 ∧
      ((s.group 0).batch 15).unlanded = 0 ∧ ((s.group 0).batch 15).drained = false) := by decide +kernel
/-- Kolgon port 15 is up, by which messages of node 9 come; this one from its die 7. -/
def linked (s : State) : State := { s with links := [(15, { up := true })] }
def envelope (ddie : Nat) : Envelope := { port := 15, ddie := ddie, sdie := 7, seq := 65535, hseq := 0, birth := 0, tag := 0 }
/-- The envelope with the tag that makes the message whole. -/
def whole (s : State) (e : Envelope) (kind : Nat) (ps : List Packet) (node : BitVec 19 := 9) : Envelope :=
  { e with tag := (e.message kind node s.node ps).tag }
/-- A message is received: whole, not too old, by a link that is up. -/
def received (s : State) (e : Envelope) (kind : Nat) (ps : List Packet) (node : BitVec 19 := 9) : Bool :=
  s.mayArrive e node && s.ageOf e ≤ 200 && s.tagOk e kind node ps
/-- An operation that reads 16 bytes of node 9, and one that has drained and writes them there; their message is number 40. -/
def reader9 : Xfer :=
  { op16 with moves := [{ src := .peer 9 5 0x2000, dst := .mem 0x40000000 (.phys 0x1000), n := 16 }], asked := some [40] }
def writer9 : Xfer :=
  let m : Move := { src := .phys 0x1000, dst := .mem 0x40000000 (.peer 9 5 0x2000), n := 16, data := List.replicate 16 (7, false) }
  { op16 with moves := [m], drained := true, parts := [{ node := 9, die := 0, key := 5, addr := 0x2000, n := 16 }], told := [(0, 40)] }
/-- `u` with one of them. -/
def afar (x : Xfer) : State := linked { moving (fun _ => x) with outbox := [sentMsg 40] }
theorem witness_TransferOperationsProgress_peers :
    (let x := reader9
     let s := afar x
     let data : List (Byte × Bool) := List.replicate 16 (7, false)
     let ps := x.reads.map fun q => { q.packet with payload := data.map (·.1) }
     let e := whole s (envelope 0) 3 ps
     s.xfer? 3 = some x ∧ x.drained = false ∧ x.deaf = false ∧ [(e, data)].map (·.2.length) = x.reads.map x.readLen ∧ s.readsAway x = true ∧
      s.xferLost x = false ∧ s.readLocked x = false ∧ s.mayArrive e 9 = true ∧ received s e 3 ps = true ∧ received s (envelope 0) 3 ps = false ∧
      (s.refusable x 0).isSome = true ∧ (s.group x.place).tag = x.tag ∧ (s.group x.place).live = true ∧ (s.group x.place).ended = false ∧
      x.batch = none) ∧
    (let x := writer9
     let s := afar x
     let ps := x.acks.map fun a => { a.2.2 with payload := [0] }
     let e := whole s (envelope 0) 7 ps
     s.xfer? 3 = some x ∧ x.drained = true ∧ x.twin = false ∧ s.landsAlone x = true ∧ s.xferLost x = false ∧ s.writeLocked x = false ∧
      s.writesAway x = true ∧ [e].length = x.acks.length ∧ s.mayArrive e 9 = true ∧ received s e 7 ps = true ∧
      (s.hearAll (([e].zip x.acks).map fun a => (a.1, 7, a.2.2.1, { a.2.2.2 with payload := [0] }))).2 = true ∧
      (s.hearAll (([e].zip x.acks).map fun a => (a.1, 7, a.2.2.1, { a.2.2.2 with payload := [0] }))).1.xfer? 3 = some x ∧
      (s.refusable x 0).isSome = true) := by decide +kernel
/-- A queued `PUBLISH` of the page at 0x40000000 by the group. -/
def published (s : State) : State := { s with pubs := [{ id := 4, place := 0, occ := 0, slot := .A, saved := s.sl, va := 0x40000000 }] }
theorem witness_PublishSwapsTheFrames :
    (let s := published (twinPage u)
     (s.pubs.find? (fun q => q.id = 4)).isSome = true ∧
      (match walk s 0x40000000 with
        | .present e => e.tw && !s.writesBefore e 0x40000000 4
        | _ => false) = true ∧ (s.pubs.find? (fun q => q.id = 4)).any s.xlatBefore = false) ∧
    (let s := published (absentPage u)
     (match walk s 0x40000000 with | .absent _ => true | _ => false) = true ∧ (s.group 0).live = true ∧ (s.group 0).ended = false ∧
      (s.group 0).tag = 0 ∧ (s.group 0).fault = none) ∧
    (match walk (published (brokenPage u)) 0x40000000 with | .invalid _ => true | _ => false) = true := by decide +kernel

/-- The descriptor of `zoneState`'s zone is in `s20` and the slot number 7 in `s21`. -/
def zoned (f : LzSlot → LzSlot) : State :=
  withS (zoneState.setZone 0 0 { zoneState.zone 0 0 with slots := [(7, f {})] }) [(20, 0x015C192E1D020000), (21, 7)]
theorem witness_LandingZonesOpenedAndClosed :
    (let s := withS (u.setTeam 0 { u.tm with units := 3 }) [(21, 0x07420000)]
     let v := (s.side 21).val.toNat
     isMast s.cur = false ∧ s.flagFull = false ∧ SideOk s 21 ∧ v < 2 ^ 30 ∧ v / 2 ^ 20 % 16 ≤ 8 ∧ v % 2 ^ 20 % (256 * 2 ^ (v / 2 ^ 20 % 16)) = 0 ∧
      v % 2 ^ 20 + 256 * 2 ^ (v / 2 ^ 20 % 16) * (v / 2 ^ 24 % 64 + 1) ≤ s.tm.units * 65536 ∧
      ((List.range 16).filter fun m => (s.zone 0 m).isOf s.g.team) = [] ∧ (s.zone 0 0).held = false ∧ (s.zone 0 0).cooling = false) ∧
    (let s := nx (exec (.lzopen 20 21) (withS (u.setTeam 0 { u.tm with units := 3 }) [(21, 0x07420000)]))
     ((s.group 0).op? 0).map (·.kind) = some (.lzopen 20 0) ∧ (s.zone 0 0).opening = true ∧ (s.zone 0 0).team = (s.group 0).team ∧
      s.tagFree 0x5C192E = true) ∧
    ((pending .lzstat [.s 63 { val := 5 }]).group 0).op? 7 = some { id := 7, kind := .lzstat, flag := some 11, writes := [.s 63 { val := 5 }] } ∧
    (let s : State := { u.setZone 175 15 { cooling := true, advanced := 7 } with ftime := 207 }
     (s.zone 175 15).cooling = true ∧ (s.zone 175 15).advanced + 200 ≤ s.ftime) := by unfold SideOk; decide +kernel
theorem witness_LandingZonesOpenedAndClosed_slots :
    let s := zoned fun x => { x with state := 3 }
    let w := (s.side 20).val.toNat
    isMast s.cur = false ∧ SideOk s 20 ∧ w / 2 ^ 20 % 4 = 0 ∧ w % 16 = 0 ∧ (s.zone 0 0).open_ = true ∧ (s.zone 0 0).team = s.g.team ∧
      (s.zone 0 0).gen.toNat = w / 2 ^ 56 % 256 ∧ (s.zone 0 0).tag.toNat = w / 2 ^ 32 % 2 ^ 24 ∧ w / 2 ^ 4 % 16 = 0 ∧ SideOk s 21 ∧
      (s.side 21).val.toNat ≤ (s.zone 0 0).cnt ∧ ((s.zone 0 0).slot 7).state ≠ 1 ∧ ((s.zone 0 0).slot 7).state ≠ 2 ∧ s.flagFull = false := by
  unfold SideOk; decide +kernel

/-- A reservation of the zone of `zoneState`, by node 9. -/
def reserver : LzPeerReq := { node := 9, gkey := 3, die := 0, core := 0, zone := 0, gen := 1, tag := 0x5C192E }
theorem witness_LandingSlotsReservedAndFilled :
    (let s := withS (zoned id) [(22, 0)]
     isMast s.cur = false ∧ SideOk s 20 ∧ SideOk s 22 ∧ (s.side 20).val.toNat / 2 ^ 20 % 4 = 0 ∧ (s.side 20).val.toNat % 16 = 0 ∧
      s.flagFull = false ∧ (s.side 22).val.toNat / 2 ^ 13 % 256 < 176) ∧
    ((zoned fun x => { x with state := 2 }).zone 0 0).open_ = true ∧ ((zoned fun x => { x with state := 2 }).side 21).val.toNat ≤ 7 ∧
    (let z := zoneState.zone 0 0
     z.open_ = true ∧ z.gen = reserver.gen ∧ z.tag = reserver.tag ∧ 0 ≤ z.cnt ∧ (z.slot 0).state = 0 ∧
      z.gen ≠ ({ reserver with gen := 2 } : LzPeerReq).gen ∧ z.tag ≠ ({ reserver with tag := 1 } : LzPeerReq).tag) ∧
    (let s : State := zoneState.setZone 0 0 { zoneState.zone 0 0 with slots := (List.range 8).map fun i => (i, { state := 3 }) }
     ∀ i ≤ (s.zone 0 0).cnt, ((s.zone 0 0).slot i).state ≠ 0) ∧
    (let s := linked u
     let ps := [lzPacket reserver []]
     reserver.die = (envelope 0).ddie ∧ received s (whole s (envelope 0) 9 ps) 9 ps = true) := by unfold SideOk; decide +kernel
theorem witness_LandingSlotsReservedAndFilled_ops :
    ((pending (.lzres 22 0x015C192E1D020000 0 3 none) []).group 0).op? 7 =
      some { id := 7, kind := .lzres 22 0x015C192E1D020000 0 3 none, flag := some 11, writes := [] } ∧
    (0 : Dword).toNat / 2 ^ 24 % 2 ^ 19 = u.node.toNat ∧ (0x9000000 : Dword).toNat / 2 ^ 24 % 2 ^ 19 ≠ u.node.toNat ∧
    answerFits 0x015C192E1D020000 0x9000000 (handleOf 1 9 0 0 0 7 4) = true ∧
    (let s : State := { linked u with outbox := [sentMsg 40] }
     let ps := [lzPacket (lzRequest s.node 3 0x015C192E1D020000 0x9000000) (bytesOf 8 (handleOf 1 9 0 0 0 7 4).toNat)]
     BitVec.ofNat 19 ((0x9000000 : Dword).toNat / 2 ^ 24) = 9 ∧ s.awayOpt (some 40) = true ∧
      received s (whole s (envelope 0) 10 ps) 10 ps = true) ∧
    (let q : LandPacket := { node := 9, gkey := 3, die := 7, core := 175, zone := 15, gen := 0, slot := 63, off := 0, data := [1, 2, 3, 4] }
     let s := linked u
     let z : Zone := { held := true, cnt := 63, slots := [(63, { state := 1, node := 9, key := 3, link := some 15 })] }
     landPacketOk q = true ∧ s.mayArrive (envelope 7) q.node = true ∧ (envelope 7).ddie = q.die ∧
      s.landing.find? (fun m => m.id = 1) = none ∧ s.ageOf (envelope 7) ≤ 200 ∧
      ({ id := 1, env := some (envelope 7), packets := [q] } : LandMsg).takes (envelope 7) q = true ∧
      (s.setZone (7 * 256 + 175) 15 z).admits (7 * 256 + 175) 15 0 63 9 3 = true ∧ s.admits (7 * 256 + 175) 15 0 63 9 3 = false ∧
      (let c := { q with copies := [(0, 15, 0, 63)] }
       landPacketOk c = true ∧ (eachSlot c).length = 2 ∧ (eachSlot c).all ((s.setZone (7 * 256 + 175) 15 z).byLink (envelope 7)) = true) ∧
      q.data.length % 4 = 0 ∧
      Memory.wf s.mem = true ∧ ((s.setZone (7 * 256 + 175) 15 z).slotBase (7 * 256 + 175) 15 63) % 4 = 0) ∧
    (let t : CplTarget := { node := 0, die := 0, core := 0, zone := 0, gen := 1, slot := 0 }
     let x := { op16 with kind := .cpl, drained := true, targets := [t] }
     let s := moving fun _ => x
     s.xfer? 3 = some x ∧ x.targets[0]? = some t ∧ s.landsAlone x = false ∧ t.admitted = false ∧ t.result = none) ∧
    (let q : LandPacket := { node := 9, gkey := 3, die := 0, core := 0, zone := 0, gen := 1, slot := 0, off := 0, data := [1, 2, 3, 4] }
     let m : LandMsg := { id := 7, env := some (envelope 0), packets := [q],
                          writes := [{ core := 0, zone := 0, slot := 0, res := 5, runs := [], count := 4096 }] }
     let s : State := { u.setZone 0 0 { slots := [(0, { state := 1, pending := 4096, res := 5 })] } with landing := [m] }
     let ps := m.packets.map fun q => landPacket q q.data
     s.landing.find? (fun m => m.id = 7) = some m ∧ ((s.zone 0 0).slot 0).res = 5 ∧ ((s.zone 0 0).slot 0).state = 1 ∧
      s.tagOk (whole s (envelope 0) 1 ps) 1 9 ps = true ∧ s.tagOk (envelope 0) 1 9 ps = false) ∧
    (let m : LandMsg := { id := 6 }
     let x := { op16 with kind := .cpl, drained := true, targets := [{ node := 0, die := 0, core := 0, zone := 0, gen := 1, slot := 0, admitted := true }] }
     let s : State := { moving (fun _ => x) with landing := [m] }
     s.landing.find? (fun m => m.id = 6) = some m ∧ m.env = none ∧ s.xfer? (6 / 2) = some x ∧ x.arrived = true) := by decide +kernel
/-- `copyState` with a handle of this node's core 0 in `s40` and of core 11 in `s41`: the widest rectangle is one row of twelve. -/
theorem witness_LandingSlotsReservedAndFilled_cpl :
    let s := withS copyState [(40, handleOf 1 5 2 0 0 0 4), (41, handleOf 1 5 2 11 0 63 4)]
    let hs := (List.range 2).map fun j => (s.side (40 + BitVec.ofNat 7 j)).val.toNat
    let off := fun (l : Nat) => (s.g.getV 2 l).val.toNat
    let spot : Trans := ⟨.phys 0, true, true, false, false, false, 0, 0, none⟩
    let us := (lanesOf all).flatMap fun l =>
      [copyUnit s 0 l (s.vw 1 l).toNat (copyBytes .b16) .read,
       ⟨l, 1, off l, copyBytes .b16, if off l % copyBytes .b16 ≠ 0 then .error align else .ok spot⟩]
    isMast s.cur = false ∧ s.memReady = true ∧ Lanes s all ∧ Owned s [1, 2] ∧ operandBitsOk (.cpl .b16 40 0 1 1) = true ∧
      (∀ j ≤ 1, SideOk s (40 + BitVec.ofNat 7 j)) ∧ (∀ e ∈ hs, handleOk e = true) ∧
      (∀ e ∈ hs, ∀ f ∈ hs, (handleTarget e).node = (handleTarget f).node ∧ (handleTarget e).die = (handleTarget f).die) ∧
      rectangleOk (hs.map fun e => (handleTarget e).core) = true ∧ Lanes (withGm s 0x14200000) 0 ∧ s.sideOk 40 = true ∧ s.sideOk 41 = true ∧
      (∀ l < 32, ∀ e ∈ hs, off l + copyBytes .b16 ≤ 256 * 2 ^ (e % 16)) ∧ (copyCheck s all [1, 2] [0] us).isOk = true ∧
      (let moves := (halves ((copyCheck s all [1, 2] [0] us).toOption.getD [])).map fun e =>
        ({ src := e.1.2.loc, dst := .slot e.2.1.va, n := copyBytes .b16 } : Move)
       sortBy s.opKey (byLine moves) ≠ [] ∧ (s.txRoom (sortBy s.opKey (byLine moves)).length).isSome = true) := by
  unfold Lanes Owned SideOk; decide +kernel

/-- A descriptor of eight arguments and four results at entry 0x40000000. -/
def shipDesc : Dword := BitVec.ofNat 64 (8 * 2 ^ 60 + 4 * 2 ^ 57 + 0x40000000)
theorem witness_HoistsSentAndAwaited :
    (let s := withS copyState [(5, shipDesc)]
     let na := (s.side 5).val.toNat / 2 ^ 60
     let nr := (s.side 5).val.toNat / 2 ^ 57 % 8
     Lanes s all ∧ s.memReady = true ∧ SideOk s 5 ∧ na ≤ 8 ∧ nr ≤ 4 ∧ (s.side 5).val.toNat % 4 = 0 ∧
      (247 : BitVec 8).toNat + 1 + max na (nr - 1) ≤ 256 ∧ (247 : BitVec 8).toNat + 1 + max na (nr - 1) ≤ 8 * s.g.vgran ∧
      (copyCheck s all ((List.range (na + 1)).map (247 + ·)) [0] ((lanesOf all).map (lockUnit s 0 247))).isOk = true ∧
      Lanes (withGm s 0x14200000) 0 ∧ (withGm s 0x14200000).memReady = true ∧
      (let c := onG s fun g => { g with s := g.s.put 5 { poison := true } }
       c.sideOk 5 = true ∧ (c.side 5).poison = true ∧ (247 : BitVec 8).toNat < 8 * c.g.vgran) ∧
      isMast s.cur = false ∧ (∀ l < 32, s.g.token 7 l ≠ .pending)) ∧
    (let s := onG u fun g => { g with tokens := [(7 * 32 + 31, .pending)] }
     Lanes s all ∧ (7 : BitVec 8).toNat < 8 ∧ maskOf ((lanesOf all).filter fun l => s.g.token 7 l = .pending) ≠ 0 ∧
      maskOf ((lanesOf all).filter fun l => s.g.token 6 l = .pending) = 0) ∧
    (let s := onG u fun g => { g with tokens := [(7 * 32 + 31, .error 0x0C)] }
     (∀ l < 32, ∀ c, s.g.token 6 l ≠ .error c) ∧ s.g.token 7 31 = .error 0x0C ∧ s.g.ended = false ∧ s.g.fault = none ∧ s.g.halted = false ∧
      (∀ i < 31, s.g.token 7 i = .idle)) := by
  refine ⟨by unfold Lanes SideOk; decide +kernel, by unfold Lanes; decide +kernel, ?_, by decide +kernel, by decide +kernel⟩
  intro l hl c
  have : ∀ l < 32, (onG u fun g => { g with tokens := [(7 * 32 + 31, .error 0x0C)] }).g.token 6 l = .idle := by decide +kernel
  rw [this l hl]
  exact fun h => nomatch h

/-- A request of this package's group for the lock at 0x1000. -/
def request : HoistReq :=
  { desc := shipDesc, lockpa := 0x1000, lockva := 0x1000, mast := false, wait := false, tok := 7, lane := 31,
    node := 0, gkey := 0, key := 0, wdog := 100, seq := 0, args := List.replicate 8 5 }
/-- A hoist with that request, for the result register v255. -/
def hoist : Hoist := { id := 6, req := request, own := true, place := 0, tag := 0, ctx := 0, reg := 255, home := some 255 }
/-- `u` with that hoist. -/
def hoisting (f : Hoist → Hoist) : State := { u with hoists := [f hoist], nextId := 9 }
/-- The home's queue holds the hoist behind one whose lock a running section holds. -/
def homeState : State :=
  let first : Hoist := { hoist with id := 5, at_ := .running (mastPlace 255 0) }
  let held : Hoist := { hoist with id := 4, at_ := .queued }
  let mine : Hoist := { hoist with req := { request with lockpa := 0x1008 }, at_ := .queued }
  let s : State := { u with hoists := [held, first, mine] }
  let s := s.setGroup (mastPlace 255 0) { live := true, sect := some { hoist := 5, req := request, own := true } }
  s.setMast 255 { queue := [4, 6] }

theorem witness_HoistsSentAndAwaited_answers :
    (let h := { hoist with at_ := .answered 0 [{ val := 5 }, {}, {}, {}] }
     let s := hoisting fun _ => h
     s.hoist? 6 = some h ∧ h.own = true ∧ s.savedTag h.tag = none ∧ s.senderThere h = true ∧ h.req.lane < 32 ∧
      (s.group h.place).slotA.state = .live ∧ (s.group h.place).slotB.state = .free ∧ h.req.wait = false ∧ isMast h.place = false) ∧
    (let h := { hoist with home := none, peer := 9, msg := some 40 }
     let s : State := { linked (hoisting fun _ => h) with outbox := [sentMsg 40] }
     let answer := [hoistPacket h.req (hoistResponse h.req 0 [1, 2, 3, 4])]
     let refusal := [hoistPacket h.req (hoistResponse h.req 0x11 [])]
     let ack := [hoistPacket h.req [0]]
     s.hoist? 6 = some h ∧ h.own = true ∧ h.home = none ∧ s.awayOpt h.msg = true ∧ h.at_ = .sent ∧ h.mute = false ∧ s.savedTag h.tag = none ∧
      ([1, 2, 3, 4] : List Word).length = h.req.desc.toNat / 2 ^ 57 % 8 ∧ received s (whole s (envelope 7) 6 answer) 6 answer = true ∧
      received s (whole s (envelope 7) 6 refusal) 6 refusal = true ∧ received s (whole s (envelope 7) 7 ack) 7 ack = true) := by decide +kernel

/-- A slot that waits at `SHIP.W` for its last lane, of which the hoist brings a result, or a failure. -/
theorem witness_HoistsSentAndAwaited_waitEnds :
    [(0, ([] : List PWord)), (0x0C, [])].all (fun e =>
      let h := { hoist with req := { request with wait := true }, at_ := .answered e.1 e.2 }
      let s := onG (hoisting fun _ => h) fun g =>
        { g with shipOut := 0x80000000, slotA := { g.slotA with state := .waiting .shipW } }
      s.hoist? 6 = some h && h.own && (s.savedTag h.tag).isNone && s.senderThere h && h.req.wait && !isMast h.place && !s.stoppedAt h.place &&
        h.req.lane < 32 && s.sl.mask &&& BitVec.twoPow 32 h.req.lane != 0 && s.sl.state = .waiting .shipW && s.other.state = .free &&
        (s.g.shipOut &&& ~~~(BitVec.twoPow 32 h.req.lane) &&& s.sl.mask) = 0) = true := by decide +kernel

theorem witness_SectionsRunAtTheirHome :
    (let s := hoisting id
     s.hoist? 6 = some hoist ∧ hoist.own = true ∧ hoist.home = some 255 ∧ hoist.at_ = .sent ∧ s.firstOfLock hoist = true ∧
      (s.mast 255).accepts = true ∧ (s.mast 255).onChip = true ∧ (s.mast 255).isBroken 0x1000 = false) ∧
    (let s := (hoisting fun h => { h with at_ := .heldBack }).setMast 255
       { queue := List.replicate 4096 9, ringCtl := 0x8000000000000000 + 0xC000000000 }
     (s.mast 255).accepts = true ∧ (s.mast 255).onChip = false ∧ (s.mast 255).isBroken 0x1000 = false ∧ s.ringFails 255 = true ∧ s.firstOfLock { hoist with at_ := .heldBack } = true) ∧
    ((hoisting id).setMast 255 { broken := [0x1000] }).mast 255 = { broken := [0x1000] } ∧
    (({ broken := [0x1000] } : Mast).isBroken 0x1000 = true ∧ ({ broken := [0x1000] } : Mast).accepts = true) ∧
    (let r := { request with node := 9 }
     let s : State := linked { u with nextId := 9 }
     let e := envelope (homeOf r.lockpa / 32)
     let ps := [hoistPacket r (hoistBytes { r with seq := 0 })]
     hoistReqOk s.node r = true ∧ e.ddie = homeOf r.lockpa / 32 ∧ received s (whole s e 5 ps) 5 ps = true ∧ s.hoists = [] ∧
      received s (whole s { e with hseq := 65535 } 5 ps) 5 ps = true ∧ e.hseq = 0 ∧
      s.delivered.look (gatePair r) 0 = 0 ∧ s.hoistKeyOk { r with seq := 0 } = false) ∧
    (let s := homeState
     (s.group (mastPlace 255 3)).live = false ∧ s.stopped = false ∧ (s.mast 255).queue ++ (s.mast 255).ring = [4] ++ 6 :: [] ∧
      (∀ j ∈ [4], s.lockOf j ∈ s.heldLocks 255) ∧ s.lockOf 6 ∉ s.heldLocks 255 ∧ (s.hoist? 6).isSome = true) ∧
    ({ hoist with own := false, env := some (envelope 7) } : Hoist).env = some (envelope 7) := by decide +kernel
theorem witness_SectionsRunAtTheirHome_ends :
    (let s := homeState.focus (mastPlace 255 0) .A
     s.g.sect = some { hoist := 5, req := request, own := true } ∧ (s.hoist? 5).isSome = true ∧ u.g.sect = none) ∧
    (let p := mastPlace 255 0
     isMast p = true ∧ (homeState.group p).live = true ∧ (homeState.group p).sect = some { hoist := 5, req := request, own := true } ∧
      homeState.stoppedAt p = false ∧ 5 ∉ (homeState.mast (mastOf p)).queue ++ (homeState.mast (mastOf p)).ring) ∧
    (let m : List Dword := [0x5590000000000000, 0xFF, 0, 0]
     let s : State := u.setMail 7 { msgs := [m] }
     s.message 7 0x55 = some m ∧ msgWord m 1 / 2 ^ 8 % 2 = 0) ∧
    (let m : List Dword := [0x5590000000000000, 0x100, 0, 0]
     (u.setMail 7 { msgs := [m] }).message 7 0x55 = some m ∧ msgWord m 1 / 2 ^ 8 % 2 = 1) := by decide +kernel

/-- The first word of a host message of a type about the group. -/
def about (ty : Nat) : Dword := BitVec.ofNat 64 (ty * 2 ^ 56 + 9 * 2 ^ 52 + (placeKey 0 u.g).toNat)
/-- A message in a mailbox. -/
def mailed (s : State) (f : Nat) (m : List Dword) : State := s.setMail f { msgs := [m] }
/-- The group halted. -/
def halted (s : State) : State := onG s fun g => { g with halted := true }
theorem witness_DebuggerMessages :
    (let m : List Dword := [about 0x51, 0, 0, 0]
     (mailed u 7 m).message 7 0x51 = some m ∧ msgWord m 1 % 2 = 0 ∧ ((mailed u 7 m).tagPlace (msgTag m)).isSome = true) ∧
    (let m : List Dword := [about 0x51, 1, 0, 0]
     (mailed u 7 m).message 7 0x51 = some m ∧ msgWord m 1 % 2 = 1 ∧ 0 ∈ (mailed u 7 m).livePlaces ∧
      ((mailed u 7 m).ctx ((mailed u 7 m).group 0).ctx).runs 0 = true) ∧
    ((fun (m : List Dword) =>
      (mailed (halted u) 7 m).message 7 0x52 = some m ∧ msgWord m 1 % 2 = 1 ∧ msgWord m 1 / 2 % 2 = 1 ∧
        (mailed (halted u) 7 m).tagPlace (msgTag m) = some 0 ∧ ((mailed (halted u) 7 m).group 0).halted = true) [about 0x52, 3, 0, 0]) ∧
    ((fun (m : List Dword) => (mailed (halted u) 7 m).message 7 0x52 = some m ∧ msgWord m 1 % 2 = 0) [about 0x52, 0, 0, 0]) ∧
    ([0x53, 0x54].all fun ty =>
      let m : List Dword := [about ty, 0x10000, 0, 0]
      let s := mailed (halted u) 7 m
      s.message 7 ty = some m && s.tagPlace (msgTag m) = some 0 && (s.group 0).halted && msgWord m 1 % 128 = 0 &&
        s.physOk (msgWord m 1) (groupRecordBytes (s.group 0).vgran)) ∧
    (let m : List Dword := [0x4190000000000000, 0x10000, 128, 0x40 + 63]
     (mailed u 7 m).message 7 0x41 = some m ∧ 128 ≤ msgWord m 2 ∧ msgWord m 1 % 4096 = 0 ∧ msgWord m 3 / 2 ^ 6 % 4 < 2) := by decide +kernel
/-- `coded` over an executable page, at the header `h` of a clause of the words `ws`. -/
def fetching (h : Word) (ws : List Word) : State :=
  let s := paged (coded u) (2 ^ 63 + 2 ^ 62 + 2 ^ 61 + 2 ^ 59 + 0x40000000) 0
  let s := s.putBytes 0x40000000 ((h :: ws).flatMap fun w => bytesOf 4 w.toNat)
  onS s fun x => { x with pc := 0x40000000, clause := none }
/-- The word at an address is fetched. -/
def fetches (s : State) (va : Addr) (w : Word) : Bool :=
  match fetchWord s 0 va with
  | .ok v => v = w
  | .error _ => false
/-- The header waits on no flag of the group that counts above zero. -/
def flagsFree (s : State) (h : Word) : Bool := (List.range 12).all fun i => h.toNat / 2 ^ (16 + i) % 2 = 0 || (s.group 0).flags.look i 0 = 0

theorem witness_ClausesStartAndWordsFail :
    (let s := fetching 0xF800FF00 (List.replicate 16 0x9C000000)
     s.slotReady 0 .A = true ∧ ((s.group 0).slot .A).clause = none ∧ s.targetOk 0 0x40000000 = true ∧ fetches s 0x40000000 0xF800FF00 = true ∧
      ((0xF800FF00 : Word).toNat / 2 ^ 12 % 16 = 15 ∧ (0xF800FF00 : Word).toNat / 2 ^ 8 % 16 = 15 ∧ (0xF800FF00 : Word).toNat % 64 = 0) ∧
      s.fetchHold 0 .A 0x40000000 1 = none ∧ s.fetchHold 0 .A 0x40000004 16 = none ∧
      flagsFree s 0xF800FF00 = true ∧ (List.replicate 16 (0x9C000000 : Word)).length = (0xF800FF00 : Word).toNat / 2 ^ 28 + 1 ∧
      (∀ i < 16, fetches s (0x40000004 + BitVec.ofNat 57 (4 * i)) 0x9C000000 = true) ∧
      ((List.replicate 16 (0x9C000000 : Word)).filter wordIsLong).length ≤ 2 ∧ wordTransfers 0x9C000000 = false) ∧
    (let s := fetching 0x00000C00 [0x9C000000]
     s.slotReady 0 .A = true ∧ fetches s 0x40000000 0x00000C00 = true ∧ ¬ ((0x00000C00 : Word).toNat / 2 ^ 8 % 16 ≤ 11 ∨
      (0x00000C00 : Word).toNat / 2 ^ 8 % 16 = 15)) ∧
    (let s := onG (fetching 0x0800FF00 [0x9C000000]) fun g => { g with flags := [(11, 1)] }
     s.slotReady 0 .A = true ∧ s.targetOk 0 0x40000000 = true ∧ fetches s 0x40000000 0x0800FF00 = true ∧ flagsFree s 0x0800FF00 = false) ∧
    (let ws : List Word := [0x80000000, 0x9C000000]
     let s := fetching 0x1000FF00 ws
     s.slotReady 0 .A = true ∧ flagsFree s 0x1000FF00 = true ∧ fetches s 0x40000004 0x80000000 = true ∧ fetches s 0x40000008 0x9C000000 = true ∧
      wordTransfers 0x80000000 = true) ∧
    decode 0x03FFFFFF = none ∧ decode 0xA8000004 = some (.bar 4) ∧ operandBitsOk (.bar 4) = false := by decide +kernel
/-- The code page is a peer's; its home slice holds the words at a word offset, admitted, or none. -/
def peerCode (w : Nat) (vs : List Word) : State :=
  let s := paged (coded u) (2 ^ 63 + 2 ^ 62 + 2 ^ 61 + 2 ^ 59 + 2 ^ 56 + 0x40000000) 0
  let s := s.putBytes 0x18030 (bytesOf 8 (9 * 2 ^ 32 + 5))
  let at_ := (Loc.peer 9 5 0x40000000).key / 4 + w
  let s := vs.zipIdx.foldl (fun (s : State) e => s.setL2 (at_ + e.2) { val := e.1, valid := true }) s
  let s : State := if vs = [] then s else { s with l2line := s.l2line.put (at_ / 32) { s.l2line.look (at_ / 32) {} with keys := [5] } }
  onS s fun x => { x with pc := BitVec.ofNat 57 (0x40000000 + 4 * w), clause := none }
theorem witness_ClausesStartAndWordsFail_peers :
    (let s := peerCode 0 []
     s.slotReady 0 .A = true ∧ s.targetOk 0 0x40000000 = true ∧ (fetchWord s 0 0x40000000).isOk = true ∧
      (s.fetchHold 0 .A 0x40000000 1).isSome = true) ∧
    (let s := peerCode 7 [0x0000FF00]
     s.slotReady 0 .A = true ∧ s.targetOk 0 0x4000001C = true ∧ fetches s 0x4000001C 0x0000FF00 = true ∧
      s.fetchHold 0 .A 0x4000001C 1 = none ∧ (s.fetchHold 0 .A 0x40000020 1).isSome = true) := by decide +kernel

/-- A context of two teams of one group on no core. -/
def launched (s : State) : State :=
  s.setCtx 0 { live := true, kernel := { widestKernel with gridx := 2, vgran := 1, groups := 1 } }
theorem witness_TeamsPlacedSavedAndReleased_placement :
    let s := launched State.reset
    s.headCtx = some (0, s.ctx 0) ∧ s.stopped = false ∧ s.fitsAt (s.ctx 0) (7 * 256 + 175) = true ∧ (s.ctx 0).restore = [] ∧
      (s.ctx 0).kernel.cw = 0 ∧ s.freeTeam (7 * 256 + 175) = some ((7 * 256 + 175) * 16) := by decide +kernel
/-- `u`'s context is resident; one launched after it has a cluster that no die takes. -/
def contended : State :=
  (u.setCtx 0 { u.ctx 0 with cap := 1000000 }).setCtx 1 { live := true, order := 1, kernel := { widestKernel with gridx := 192, cw := 16, ch := 12 } }
theorem witness_TeamsPlacedSavedAndReleased_slice :
    let s := contended
    s.headCtx.map (·.1) = some 1 ∧ s.preemptable 0 = true ∧ s.residentPrio 0 = (s.ctx 1).prio ∧ s.victim 1 (s.ctx 1).prio = none ∧
      s.someStopping = false ∧ s.fitsSomewhere (s.ctx 1) = false ∧ (s.ctxPlaces 0).all (fun p => (s.group p).late = []) = true := by decide +kernel
theorem witness_TeamsPlacedSavedAndReleased_save :
    (let s := u.setCtx 0 { u.ctx 0 with phase := .stop false, cap := 1000000 }
     let r := ((s.ctxTeams 0).foldl (fun s k => s.revokeTeam k) s).pushCtx 0
     (s.ctx 0).phase = .stop false ∧ (s.ctx 0).live = true ∧ s.ctxDrained 0 = true ∧ s.stopped = false ∧ (∀ k ∈ r.ctxTeams 0, r.zoneHeld k = false) ∧
      r.peerWrites = [] ∧ r.ctxTeams 0 ≠ []) ∧
    (let h := { hoist with home := none, peer := 9, tag := 5, acked := true, msg := some 40 }
     let g : SavedGroup := { tag := 5, key := 0, record := 0x1000, image := 0x800, seq := none }
     let s : State := linked { u with hoists := [h], saved := [g], outbox := [sentMsg 40] }
     let ps := [hoistPacket h.req (hoistResponse h.req 0 (List.replicate 4 5))]
     s.hoist? 6 = some h ∧ s.savedTag h.tag = some g ∧ h.own = true ∧
      (s.hearHoist h (.peer (whole s (envelope 0) 6 ps) 0 (List.replicate 4 (5, false)))).2.isSome = true ∧
      (hoistAnswer { h with home := some 255, at_ := .answered 0 [{ val := 5 }] } .own).isSome = true) ∧
    (let m : List Dword := [0x2190000000000007, 0, 0, 0]
     let g : SavedGroup := { tag := 5, key := 0, record := 0x1000, image := 0x800, seq := some 7 }
     let s : State := { mailed u 0 m with saved := [g] }
     s.message 0 0x21 = some m ∧ s.saved.find? (fun g => g.seq = some (BitVec.ofNat 32 (msgTag m)) && g.image != 0) = some g) := by
  decide +kernel
theorem witness_TeamsPlacedSavedAndReleased_release :
    (let s := onG u fun g => { g with ended := true, slotA := {} }
     isMast 0 = false ∧ s.groupFinished 0 = true) ∧
    (let s := u.setTeam 0 { u.tm with ended := true, groups := [] }
     (s.team 0).live = true ∧ (s.team 0).ended = true ∧ (s.team 0).groups = [] ∧ s.zoneHeld 0 = false) ∧
    (let s := onG u fun g => { g with file := .slow, since := some 0 }
     (s.group 0).live = true ∧ (s.group 0).file = .slow ∧ s.nextIn 0 = true ∧ s.activeRoom 0 = true ∧ s.fastRoom 0 = true) ∧
    (let s := (List.range 8).foldl (fun (s : State) i => s.setGroup (4 + i) { live := true, vgran := 32, file := .active })
      (onG (onS u fun x => { x with state := .waiting .trap }) fun g => { g with since := some 5 })
     let s := s.setGroup 16 { live := true, vgran := 1, slotA := { state := .live }, since := some 7 }
     (s.group 0).live = true ∧ (s.group 0).file = .active ∧ (16, s.group 16) ∈ s.filed 0 .slow ∧ s.nextIn 16 = true ∧
      (0, s.group 0) ∈ s.giveRoom 16 ∧ longest (s.group 0) (s.giveRoom 16) = true) ∧
    ((onG u fun g => { g with file := .movingOut }).group 0).file = .movingOut ∧
    ((onG u fun g => { g with file := .movingIn }).group 0).file = .movingIn := by decide +kernel
/-- `u` with Kolgon port 15 up, a route to node 9 by it, a message that has left by it, and a region of this package's memory under a
key of every right. -/
def fabric (f : State → State := id) : State :=
  let r : Region := { base := 0x10000, len := 0x10000, attr := 7, key := 0x01000005 }
  f (linked { u with routes := [(9, 15)], regions := [r], outbox := [sentMsg 40] })
/-- A peer's write of a word within the region. -/
def peerWrite : PeerReq := { node := 9, gkey := 3, key := 0x01000005, addr := 0x1FFFC, op := .write [1, 2, 3, 4] }
/-- The group holds an instruction for one unit. -/
def holding (i : Instr) (x : HoldUnit) (s : State) : State :=
  onG s fun g => { g with hold := some { slot := .A, instr := i, lanes := 1, units := [x] } }
/-- A word of a peer's memory, and one of the host's. -/
def peerUnit : HoldUnit :=
  { lane := 0, reg := 0, va := 0x40000000, loc := .peer 9 5 0x2000, bytes := 4, data := [], compare := [], waits := true, answer := none, msg := some 40 }
def hostUnit : HoldUnit :=
  { lane := 0, reg := 0, va := 0x40000000, loc := .phys (2 ^ 51), bytes := 4, data := [1, 0, 0, 0], compare := [], waits := false, answer := none }
/-- A message of requests is received, whole and in its time. -/
def takesMsg (s : State) (rs : List PeerReq) : Bool :=
  match rs with
  | r :: _ => oneMessage rs && rs.all (peerReqOk s.node) &&
      received s (whole s (envelope 0) (peerKind r.op) (rs.map peerPacket)) (peerKind r.op) (rs.map peerPacket)
  | [] => false

theorem witness_FabricMessagesArriveAndExpire_requests :
    (let s := fabric
     takesMsg s [peerWrite, { peerWrite with addr := 0x10000, op := .write (List.replicate 128 5) }] = true ∧ takesMsg s [peerWrite] = true ∧
      takesMsg s [{ peerWrite with op := .read 4 }] = true ∧ takesMsg s [{ peerWrite with addr := 0x1FFFD }] = true ∧
      s.tagOk (envelope 0) 0 9 [peerPacket peerWrite] = false ∧ (s.link 15).fails < 7 ∧ (s.link 15).tagfail.toNat < 65535 ∧
      (let g := (s.regionOf peerWrite.key).getD { base := 0, len := 0, attr := 0, key := 0 }
       s.regionOf peerWrite.key = some g ∧ g.base ≤ peerWrite.addr ∧ peerWrite.addr + peerBytesOf peerWrite ≤ g.base + g.len ∧
        g.attr.getLsbD 0 = true ∧ g.attr.getLsbD 1 = true) ∧ peerWrite.addr + 4 ≤ 2 ^ 51 ∧ Memory.wf s.mem = true ∧
      s.regionOf 0x02000005 = none) ∧
    (let r := { peerWrite with op := .reserved 15 }
     oneMessage [r] = true ∧ peerReqOk 0 r = true) ∧
    (let s : State := { fabric with ftime := 201 }
     s.mayArrive (envelope 0) 9 = true ∧ 200 < s.ageOf (envelope 0)) := by decide +kernel
theorem witness_FabricMessagesArriveAndExpire_answers :
    (let s := fabric (holding (.ld .s .word 1 0 (.step 0)) peerUnit)
     let ps : List Packet := [{ addr := 0x2000, key := 5, gkey := placeKey 0 (s.group 0), payload := [1, 2, 3, 4] }]
     ((s.group 0).hold.bind (·.units[0]?)) = some peerUnit ∧ peerUnit.waits = true ∧ peerUnit.answer = none ∧ s.awayOpt peerUnit.msg = true ∧
      ((s.group 0).hold.map fun h => h.sequenced) = some false ∧
      ((s.group 0).hold.map fun h => s.answerOk h peerUnit (.data [(1, false), (2, false), (3, false), (4, true)])) = some true ∧
      received s (whole s (envelope 0) 3 ps) 3 ps = true) ∧
    (let w : PeerWrite := { id := 4, node := 9, key := 5, addr := 0x2000, data := [1, 2, 3, 4], msg := some 40 }
     let s := fabric fun s => { s with peerWrites := [w] }
     let answer := fun (c : Byte) => [({ addr := 0x2000, key := 5, payload := [c] } : Packet)]
     s.peerWrites.find? (fun w => w.id = 4) = some w ∧ s.awayOpt w.msg = true ∧
      received s (whole s (envelope 0) 7 (answer 0)) 7 (answer 0) = true ∧ received s (whole s (envelope 0) 7 (answer 9)) 7 (answer 9) = true) ∧
    (let s := fabric
     received s (whole s (envelope 0) 8 [markerPacket 3 []]) 8 [markerPacket 3 []] = true) ∧
    (let r : RelWait := { nodes := [9], msgs := [(9, 7, 40)], ports := [1], slot := .A, saved := u.sl }
     let s := fabric fun s => onG s fun g => { g with rel := some r }
     let ps := [markerPacket (placeKey 0 (s.group 0)) [0]]
     (s.group 0).rel = some r ∧ ((9 : BitVec 19), (envelope 0).sdie, 40) ∈ r.msgs ∧ s.away 40 = true ∧
      received s (whole s (envelope 0) 7 ps) 7 ps = true ∧ s.pcieDown.look 1 false = false) := by
  decide +kernel
theorem witness_FabricMessagesArriveAndExpire_atomics :
    let s := holding (.atom .s .add 0 1 2) hostUnit (withGm u 0x01000000)
    ((s.group 0).hold.bind (·.atomicOut)) = some hostUnit ∧ ((s.group 0).hold.bind fun h => atomOf h.instr) = some (.add, 1, false) ∧
      atomTy ((s.group 0).slot .A).gm .add = some .s32 ∧ (s.group 0).ended = false ∧ (s.group 0).hold.any (s.mustYield 0) = false ∧
      (let other : Hold := { slot := .A, instr := .atom .s .add 0 1 2, lanes := 3, units := [hostUnit, { hostUnit with lane := 1 }], done := 1 }
       let b := s.setGroup 4 { hold := some other }
       (b.group 0).hold.any (b.mustYield 0) = true) ∧ s.fallbackAt hostUnit.loc.key = false ∧
      ({ s with regions := [{ base := 2 ^ 51, len := 0x10000, attr := 0x18, key := 0 }] } : State).fallbackAt hostUnit.loc.key = true := by
  decide +kernel
theorem witness_FabricMessagesArriveAndExpire_timeouts :
    (let x := { op16 with drained := true, told := [(0, 40)] }
     let s := fabric fun s => { s with xfers := [x], ftime := 400 }
     s.outbox.find? (fun y => (s.messagesOf (.xfer 3)).contains y.num && s.olderThan 200 y.num) = some (sentMsg 40) ∧ (sentMsg 40).port < 16 ∧
      s.xfer? 3 = some x ∧ s.unanswered (.xfer 3) = true) ∧
    (let h := { hoist with home := none, peer := 9, msg := some 40 }
     let s := fabric fun s => { s with hoists := [h], ftime := 400 }
     s.hoist? 6 = some h ∧ h.abroad = true ∧ h.acked = false ∧ s.savedTag h.tag = none ∧ h.mute = false ∧ s.routeTo h.peer < 16 ∧ 200 < s.ftime ∧
      s.unanswered (.hoist 6) = true) ∧
    (let o : Pend := { id := 7, kind := .lzres 22 0 0x9000000 3 none, flag := some 11, writes := [], msg := some 40 }
     let s := fabric fun s => { onG s fun g => { g with ops := [o] } with ftime := 400 }
     (s.group 0).op? 7 = some o ∧ s.unanswered (.reserve 0 7) = true) ∧
    (let w : PeerWrite := { id := 4, node := 9, key := 5, addr := 0x2000, data := [1, 2, 3, 4], msg := some 40 }
     let s := fabric fun s => { s with peerWrites := [w], ftime := 400 }
     s.peerWrites.find? (fun w => w.id = 4) = some w ∧ s.unanswered (.wb 4) = true) ∧
    (let s := fabric fun s => { holding (.ld .s .word 1 0 (.step 0)) peerUnit s with ftime := 400 }
     s.unanswered (.unit 0 0) = true) ∧
    (let h := { hoist with own := false, req := { request with node := 9 }, port := 15, at_ := .gateway }
     (hoisting fun _ => h).hoists.find? (fun h => h.at_ = .gateway && h.port = 15 && h.req.node = 9) = some h) := by decide +kernel

theorem witness_PortsLostAndLinesEvicted :
    15 < 16 ∧ (fabric.link 15).up = true ∧ (u.link 15).up = false ∧ (7 < 8 ∧ 0 < 8 ∧ (7 : Nat) ≠ 0) ∧
    (1 < 2 ∧ u.pcieDown.look 1 false = false ∧ ({ u with pcieDown := [(1, true)] } : State).pcieDown.look 1 false = true) ∧
    (let s := u.setL1 0 33 { val := 5, valid := true, dirty := true }
     (∃ e ∈ s.l1.look 0 [], e.1 / 32 = 1) ∧ (s.l1Word 0 33).dirty = true ∧ Memory.wf s.mem = true) ∧
    (let s := u.setL2 (2 ^ 49 + 31) { val := 5, valid := true, dirty := true }
     isHostPa (128 * 2 ^ 44) = true ∧ (2 ^ 49 + 31) / 32 = 2 ^ 44 ∧ (s.l2line.look (2 ^ 44) {}).dirty ≠ 0 ∧ Memory.wf s.mem = true) ∧
    (let s := u.setL2 (2 ^ 51 + 9 * 2 ^ 50) { val := 5, valid := true, dirty := true }
     2 ^ 53 ≤ 128 * ((2 ^ 51 + 9 * 2 ^ 50) / 32) ∧ (s.l2line.look ((2 ^ 51 + 9 * 2 ^ 50) / 32) {}).dirty ≠ 0) := by
  decide +kernel

/-- A served queue 63 of 64 entries whose ring is at 0x100000. -/
def q0 : Queue := { base := 0x100000, ctl := 0x8000000000000000 }
/-- `u` with that queue. -/
def queueing (f : Queue → Queue) : State := u.setQueue 63 (f q0)
/-- A command. -/
def cmd (d0 d1 d2 : Nat) (d3 : Nat := 0) (d4 : Nat := 0) : Cmd :=
  { dw := [BitVec.ofNat 64 d0, BitVec.ofNat 64 d1, BitVec.ofNat 64 d2, BitVec.ofNat 64 d3, BitVec.ofNat 64 d4, 0, 0, 0] }
/-- The queue's next command, and whether it waits; two ring entries are in use. -/
def atCmd (c : Cmd) (w : Bool := false) (calls : List (Nat × Nat) := []) : State :=
  queueing fun x => { x with cmds := [c], tail := 2, ahead := 1, waiting := w, calls := calls }
/-- The command may be processed. -/
def mayRun (c : Cmd) (calls : List (Nat × Nat) := []) : Bool :=
  let s := atCmd c false calls
  let x := s.queue 63
  x.served && !s.stopped && x.cmds = [c] && s.cmdCode c x.calls.length = 0

theorem witness_QueueCommandsInOrder_ahead :
    let ring := fun (d0 d1 d2 : Nat) => (queueing fun x => { x with tail := 64 }).putBytes 0x100000 (bytesOf 8 d0 ++ bytesOf 8 d1 ++ bytesOf 8 d2)
    (let s := ring 2 0x2000 5
     let y := s.queue 63
     63 < 64 ∧ s.stopped = false ∧ y.served = true ∧ y.cmds = [] ∧ y.calls = [] ∧ y.aheadCalls = [] ∧ y.joined = false ∧ y.stuck = false ∧
      0 < (y.tail - y.head).toNat ∧ (y.tail - y.head).toNat ≤ y.count ∧ (y.ahead - y.head).toNat < (y.tail - y.head).toNat ∧
      s.cmdCode (s.readCmd (y.place y.ahead)) 0 = 0 ∧ (s.readCmd (y.place y.ahead)).op = 2) ∧
    (let s := ring 4 0x2000 5
     s.cmdCode (s.readCmd 0x100000) 0 = 0 ∧ (s.readCmd 0x100000).op = 4) ∧
    (let s := ring 6 0 0
     s.cmdCode (s.readCmd 0x100000) 0 = 0 ∧ (s.readCmd 0x100000).op = 6) ∧
    (let s := ring 12 0 0
     s.cmdCode (s.readCmd 0x100000) 0 = 1) := by decide +kernel
theorem witness_QueueCommandsInOrder :
    (mayRun (cmd 2 0x2000 5) ∧ mayRun (cmd 0x102 0x2000 5) ∧ mayRun (cmd 3 0x2000 0) ∧ mayRun (cmd 0x103 0x2000 1) ∧
      mayRun (cmd 4 0x2000 1048576) ∧ mayRun (cmd 4 0x2000 1) [(0x3000, 2)] ∧ mayRun (cmd 5 0 0) [(0x3000, 0)] ∧ mayRun (cmd 6 0 0) ∧
      mayRun (cmd 7 0 0)) ∧
    ((0x2000 : Nat) % 8 = 0 ∧ (0x2000 : Nat) + 8 ≤ 2 ^ 50 ∧ Memory.wf u.mem = true ∧ (cmd 0x102 0x2000 5).flag = true) ∧
    (let s := atCmd (cmd 3 0x2000 0) true
     s.readable 0x2000 8 = true ∧ (cmd 3 0x2000 0).d 2 ≤ s.devNat 0x2000 8 ∧ ¬ (cmd 3 0x2000 1).d 2 ≤ s.devNat 0x2000 8 ∧
      (s.queue 63).waiting = true ∧ (s.queue 63).jobs = 0) := by decide +kernel

/-- An image at 0x200000 of the kernel object at 0x200200: one group of one granule, one word of code. -/
def imaged (s : State) : State :=
  let s := s.putBytes 0x200000 (bytesOf 8 0x010000014D494B53 ++ bytesOf 8 0x200200)
  let s := s.putBytes 0x200020 (bytesOf 8 0x0000000100000001 ++ bytesOf 4 1)
  let s := s.putBytes 0x200200 (bytesOf 8 0x0050000130384B53 ++ bytesOf 8 0x0000000400000080 ++ bytesOf 8 0x0000000100000050)
  (s.putBytes 0x20023C [1, 1]).putBytes 0x200250 [1]
theorem witness_LaunchesRegionsAndDestruction_launch :
    (let c := cmd 1 0x200000 0x1000
     let s := imaged (atCmd c)
     mayRun c ∧ s.cmdCode c 0 = 0 ∧ s.ctxRoom 63 = true ∧ s.imgPending 0x200000 = false ∧ bitOf (s.imgRole 0x200000) 0 = false ∧
      s.launchCause 0x200000 0x1000 = 0 ∧ (s.queue 63).waiting = false ∧ ((imaged (atCmd c true)).queue 63).waiting = true) ∧
    (let s := (imaged (atCmd (cmd 1 0x200000 0x1000))).putBytes 0x200060 [1]
     s.imgPending 0x200000 = true) ∧
    (let s := (imaged (atCmd (cmd 1 0x200000 0x1000))).putBytes 0x20023C [0]
     s.ctxRoom 63 = true ∧ s.imgPending 0x200000 = false ∧ bitOf (s.imgRole 0x200000) 0 = false ∧ s.launchCause 0x200000 0x1000 = 2) := by
  decide +kernel
theorem witness_LaunchesRegionsAndDestruction :
    (mayRun (cmd (8 + 7 * 2 ^ 16) 0 0) ∧ mayRun (cmd 9 0x10000 0x10000 7 0x2000) ∧ mayRun (cmd 9 (2 ^ 51) 0x10000 0x18 0x2000) ∧
      mayRun (cmd (0x0A + 0x01000005 * 2 ^ 16) 0 0) ∧ mayRun (cmd (0x0B + 62 * 2 ^ 16) 0 0) ∧ mayRun (cmd (0x10B + 62 * 2 ^ 16) 0 0)) ∧
    (u.regionStatus 0x10000 0x10000 7 = 0 ∧ u.regionStatus (2 ^ 51) 0x10000 0x18 = 0 ∧ u.regionStatus 0x8000 0x10000 7 ≠ 0 ∧
      u.tagFree 0xFFFFFF = true) ∧
    (∀ h ∈ u.hoists, h.own = true ∨ h.req.key ≠ 0x01000005) ∧
    ¬ (∀ h ∈ (hoisting fun h => { h with own := false, req := { request with key := 0x01000005 } }).hoists, h.own = true ∨ h.req.key ≠ 0x01000005) ∧
    ((cmd (0x10B + 62 * 2 ^ 16) 0 0).flag = true ∧ (cmd (0x0B + 62 * 2 ^ 16) 0 0).flag = false) := by decide +kernel
/-- The group's service call 7, of the lanes `all`, awaits its answer. -/
def calling (s : State) : State :=
  onG s fun g => { g with slotA := { g.slotA with state := .waiting .trap },
                          service := some { slot := .A, n := 5, seq := 7, lanes := all, state := .awaiting } }
/-- The group has taken a fault that waits. -/
def faulted (w : FaultWait) (s : State) : State :=
  onG s fun g => { g with fault := some ⟨.A, { cls := 0x01, addr := 0x40000008 }, ⟨0, 0, 0, 0, 0, 0, 0, 0⟩, w, 0⟩ }
/-- Work on the page at 0x40000000. -/
def working (w : PageWork) (s : State) : State := { s with work := [w] }

theorem witness_ServicesDispositionsAndPages_answers :
    (let m : List Dword := [0x2190000000000007, 0x12, 0, 0]
     let s := mailed (calling u) 0 m
     s.message 0 0x21 = some m ∧ (s.serviceOf (msgTag m)).map (·.1) = some 0 ∧ (s.group 0).service = (s.serviceOf (msgTag m)).map (·.2) ∧
      (s.group 0).fault = none ∧ (s.group 0).halted = false ∧ (s.group 0).ended = false ∧ msgWord m 1 % 2 ^ 16 ≠ 0 ∧ isMast 0 = false) ∧
    (let m : List Dword := [0x2190000000000007, 0, 0, 0]
     let h : Hold := { slot := .A, instr := .atom .s .add 0 1 2, lanes := 1, units := [hostUnit], fall := some 7 }
     let s := mailed (onG u fun g => { g with hold := some h }) 0 m
     s.message 0 0x21 = some m ∧ msgWord m 1 % 2 ^ 16 = 0 ∧ s.serviceOf 7 = none ∧ s.fallbackOf (msgTag m) = some (0, h)) ∧
    (let m : List Dword := [0x2190000000000007, 0, 0, 0]
     let g : SavedGroup := { tag := 5, key := 0, record := 0, image := 0, seq := some 7 }
     let s : State := { mailed u 0 m with saved := [g] }
     s.message 0 0x21 = some m ∧ s.serviceOf (msgTag m) = none ∧ s.fallbackOf (msgTag m) = none ∧
      s.saved.find? (fun g => g.seq = some (BitVec.ofNat 32 (msgTag m))) = some g ∧ g.image = 0 ∧
      u.saved.find? (fun g => g.seq = some (BitVec.ofNat 32 (msgTag m))) = none) := by decide +kernel
theorem witness_ServicesDispositionsAndPages_dispositions :
    [0, 1].all (fun d =>
      let m : List Dword := [about 0x31, BitVec.ofNat 64 d, 0, 0]
      let s := mailed (faulted .disposition u) 3 m
      s.message 3 0x31 = some m && s.awaiting (msgTag m) = some 0 && msgWord m 1 % 2 = d && (s.group 0).service = none &&
        (s.group 0).late = [] && (s.group 0).slotA.state = .live && (s.group 0).slotB.state = .free) = true := by decide +kernel
theorem witness_ServicesDispositionsAndPages_pages :
    (let m : List Dword := [0x0182000000000000 + (placeKey 0 u.g).setWidth 64, 0x40000008, 0, BitVec.ofNat 64 Matter.fault.code]
     let s := mailed (faulted .service (absentPage u)) 2 m
     s.faultTold 0 = true ∧ ((s.group 0).fault.map fun f => (f.wait, s.pageBase f.info.addr.toNat)) = some (.service, 0x40000000) ∧ s.pageWork 0x40000000 = none) ∧
    (let m : List Dword := [0x0182000000000000, 0x40000008, 0, BitVec.ofNat 64 Matter.hint.code]
     let s := mailed (twinPage u) 2 m
     s.told 2 .hint = some m ∧ s.pageBase (msgWord m 1) = 0x40000000 ∧ s.pageBase 0x40000000 = 0x40000000 ∧ s.pageWork 0x40000000 = none ∧
      (match walk s 0x40000000 with | .present _ => true | _ => false) = true) ∧
    (let w : PageWork := { va := 0x40000000 }
     let s := working w (absentPage u)
     s.told 2 .hint = none ∧ s.pageBase 0x40000000 = 0x40000000 ∧ s.pageWork 0x40000000 = some w ∧ w.verdict = none ∧ w.deferred = false ∧
      (match walk s 0x40000000 with | .absent (some _) => true | _ => false) = true) ∧
    (let w : PageWork := { va := 0x50000 }
     let s := working w u
     s.pageBase 0x50001 = 0x50000 ∧ s.pageWork 0x50000 = some w ∧ walk s 0x50000 = .absent none) ∧
    ([PageVerdict.refuse, .map, .copy true 0x80000000 0].all fun v =>
      let w : PageWork := { va := 0x40000000, verdict := some v }
      (working w (faulted .service (absentPage u))).pageWork 0x40000000 = some w) ∧
    (faulted .service (absentPage u)).waitingOn 0x40000000 = [0] ∧
    (let w : PageWork := { va := 0x40000000, deferred := true, cause := 2 }
     (working w u).pageWork 0x40000000 = some w ∧ w.deferred = true) ∧
    (let m : List Dword := [0x0182000000000000, 0x40000000, 0, BitVec.ofNat 64 Matter.residency.code]
     let s : State := { mailed (absentPage u) 2 m with resReqs := [0x40000000] }
     s.told 2 .residency = some m ∧ BitVec.ofNat 57 (msgWord m 1) = 0x40000000 ∧
     (match walk s 0x40000000 with | .absent (some _) => true | _ => false) = true ∧ s.pageWork (s.pageBase 0x40000000) = none ∧
      walk u 0x40000000 = .absent none) := by decide +kernel

theorem witness_ErrorsSensorsAndObservation :
    errPoisons (.vreg 0 255 31) = true ∧ errPoisons (.dram 0x1000) = true ∧ (1839 : BitVec 16).toNat < 1840 ∧ 1840 ≤ (1840 : BitVec 16).toNat ∧
    (let s := u.markL2 0x407 true false
     0x407 / 8 = 0x101C / 32 ∧ (s.l2Word 0x407).valid = true ∧ (s.l2Word 0x407).dirty = false ∧ (u.l2Word 0x407).valid = false ∧
      0x406 / 2 = 0x407 / 2 ∧ isFar (4 * 0x407) = false ∧ isAperture (4 * 0x407) = false) ∧
    (let s : State := { u with samp := { ctl := 0x8000000000000000 } }
     0 < 4 ∧ u.clock.toNat % 2 ^ (s.samp.ctl.toNat / 2 ^ 58 % 32) = 0 ∧ s.nextSampler = some (0 * 4 + 0) ∧ s.sampled 0 0 = some 0 ∧ s.samp.ctl.getLsbD 63 = true ∧
      (s.samp.tail - s.samp.head).toNat ≠ 2 ^ (6 + s.samp.ctl.toNat / 2 ^ 52 % 16)) ∧
    (let s : State := { u with samp := { ctl := 0x8000000000000000, tail := 64 }, clock := 4096 }
     (s.samp.tail - s.samp.head).toNat = 2 ^ (6 + s.samp.ctl.toNat / 2 ^ 52 % 16)) ∧
    (let s : State := { u with clock := 4096, trace := [(7, { ctl := 0x8000000000000000 })] }
     (s.ring 7).ctl.getLsbD 63 = true ∧ s.clock.toNat % 4096 = 0 ∧ (s.ring 7).synced ≠ some s.clock ∧ (u.ring 7).ctl.getLsbD 63 = false) ∧
    (let s : State := { u with trace := [(7, { ctl := 0x8000000000000000, drops := 5, tail := 62 })] }
     7 < 8 ∧ (s.ring 7).ctl.getLsbD 63 = true ∧ (s.ring 7).drops ≠ 0 ∧ 2 ≤ (s.ring 7).room) := by decide +kernel

/-- `u` after bring-up. -/
def booted : State :=
  { u with bootHbm := true, bootLoaded := true, bootReady := true, begun := { err := true, hr := true, rlog := true, root := true } }
theorem witness_QueueMailboxAndWindowRegisters :
    (let n := (0x80A0000000000000 : Dword).toNat
     booted.bootReady = true ∧ booted.begun.root = true ∧ n / 2 ^ 52 % 16 ≤ 10 ∧ u.bootReady = false ∧
      ((booted.setQueue 63 { q0 with ctl := 0x8010000000000000 }).queue 63).ctl.getLsbD 63 = true) ∧
    ((u.setCtx 0 { u.ctx 0 with fused := true, queue := 63 }).fusedLive 63 = true ∧ u.fusedLive 63 = false) ∧
    (0x8000000000000000 : Dword).toNat / 2 ^ 52 % 2 ^ 11 = 0 ∧
    (let s := booted.setMail 7 { in0 := 0x5100000000000000, msgs := [] }
     s.bootLoaded = true ∧ (s.mail 7).msgs.length < 64 ∧ (s.mail 7).in0.toNat / 2 ^ 56 ≠ 0 ∧ (∀ x ∈ (s.mail 7).late, x ≤ hostSource)) ∧
    ((booted.setMail 7 { in0 := 0x0091000000000000 }).mail 7).in0.toNat / 2 ^ 56 = 0 ∧ u.bootLoaded = false ∧
    64 ≤ ((booted.setMail 0 { msgs := List.replicate 64 [] }).mail 0).msgs.length := by decide +kernel
/-- The fields of a window of eight elements of four planes that is not enabled yet, and enabled. -/
def window4 (en : Nat) : List Dword := [BitVec.ofNat 64 (en * 2 ^ 63 + 4 * 2 ^ 52 + 4 * 2 ^ 48 + 8), BitVec.ofNat 64 (2 ^ 50), 0x10000, 0]
theorem witness_QueueMailboxAndWindowRegisters_windows :
    (let s : State := { booted with fwin := [(15, window4 0)] }
     let y := (s.window 15).set 0 ((window4 1).getD 0 0)
     ((window4 1).getD 0 0).getLsbD 63 = true ∧ winOk (s.window 15) = false ∧ s.windowCause 15 y = 0 ∧
      s.windowCause 15 (y.set 2 1) = 5 ∧ ((window4 0).getD 0 0).getLsbD 63 = false) ∧
    (let s : State := { booted with fwin := [(15, window4 1)], fwinOff := [(15, true)] }
     winOk (s.window 15) = true ∧ (window4 0).getD 0 0 = ((s.window 15).getD 0 0) &&& ~~~(BitVec.twoPow 64 63) ∧
      s.fwinOff.look 15 false = true) ∧
    ((u.mast 255).ring = [] ∧ u.ringOk 0x8000000000800000 = true ∧ u.ringOk 0x8000000000000080 = false ∧
      ((u.setMast 255 { ring := [6] }).mast 255).ring ≠ []) ∧
    ((0x1000 : Dword).toNat / 2 ^ 52 % 2 ^ 11 = 0 ∧ (0x1000 : Dword).toNat % 8 = 0) := by decide +kernel

theorem witness_PackageRegistersAndBringUp :
    (booted.bootReady = true ∧ (0x80C0000000001000 : Dword).toNat / 2 ^ 52 % 16 ≤ 12 ∧ (0x80C0000000001000 : Dword).toNat % 2 ^ 12 = 0) ∧
    (let s : State := { State.reset with bootReady := true, begun := { err := true, hr := true, rlog := true } }
     s.bootReady = true ∧ s.begun.err = true ∧ s.begun.hr = true ∧ s.begun.rlog = true ∧ (∀ k < 256, s.mastStat k % 2 ^ 54 = 0) ∧ s.liveCtxs = [] ∧ booted.liveCtxs ≠ []) ∧
    ((0x4009000000000000 : Dword).getLsbD 62 = true ∧ (0x4009000000000000 : Dword).toNat / 2 ^ 48 % 256 ≤ 9) ∧
    ((0x80A0000000001000 : Dword).toNat / 2 ^ 52 % 16 ≤ 10 ∧ (u.ring 7).ctl.getLsbD 63 = false ∧ (u.ring 7).drops = 0 ∧
      { u.ring 7 with ctl := 0x80A0000000001000 }.room ≠ 0) ∧
    (regAt 0x1000 = none ∧ regAt 0xFFFFFFF8 = none) ∧
    (u.powerCause 7 0xF3C = 0 ∧ u.powerCause 7 0xF3D ≠ 0) ∧ u.bar2Ok 0xBFFFFFFFFF 1 = true ∧ u.bar2Ok 0xC000000000 1 = false ∧
    ((3 : Nat) < 4 ∧ (7 : Nat) % 8 ≠ 0) ∧
    (let s : State := { u with bootHbm := true }
     s.bootHbm = true ∧ s.ptroot.getLsbD 63 = false ∧ Memory.wf s.mem = true ∧ s.bootLoaded = false ∧ u.bootHbm = false) := by decide +kernel
theorem witness_PackageRegistersAndBringUp_ready :
    (let s : State := { State.reset with bootHbm := true, bootLoaded := true }
     let rings := (List.range 256).map fun k => (BitVec.ofNat 64 (2 ^ 63 + k * 0x800000) : Dword)
     s.bootLoaded = true ∧ s.bootReady = false ∧ rings.length = 256 ∧ rings.all (fun x => x.getLsbD 63 && s.ringOk x) = true) ∧
    (let m : List Dword := [0x6190000000000000, 0x10000, 0, 0]
     (mailed booted 5 m).message 5 0x61 = some m ∧ msgWord m 1 % 1024 = 0 ∧ (mailed booted 5 m).physOk (msgWord m 1) 1024 = true) := by
  decide +kernel

theorem witness_FaultsArePrecise : (halted u).g.halted = true ∧ u.g.halted = false ∧ isMast u.cur = false ∧ ({ cls := 0x0E } : FaultInfo).badEntries = [] ∧ u.g.ended = false ∧ u.g.fault = none ∧
    ({ cls := 0x0E } : FaultInfo).next = false ∧ u.err.ctl.getLsbD 63 = false ∧ ({ cls := 0x01 } : FaultInfo).cls = 0x01 := by decide +kernel

/-- A slot at a well-formed word, at one whose operands R66 refuses, and at one that names nothing; and a slot that may not issue. -/
theorem witness_StepRunsTheDecodedWord :
    (u.agenda = [] ∧ u.slotReady u.cur u.curSlot = true ∧ u.turnOf u.cur u.curSlot = true ∧ u.breakDue u.cur u.curSlot = none ∧ u.sl.word? = some 0x9C000000 ∧
      decode 0x9C000000 = some .nop ∧ Instr.WellFormed .nop) ∧
    ((State.reset.placeWord 0xA8000004).sl.word? = some 0xA8000004 ∧ decode 0xA8000004 = some (.bar 4) ∧ ¬ Instr.WellFormed (.bar 4)) ∧
    decode 0 = none ∧ (halted u).slotReady (halted u).cur (halted u).curSlot = false ∧
    (let s : State := { fetching 0x0000FF00 [0x9C000000] with bpaddr := [(3, 0x8000000040000000)] }
     s.slotReady s.cur s.curSlot = true ∧ s.turnOf s.cur s.curSlot = true ∧ s.sl.word? = none) ∧
    (let s := onG ({ u with bpaddr := [(3, 0x8000000000000000)] } : State) fun g => { g with passBp := [] }
     s.slotReady s.cur s.curSlot = true ∧ s.turnOf s.cur s.curSlot = true ∧ s.breakDue s.cur s.curSlot ≠ none) ∧
    isEvent (.fileMoveStart 0) = true ∧ fromOutside (.fileMoveStart 0) = false ∧ fromOutside (.linkUp 15) = true ∧ isEvent (.linkUp 15) = true ∧
    u.emerg = false ∧ ({ u with emerg := true } : State).emerg = true := by
  unfold Instr.WellFormed; decide +kernel
theorem witness_DecodeInvertsEncode : encode (.iadd 255 255 255) = some 0x04FFFFFF := by decide
theorem witness_EveryStepKeepsMemoryCanonical : u.Inv ∧ (imaged u).Inv ∧ next (step u) false (fun t => t.sl.pc = 4) = true := by
  unfold State.Inv; decide +kernel

/-- The words of the spec's encoding tables (R108's chapter, R140, R166, R197). -/
theorem test_words_lanes :
    isWord 0x04050607 (.iadd 5 6 7) ∧ isWord 0x080506FF (.iaddImm 5 6 0xFF) ∧ isWord 0x1C030304 (.shlImm 3 3 4) ∧
    isWord 0x26020A05 (.sel 2 10 5) ∧ isWord 0x30230405 (.icmp .lt 3 4 5) ∧ isWord 0x32610203 (.fcmp .un 1 2 3) ∧
    isWord 0x47080102 (.fma 8 1 2) ∧ isWord 0x55040400 (.cvt 4 4) ∧ isWord 0x34030342 (.sadd 3 3 0x42) ∧
    isWord 0x610A0A10 (.shflImm .xor 10 10 16) ∧ isWord 0x66040202 (.vote 4 2 2) ∧ isWord 0x70040102 (.pand 4 1 2) ∧
    isWord 0x79410203 (.kld 1 2 3) ∧ isWord 0x78450700 (.kmov 5 7) ∧ isWord 0x2F09FFF8 (.movi 9 0xFFFE) ∧
    isWord 0x40030191 (.saddImm 3 100) := by decide +kernel
theorem test_words_control :
    isWord 0x800FFFFD (.br 0xFFFFD) ∧ isWord 0x84300005 (.brc .ge 5) ∧ isWord 0x88200003 (.brz 2 3) ∧ isWord 0x8C200003 (.brnz 2 3) ∧
    isWord 0x90000040 (.call 64) ∧ isWord 0x94100004 (.fork 1 4) ∧ isWord 0x98300002 (.yieldc 3 2) ∧ isWord 0x9F000000 .join ∧
    isWord 0xA0003E00 (.ret 62) ∧ isWord 0xA400001C (.trap 7) ∧ isWord 0xAA000004 (.reggrow 4) ∧ isWord 0x7C040004 (.sread 4 1) ∧
    isWord 0x7C090029 (.swrite 9 0x0A) ∧ isWord 0xA1000500 (.setmode 5) ∧ isWord 0xA4000005 (.brk 1) ∧ isWord 0xA9000001 (.cbar 1) ∧
    isWord 0xAB000002 (.regshrink 2) := by decide +kernel
theorem test_words_units :
    isWord 0xADB04409 (.ld .d .dword 4 2 (.vec 9)) ∧ isWord 0xB0003302 (.st .g .byte 3 1 (.step 2)) ∧
    isWord 0xB4310002 (.ldn .g 3 16 0 (.vec 2)) ∧ isWord 0xB8908701 (.stn .t 1 8 3 (.step 1)) ∧
    isWord 0xBDA05206 (.ldp .p3 .word 5 1 (.vec 6)) ∧ isWord 0xC23C0A0C (.atom .s .cas 4 10 12) ∧
    isWord 0xC5030708 (.atomr .c .add 3 7 8) ∧ isWord 0xC8000409 (.preq 2 (.vec 9)) ∧ isWord 0xC8100104 (.pref 0 (.step 4)) ∧
    isWord 0xC8200204 (.rcmark 1 (.vec 4)) ∧ isWord 0xC9C00000 (.fenceRel .d) ∧ isWord 0xC9B00000 (.fenceAcq .d) ∧
    isWord 0xCA500000 (.fenceAr .s) ∧ isWord 0xCD000600 (.publish 6) ∧ isWord 0xCE030000 (.xrel 3) := by decide +kernel
theorem test_words_matrix_copy_ship :
    isWord 0xD0000203 (.mma 0 0 2 3) ∧ isWord 0xD4050C00 (.mmaq 5 12) ∧ isWord 0xD5050C02 (.mmaqs 5 12 2) ∧ isWord 0xD7000002 (.adiscard 2) ∧
    isWord 0xD8070000 (.azero 7) ∧ isWord 0xD9140503 (.amov 20 5 3) ∧ isWord 0xDA150500 (.acvt 21 5 0) ∧
    isWord 0xDE200405 (.cpy .b16 1 0 4 5) ∧ isWord 0xE04C0608 (.cpg 2 3 6 8) ∧ isWord 0xE404010A (.cpt 4 1 10) ∧
    isWord 0xE505040B (.cpq 5 4 11) ∧ isWord 0xE9000001 (.cpwaitVis 1) ∧ isWord 0xEA030005 (.cptest 3 5) ∧
    isWord 0xEB030003 (.seal 3 3) ∧ isWord 0xED001400 (.lzclose 20) ∧ isWord 0xEF181419 (.lzstat 24 20 25) ∧
    isWord 0xF1001419 (.lzfree 20 25) ∧ isWord 0xF6164604 (.cpl .b16 22 2 3 4) ∧ isWord 0xF8081420 (.shipW 8 20 1) ∧
    isWord 0xF908142C (.shipT 8 20 1 3) ∧ isWord 0xFD020003 (.testk 2 3) := by decide +kernel

/-- Words that R66 refuses: no instruction at opcode 0x00, a size code above 4, a field that must be zero, and a table row of 16 bits. -/
theorem test_words_refused :
    decode 0x00000000 = none ∧ decode 0xAC501100 = none ∧ decode 0x9C000001 = none ∧ decodeTableWord 16 0x0405 = none ∧
    decodeTableWord 32 0x04050607 = some (.iadd 5 6 7) ∧
    (decodeBytes [0x07, 0x06, 0x05, 0x04, 0xFF]).toOption = some (.iadd 5 6 7, [0xFF]) ∧ (decodeBytes [0x07, 0x06, 0x05]).toOption = none := by
  decide +kernel

/-- One ill-formed term for each check of `operandBitsOk`: every one is refused. -/
theorem smoke_illFormed : [
    Instr.sel 1 255 1, .bcast 1 1 32, .shflImm .idx 1 1 32, .vote 1 1 3, .sread 1 0x0E, .swrite 1 0x09, .swrite 1 0x0E, .trap 0x8000,
    .brk 0x8000, .modef .guard 16, .modef .dtype 32, .modef .rnd 8, .modef .sat 2, .modef .fin 0xFFFF, .bar 4, .cbar 4, .reggrow 0,
    .reggrow 33, .regshrink 0, .regshrink 33, .ld .g .quad 253 0 (.step 0), .st .g .dword 255 0 (.step 0), .ldp .p1 .quad 254 0 (.step 0),
    .ldn .g 7 249 0 (.step 0), .ldn .g 3 8 0 (.vec 8), .ldn .g 3 8 0 (.vec 11), .stn .g 1 255 0 (.step 0)].all
      (fun i => !operandBitsOk i) = true := by decide +kernel
theorem smoke_illFormed_matrix_copy : [
    Instr.mmaqs 0 0 8, .acommit 8, .adiscard 8, .amov 0 0 32, .acvt 0 0 32, .cpg 0 0 0 255, .cpwaitSrc 16, .cpwaitVis 16, .cptest 0 16,
    .seal 0 5, .cpl .b4 0 0 12 0, .cpl .b4 0 0 0 255, .cpl .b4 63 0 1 0, .waitk 8, .testk 1 8].all
      (fun i => !operandBitsOk i) = true := by decide +kernel

/-- The host's two questions, on one word: the decoder names it, and `step` runs it as the first instruction after reset. -/
theorem test_step_runs_placed_word :
    next (step (State.reset.withFetchWord 32 0x2F09FFF8)) 0 (fun t => (t.g.getV 9 31).val) = 0xFFFFFFFE := by decide +kernel

/-- R139's example: index 5 of eight groups, 4 vector granules and 1 uniform granule. -/
theorem test_ginfo :
    let s := onG u fun g => { g with gindex := 5, vgran := 4 }
    let s := s.setTeam 0 { s.tm with kgran := 1 }
    (s.setCtx 0 { s.ctx 0 with kernel := { (s.ctx 0).kernel with groups := 8 } }).sysReg 1 = 0x0000000401000705 := by decide +kernel

/-- R53's example: 0x3E99_999A to `e4m3` under nearest-even and toward zero. -/
theorem test_pack_e4m3 :
    ([0x05A00000, 0x05A08000].map fun m =>
      (next (exec (.pack 8 1 0) (withV (withGm u m) [(1, 0, 0x3E99999A)])) 0 fun t => (t.g.getV 8 0).val.setWidth 8)) =
      [(0x2A : BitVec 8), 0x29] := by decide +kernel
/-- R52's example: the generator after one draw. -/
theorem test_next_rand : nextRand 1 = 0x00042021 := by decide +kernel

/-- R58's example: one block of `e4m3` by `e2m1`, scaled by 2. -/
theorem test_matrix_block :
    floatBlock .e4m3 .e2m1 0x3DCCCCCD ([(0x3C, false), (0xB0, false)], (0x7F, false)) ([(0x7, false), (0x4, false)], (0x80, false)) =
      0x4180CCCD := by decide +kernel
/-- R173's example of an operand block. -/
theorem test_operand_block :
    (matBlock 2 [0x5BC0103004000000, 0, 0, 0]).map (fun b => (b.ta, b.tb, b.atile, b.btile)) = some (.e4m3, .e2m1, 0, 1) ∧
    (matBlock 2 [0x5BC0103004000000, 0, 0, 0]).map (fun b => (b.shift, b.ascale, b.bscale, b.kblk)) = some (0, some 0, some 0, 4) := by
  decide +kernel
/-- R185's example: a block whose largest magnitude is 3.0 into `e2m1`. -/
theorem test_requantise :
    let r := cpqBlock 0x07800000 .e2m1 true ((List.range 32).map fun i => (decodeNum .e4m3 false (if i = 9 then 0x44 else 0), false)) 0 []
    (r.1.getD 9 (0, true), r.2.1) = ((0x7, false), ((0x7E : Byte), false)) := by decide +kernel

/-- The examples of R228 and R285. -/
theorem test_homes : homeDie 0x8A80 = 4 ∧ homeOf 0x123456780 = 1 ∧ homeOf 0x80 = 1 := by decide +kernel

/-- R161's example: three lanes compare and swap one word. -/
def casState : State :=
  let s := withV (onS (withGm uview 0x01000000) fun x => { x with mask := 0x52 })
    [(10, 1, 5), (11, 1, 9), (10, 4, 5), (11, 4, 7), (10, 6, 9), (11, 6, 11)]
  s.putBytes 0x40000000 [5, 0, 0, 0]
theorem test_atomr_cas :
    let t := nx (exec (.atomr .d .cas 0 10 4) casState)
    let r := nx (exec (.atomrReturn 0 (t.nextId - 1)) t)
    ([1, 4, 6].map fun l => (r.g.getV 10 l).val) = [5, 9, 9] ∧ memRead r.mem 0x40000000 = 0x0B := by decide +kernel

/-- R122's example, `FORK p1, small` at 0x40000 with the other slot FREE. -/
def absDiff : State :=
  let s := forked
  onS s fun x => { x with mask := all }
theorem test_fork_two_slots :
    let t := nx (exec (.fork 1 6) absDiff)
    (t.sl.mask, t.sl.pc) = (0xFFFFFF00, absDiff.sl.pc + 4) ∧ (t.other.mask, t.other.pc) = (0x000000FF, absDiff.sl.header + 24) := by
  decide +kernel

/-- The check value that CRC-64/XZ is published with, of the bytes of "123456789" (R398). -/
theorem test_crc64_check_value : crc64 [0x31, 0x32, 0x33, 0x34, 0x35, 0x36, 0x37, 0x38, 0x39] = 0x995DC9BBDF1939FA := by decide +kernel

/-- R149: where the blocks of two lanes of an `STN` overlap, the highest lane's value stands. -/
theorem test_stn_highest_lane_wins :
    let s := withV (onS uview fun x => { x with mask := 3 })
      [(1, 0, 0), (1, 1, 4), (8, 0, 0x11), (9, 0, 0x22), (8, 1, 0x33), (9, 1, 0x44)]
    let t := nx (exec (.stn .d 1 8 0 (.vec 1)) s)
    ([0, 4, 8].map fun o => memRead t.mem (0x40000000 + o)) = [0x11, 0x33, 0x44] := by decide +kernel

/-- R80, R107: with no active lane a poisoned predicate is not read. -/
theorem test_mbcnt_no_lane :
    let s := onG (withGm u 0x14200000) fun g => { g with p := g.p.put 5 { poison := true } }
    next (exec (.mbcnt 44 5) s) false (fun t => t.g.fault = none) = true ∧
    next (exec (.mbcnt 44 5) (withGm s 0x04200000)) false (fun t => t.g.fault = none) = false := by decide +kernel

/-- R124, R208: a slot that has issued `YIELD` issues again only after the scheduler's other ready group. -/
theorem test_yield_rotates :
    let s := State.reset.placeWord 0x9E000000
    let s := s.setGroup 4 s.g
    next (step s) false (fun t => !t.turnOf 0 .A && t.turnOf 4 .A) = true := by decide +kernel

end Sys2Proof.Tests
end

/-! Integers fitted to a type (R41, R49): wrapping is the residue modulo `2 ^ width` that lies in the type's range. -/

section IntegerResults

namespace Sys2Proof.Machine

open Sys2Proof

theorem wrapTo_cast (n : Nat) (z : Int) : (wrapTo n z : Int) = z % (2 ^ n : Nat) :=
  Int.toNat_of_nonneg (Int.emod_nonneg z (Int.natCast_ne_zero.2 (Nat.ne_of_gt (Nat.two_pow_pos n))))

theorem wrapTo_lt (n : Nat) (z : Int) : wrapTo n z < 2 ^ n := by
  have h := Int.emod_lt_of_pos z (Int.natCast_pos.2 (Nat.two_pow_pos n))
  rw [← wrapTo_cast] at h
  exact Int.ofNat_lt.1 h

theorem tyWidth_pos (T : Ty) : 0 < tyWidth T := by cases T <;> decide

theorem two_pow_tyWidth (T : Ty) : 2 ^ tyWidth T = 2 ^ (tyWidth T - 1) * 2 :=
  (Nat.two_pow_pred_mul_two (tyWidth_pos T)).symm

/-- Read as a two's complement number, a wrapped integer is its balanced residue. -/
theorem signedOf_wrapTo (T : Ty) (z : Int) : signedOf (tyWidth T) (wrapTo (tyWidth T) z) = z.bmod (2 ^ tyWidth T) := by
  have hlt := wrapTo_lt (tyWidth T) z
  have hw := two_pow_tyWidth T
  rw [Int.bmod_def, ← wrapTo_cast]
  simp only [signedOf, Nat.mod_eq_of_lt hlt, if_neg (Nat.ne_of_gt (tyWidth_pos T))]
  split <;> split <;> omega

/-- The integer that a wrapped element denotes, for s types and the others. -/
theorem intOf_wrapTo (T : Ty) (z : Int) :
    intOf T (wrapTo (tyWidth T) z) = if tyS T then z.bmod (2 ^ tyWidth T) else z % (2 ^ tyWidth T : Nat) := by
  unfold intOf
  rw [signedOf_wrapTo, Nat.mod_eq_of_lt (wrapTo_lt _ _), wrapTo_cast]

theorem intOf_wrapTo_range (T : Ty) (z : Int) :
    intMin T ≤ intOf T (wrapTo (tyWidth T) z) ∧ intOf T (wrapTo (tyWidth T) z) ≤ intMax T := by
  have hpos := Nat.two_pow_pos (tyWidth T)
  have hw := two_pow_tyWidth T
  rw [intOf_wrapTo]
  unfold intMin intMax
  split
  · have hlo := Int.le_bmod (x := z) hpos
    have hhi := Int.bmod_lt (x := z) hpos
    omega
  · have hlo := Int.emod_nonneg z (b := (2 ^ tyWidth T : Nat)) (by omega)
    have hhi := Int.emod_lt_of_pos z (b := (2 ^ tyWidth T : Nat)) (by omega)
    omega

theorem dvd_intOf_wrapTo_sub (T : Ty) (z : Int) : ((2 ^ tyWidth T : Nat) : Int) ∣ intOf T (wrapTo (tyWidth T) z) - z := by
  rw [intOf_wrapTo]
  split
  · exact Int.dvd_bmod_sub_self
  · exact Int.dvd_emod_sub_self

/-- An integer in the type's range survives wrapping. -/
theorem intOf_wrapTo_of_range (T : Ty) (z : Int) (hlo : intMin T ≤ z) (hhi : z ≤ intMax T) :
    intOf T (wrapTo (tyWidth T) z) = z := by
  have hw := two_pow_tyWidth T
  rw [intOf_wrapTo]
  unfold intMin at hlo
  unfold intMax at hhi
  split <;> rename_i hs <;> simp only [hs, if_true, if_false, Bool.false_eq_true] at hlo hhi
  · exact Int.bmod_eq_of_le (by omega) (by omega)
  · exact Int.emod_eq_of_lt hlo (by omega)

theorem intMin_le_intMax (T : Ty) : intMin T ≤ intMax T :=
  Int.le_trans (intOf_wrapTo_range T 0).1 (intOf_wrapTo_range T 0).2

theorem clampInt_eq (T : Ty) (z : Int) : clampInt T z = max (intMin T) (min (intMax T) z) := by
  have h := intMin_le_intMax T
  unfold clampInt
  split
  · omega
  · split <;> omega

/-- Under sat = 1 the element denotes the clamped integer. -/
theorem intOf_fitInt_sat (T : Ty) (z : Int) : intOf T (fitInt T true z) = max (intMin T) (min (intMax T) z) := by
  have h := intMin_le_intMax T
  unfold fitInt
  rw [if_pos rfl, clampInt_eq]
  exact intOf_wrapTo_of_range T _ (by omega) (by omega)

/-- Settles O2: a clamped integer survives the wrap, and the wrap picks the residue in the type's range. -/
theorem integerResultsFit : Obligations.IntegerResultsFit := by
  intro T z _ w lo hi
  have hmin : lo = intMin T := by simp [lo, w, intMin]
  have hmax : hi = intMax T := by simp [hi, w, intMax]
  obtain ⟨hlo, hhi⟩ := intOf_wrapTo_range T z
  rw [hmin, hmax]
  exact ⟨intOf_fitInt_sat T z, hlo, hhi, by exact_mod_cast dvd_intOf_wrapTo_sub T z⟩

end Sys2Proof.Machine

end IntegerResults

/-! Special values of the approximated functions (R44, R96): the operands decode to zeros and infinities, and the results
that R96 names encode to zeros, ones and infinities. -/

section SpecialValues

namespace Sys2Proof.Machine

open Sys2Proof

@[simp] theorem withSign_false (T : Ty) (x : Nat) : withSign T false x = x := by simp [withSign, oneIf]

theorem encodeNum_zero (T : Ty) (sat fout : Bool) (mode : Nat) (neg : Bool) (e : Int) :
    encodeNum T sat fout mode (.fin neg 0 e) = withSign T neg 0 := rfl

section VectorFormats

variable {T : Ty} (hT : T = .f32 ∨ T = .f16 ∨ T = .bf16)
include hT

theorem withSign_true (x : Nat) : withSign T true x = 2 ^ (tyWidth T - 1) + x := by
  have hw : mbits T + ebits T = tyWidth T - 1 := by rcases hT with rfl | rfl | rfl <;> rfl
  simp [withSign, oneIf, hw, Nat.add_comm]

theorem decodeNum_signed_zero (neg : Bool) : ∃ e, decodeNum T false (withSign T neg 0) = .fin neg 0 e := by
  rcases hT with rfl | rfl | rfl <;> cases neg <;> exact ⟨_, rfl⟩

theorem decodeNum_signed_inf (neg : Bool) : decodeNum T false (withSign T neg (infBits T)) = .inf neg := by
  rcases hT with rfl | rfl | rfl <;> cases neg <;> rfl

theorem encodeNum_inf (neg : Bool) : encodeNum T false false 0 (.inf neg) = withSign T neg (infBits T) := by
  rcases hT with rfl | rfl | rfl <;> rfl

theorem encodeNum_one (neg : Bool) : encodeNum T false false 0 (.fin neg 1 0) = withSign T neg (bias T * 2 ^ mbits T) := by
  rcases hT with rfl | rfl | rfl <;> cases neg <;> decide

end VectorFormats

/-- Settles O10: each row of R96's table at the operand that decodes to a NaN, an infinity, a zero or a number below zero. -/
theorem approximationSpecialValues : Obligations.ApproximationSpecialValues := by
  intro T gm x hT hfout hfin hsat inf sgn one f
  have hneg : ∀ y, withSign T true y = sgn + y := withSign_true hT
  obtain ⟨e₀, dzero⟩ := decodeNum_signed_zero hT false
  obtain ⟨e₁, dnzero⟩ := decodeNum_signed_zero hT true
  have dinf : decodeNum T false (withSign T false inf) = .inf false := decodeNum_signed_inf hT false
  have dninf : decodeNum T false (withSign T true inf) = .inf true := decodeNum_signed_inf hT true
  have einf : ∀ neg, encodeNum T false false 0 (.inf neg) = withSign T neg inf := encodeNum_inf hT
  have eone : ∀ neg, encodeNum T false false 0 (.fin neg 1 0) = withSign T neg one := encodeNum_one hT
  simp only [withSign_false, hneg, Nat.add_zero] at dzero dnzero dinf dninf
  simp only [f, approxElem, hfout, hfin, hsat]
  refine ⟨fun hx fn => ?nan, ?rcp, ?rsq, ?sqrt, ?exp2, ?log2, ?sin, ?cos, ?tanh, fun m e hx hm => ?negative, fun m e hx hm => ?root⟩
  case nan => rw [hx]
  case negative => simp [hx, hm]
  case root => simp [hx, hm, gmRnd]
  case rcp | rsq | sqrt | exp2 | log2 | sin | cos | tanh =>
    simp [dzero, dnzero, dinf, dninf, einf, eone, encodeNum_zero, hneg]

end Sys2Proof.Machine

end SpecialValues

/-! Conversions (R97, R98): each active lane writes its word of `v[d]` and its own generator, from the group as it was. -/

section Conversions

namespace Sys2Proof.Machine

open Sys2Proof

/-- A lane's word of `v[d]` and its generator written, as a conversion does it. -/
def Group.putConverted (d : Nat) (c : Nat → Word × Word) (g : Group) (l : Nat) : Group :=
  { g.setV d l { val := (c l).1 } with rng := g.rng.put l (c l).2 }

theorem Group.getV_putConverted (d : Nat) (c : Nat → Word × Word) (g : Group) (r k l : Nat) (hk : k < 32) (hl : l < 32) :
    (g.putConverted d c k).getV r l = if r = d ∧ l = k then { val := (c l).1 } else g.getV r l := by
  refine (g.getV_setV d k r l _ hk hl).trans ?_
  split
  · next h => rw [h.2]
  · rfl

theorem Group.rng_putConverted (d : Nat) (c : Nat → Word × Word) (g : Group) (k l : Nat) :
    (g.putConverted d c k).rng.look l 0 = if l = k then (c l).2 else g.rng.look l 0 := by
  refine (g.rng.look_put_eq k l _ 0).trans ?_
  split
  · next h => rw [h]
  · rfl

/-- Only the vector registers and the generators differ after any number of lanes. -/
theorem Group.foldl_putConverted_eq (d : Nat) (c : Nat → Word × Word) (ls : List Nat) (g : Group) :
    ls.foldl (Group.putConverted d c) g =
      { g with v := (ls.foldl (Group.putConverted d c) g).v, rng := (ls.foldl (Group.putConverted d c) g).rng } := by
  induction ls generalizing g with
  | nil => rfl
  | cons k ls ih => exact ih (g.putConverted d c k)

theorem Group.getV_foldl_putConverted (d : Nat) (c : Nat → Word × Word) (ls : List Nat) (hls : ∀ k ∈ ls, k < 32) (g : Group)
    (r l : Nat) (hl : l < 32) :
    (ls.foldl (Group.putConverted d c) g).getV r l = if r = d ∧ l ∈ ls then { val := (c l).1 } else g.getV r l := by
  induction ls generalizing g with
  | nil => simp
  | cons k ls ih =>
    obtain ⟨hk, hrest⟩ := List.forall_mem_cons.1 hls
    rw [List.foldl_cons, ih hrest, g.getV_putConverted d c r k l hk hl]
    by_cases hr : r = d <;> by_cases hm : l ∈ ls <;> simp [hr, hm]

theorem Group.rng_foldl_putConverted (d : Nat) (c : Nat → Word × Word) (ls : List Nat) (g : Group) (l : Nat) :
    (ls.foldl (Group.putConverted d c) g).rng.look l 0 = if l ∈ ls then (c l).2 else g.rng.look l 0 := by
  induction ls generalizing g with
  | nil => simp
  | cons k ls ih =>
    rw [List.foldl_cons, ih, g.rng_putConverted]
    by_cases hm : l ∈ ls <;> simp [hm]

theorem vecStype_ok (s : State) (S : Ty) (h : tyOf (gmStype s.sl.gm) = some S) (h64 : ty64 S = false) :
    vecStype s.sl.gm = .ok S := by
  simp [vecStype, h, h64]

/-- What a conversion computes in a lane: the word and the generator after its draws. -/
def State.converted (s : State) (S T : Ty) (d a : BitVec 8) (keep stoch : Bool) (ps : List (Nat × Nat)) (l : Nat) : Word × Word :=
  cvtElems S T s.sl.gm stoch (s.vw a l) ps (if keep then s.vw d l else 0) (s.g.rng.look l 0)

/-- The group after a conversion in the lanes of `act`. -/
def State.convertedGroup (s : State) (act : Word) (S T : Ty) (d a : BitVec 8) (keep stoch : Bool) (ps : List (Nat × Nat)) : Group :=
  (lanesOf act).foldl (Group.putConverted d.toNat (s.converted S T d a keep stoch ps)) s.g

/-- A converting instruction whose operands meet its conditions completes with the converted group. -/
theorem convertInstr_ok (s : State) (act : Word) (S T : Ty) (d a : BitVec 8) (keep : Ty → Ty → Bool) (stoch : Bool)
    (pairs : Ty → Ty → Chk (List (Nat × Nat))) (ps : List (Nat × Nat)) (ha : Lanes s act) (hT : HasDtype s T)
    (hS : tyOf (gmStype s.sl.gm) = some S) (h64 : ty64 S = false) (ho : Owned s [d.toNat, a.toNat])
    (hc : Clean s act [a.toNat]) (hk : keep S T = true → Clean s act [d.toNat]) (hp : pairs S T = .ok ps) :
    convertInstr s d a keep stoch pairs = .next (s.setG (s.convertedGroup act S T d a (keep S T) stoch ps)).advance := by
  have hclean : checkPoison s.g act (if keep S T then [a.toNat, d.toNat] else [a.toNat]) = .ok () := by
    refine checkPoison_clean s act _ ?_
    split
    · next h => exact List.forall_mem_cons.2 ⟨hc _ (by simp), hk h⟩
    · exact hc
  have hvok : (s.g.vOk d.toNat && s.g.vOk a.toNat) = true := by simpa using owned_all s _ ho
  refine issueG_ok _ _ _ ?_
  simp only [mode_lanes s act ha, hvok, need_true, vecDtype_ok s T hT, vecStype_ok s S hS h64, hp,
    active_lanes s act ha, hclean, Bind.bind, Except.bind]
  rfl

/-- Completing with the converted group changes the words of `v[d]` and the generators of the active lanes, and nothing else. -/
theorem exists_writes_of_convertedGroup {s : State} {o : Out} {act : Word} {S T : Ty} {d a : BitVec 8} {keep stoch : Bool}
    {ps : List (Nat × Nat)} (h : o = .next (s.setG (s.convertedGroup act S T d a keep stoch ps)).advance) :
    ∃ v rng, o = .next (s.setG { s.g with v := v, rng := rng }).advance ∧
      ∀ r l, l < 32 →
        v.look (r * 32 + l) {} = (if r = d.toNat ∧ act.getLsbD l = true
          then { val := (s.converted S T d a keep stoch ps l).1 } else s.g.getV r l) ∧
        rng.look l 0 = if act.getLsbD l = true then (s.converted S T d a keep stoch ps l).2 else s.g.rng.look l 0 := by
  let g := s.convertedGroup act S T d a keep stoch ps
  have hlanes : ∀ k ∈ lanesOf act, k < 32 := fun k hk => ((mem_lanesOf act k).1 hk).1
  have hg : g = { s.g with v := g.v, rng := g.rng } := Group.foldl_putConverted_eq ..
  refine ⟨g.v, g.rng, by rw [h, ← hg], fun r l hl => ⟨?_, ?_⟩⟩
  · refine (Group.getV_foldl_putConverted _ _ _ hlanes s.g r l hl).trans ?_
    simp [mem_lanesOf, hl]
  · refine (Group.rng_foldl_putConverted ..).trans ?_
    simp [mem_lanesOf, hl]

/-- Settles O11: the three instructions are `convertInstr` with their element pairs, whose positions exist. -/
theorem conversionsOfElements : Obligations.ConversionsOfElements := by
  intro s act S T d a i ha hT ⟨hS, h64⟩ ho hc converts
  refine ⟨?cvt, fun hpos hk => ?pack, fun hpos => ?unpack⟩
  case cvt => exact exists_writes_of_convertedGroup (convertInstr_ok s act S T d a _ true _ _ ha hT hS h64 ho hc (by simp) rfl)
  case pack =>
    have hcount : tyCount S ≤ tyCount T := Nat.le_trans (Nat.le_mul_of_pos_left _ i.toNat.succ_pos) hpos
    exact exists_writes_of_convertedGroup (convertInstr_ok s act S T d a _ true _ _ ha hT hS h64 ho hc (by simpa using hk)
      (by simp [need, hcount, hpos, Bind.bind, Except.bind]))
  case unpack =>
    have hcount : tyCount T ≤ tyCount S := Nat.le_trans (Nat.le_mul_of_pos_left _ i.toNat.succ_pos) hpos
    exact exists_writes_of_convertedGroup (convertInstr_ok s act S T d a _ false _ _ ha hT hS h64 ho hc (by simp)
      (by simp [need, hcount, hpos, Bind.bind, Except.bind]))

end Sys2Proof.Machine

end Conversions

/-! Atomic operations (R64, R158): the new value of a unit by type, and the table of the operations that a type accepts. -/

section AtomicValues

namespace Sys2Proof.Machine

open Sys2Proof

/-! The integer types. -/

/-- R158's integer types: the unit of an atomic holds one value of the type. -/
theorem tyWidth_eq_eight_mul_atomWidth {T : Ty} (h : T = .s32 ∨ T = .n32 ∨ T = .s64 ∨ T = .n64) : tyWidth T = 8 * atomWidth T := by
  obtain rfl | rfl | rfl | rfl := h <;> decide

theorem atomNew_add_of_ne_f32 {T : Ty} (h : T ≠ .f32) (old y c : Nat) :
    atomNew .add T old y c = (old + y) % 2 ^ (8 * atomWidth T) := if_neg h

theorem intOf_atomNew_min {T : Ty} (h : T ≠ .f32) (old y c : Nat) :
    intOf T (atomNew .min T old y c) = min (intOf T old) (intOf T y) := by
  have hmin : atomNew .min T old y c = if intOf T old ≤ intOf T y then old else y := if_neg h
  rw [hmin, apply_ite (intOf T)]
  exact (Int.min_def _ _).symm

theorem intOf_atomNew_max {T : Ty} (h : T ≠ .f32) (old y c : Nat) :
    intOf T (atomNew .max T old y c) = max (intOf T old) (intOf T y) := by
  have hmax : atomNew .max T old y c = if intOf T old ≤ intOf T y then y else old := if_neg h
  rw [hmax, apply_ite (intOf T)]
  exact (Int.max_def _ _).symm

/-! The operations that R158's table accepts. -/

theorem atomTy_of_ne_f32 {m : Word} {T : Ty} (hm : tyOf (gmDtype m) = some T) (h : T ≠ .f32) (op : AtomOp) :
    atomTy m op = if T = .s32 ∨ T = .n32 ∨ T = .s64 ∨ T = .n64 then some T else none := by
  unfold atomTy
  split
  next hf => exact absurd (Option.some.inj (hm.symm.trans hf)) h
  next t _ ht =>
    obtain rfl : T = t := Option.some.inj (hm.symm.trans ht)
    simp [or_assoc]
  next hn => simp [hm] at hn

theorem atomTy_f32 {m : Word} (hm : tyOf (gmDtype m) = some .f32) (op : AtomOp) :
    atomTy m op = if op = .and ∨ op = .or ∨ op = .xor then none else some .f32 := by
  cases op <;> simp [atomTy, hm]

/-- Settles O24: for an integer type the branches of `atomNew` are the claims, up to the unit's width and the order
of the values that MIN and MAX compare; the refusals are R158's table. -/
theorem atomicOperations : Obligations.AtomicOperations := by
  intro T old y c hT w _ _
  have hw : w = 8 * atomWidth T := tyWidth_eq_eight_mul_atomWidth hT
  have hf : T ≠ .f32 := by rintro rfl; simp at hT
  refine ⟨hw, hw ▸ atomNew_add_of_ne_f32 hf old y c, rfl, rfl, rfl, rfl, intOf_atomNew_min hf old y c,
    intOf_atomNew_max hf old y c, rfl, fun m op hm => (atomTy_of_ne_f32 hm hf op).trans (if_pos hT),
    rfl, rfl, rfl, rfl, rfl, fun m U hm => ⟨?float, ?other⟩⟩
  case float =>
    rintro rfl
    simp +contextual [atomTy_f32 hm]
  case other =>
    intro hU h1 h2 h3 h4 op
    rw [atomTy_of_ne_f32 hm hU, if_neg (by simp [*])]

end Sys2Proof.Machine

end AtomicValues

/-! Reductions and scans over the active lanes (R110, R111): both write, in each active lane, a word that depends on the
words of `v[a]` in active lanes only. -/

section LaneReductions

namespace Sys2Proof.Machine

open Sys2Proof

theorem tyF_intTy (T : Ty) : tyF (intTy T) = false := by cases T <;> rfl

theorem laneDtype_of_float {s : State} {T : Ty} (h : HasDtype s T) (hf : T = .f32 ∨ T = .f16 ∨ T = .bf16) :
    laneDtype s.sl.gm = .ok T := by
  simp only [laneDtype, vecDtype_ok s T h]
  rcases hf with rfl | rfl | rfl <;> rfl

theorem laneDtype_of_not_float {s : State} {T : Ty} (h : HasDtype s T) (hf : ¬ (T = .f32 ∨ T = .f16 ∨ T = .bf16)) :
    laneDtype s.sl.gm = .ok (intTy T) := by
  simp only [laneDtype, vecDtype_ok s T h, Bind.bind, Except.bind]
  split
  case h_1 | h_2 | h_3 => simp at hf
  case h_4 => rfl

/-- Where every lane depends on active lanes only, a source that is clean there passes. -/
theorem checkDeps_clean {s : State} {act : Word} {r : Nat} {dep : Nat → List Nat} (hc : Clean s act [r])
    (hdep : ∀ l, dep l ⊆ lanesOf act) : checkDeps s.g act r dep = .ok () := by
  have hclean : ∀ k ∈ lanesOf act, (s.g.getV r k).poison = false := fun k hk =>
    hc r (by simp) k ((mem_lanesOf act k).1 hk).1 ((mem_lanesOf act k).1 hk).2
  have hnone : (lanesOf act).filter (fun l => (dep l).any fun k => (s.g.getV r k).poison) = [] := by
    simp only [List.filter_eq_nil_iff, List.any_eq_true, not_exists, not_and, Bool.not_eq_true]
    exact fun l _ k hk => hclean k (hdep l hk)
  simp only [checkDeps, hnone]

/-- The form of `REDX` and `SCAN`: under an active mask, lane l depends on the lanes `dep` of `v[a]`, and gets the word `f` of
the element type, `gm`, the mask and the words of `v[a]`. -/
def laneInstr (s : State) (d a : BitVec 8) (dep : Word → Nat → List Nat) (f : Ty → Word → Word → (Nat → Word) → Nat → Word) : Out :=
  issueG s fun g => do
    let m ← (g.slot s.curSlot).mode
    need (g.vOk d.toNat && g.vOk a.toNat) opnd
    let t ← laneDtype m
    let act ← g.active s.curSlot
    checkDeps g act a.toNat (dep act)
    .ok (g.setVs d.toNat ((lanesOf act).map fun l => (l, f t m act (fun k => (g.getV a.toNat k).val) l)))

theorem exec_redx (o : RedOp) (d a : BitVec 8) (s : State) :
    exec (.redx o d a) s = laneInstr s d a (fun act _ => lanesOf act) (fun t m act w _ => redWord o t m act w) := rfl

theorem exec_scan (o : ScanOp) (d a : BitVec 8) (s : State) :
    exec (.scan o d a) s = laneInstr s d a (scanLanes o) (scanWord o) := rfl

/-- The effect of `REDX` or `SCAN` whose operands meet its conditions. -/
theorem laneInstr_writes {i : Instr} {s : State} {act : Word} {t : Ty} {d a : BitVec 8} {dep : Word → Nat → List Nat}
    {f : Ty → Word → Word → (Nat → Word) → Nat → Word} (hi : exec i s = laneInstr s d a dep f) (ha : Lanes s act)
    (ht : laneDtype s.sl.gm = .ok t) (ho : Owned s [d.toNat, a.toNat]) (hc : Clean s act [a.toNat])
    (hdep : ∀ l, dep act l ⊆ lanesOf act) : WritesVector i s act d.toNat (f t s.sl.gm act (s.vw a)) := by
  obtain ⟨v, hv, hwrites⟩ := setVs_writes s act d.toNat (f t s.sl.gm act (s.vw a))
  refine ⟨v, ?_, hwrites⟩
  have hvok : (s.g.vOk d.toNat && s.g.vOk a.toNat) = true := by simpa using owned_all s _ ho
  rw [hi, ← hv]
  refine issueG_ok _ _ _ ?_
  simp only [mode_lanes s act ha, hvok, need_true, ht, active_lanes s act ha, checkDeps_clean hc hdep, Bind.bind, Except.bind]
  rfl

/-- Settles O13: `redWord` and `scanWord` at the element type that `gm` gives, T itself for R92's types and the integer type
of R81 for any other. -/
theorem reductionsAndScans : Obligations.ReductionsAndScans := by
  intro s act T d a o o' ha hT ho hc m R float x num pre
  have writes : ∀ {t}, laneDtype m = .ok t →
      WritesVector (.redx o d a) s act d.toNat (fun _ => redWord o t m act (s.vw a)) ∧
      WritesVector (.scan o' d a) s act d.toNat (scanWord o' t m act (s.vw a)) := fun ht =>
    ⟨laneInstr_writes (exec_redx o d a s) ha ht ho hc fun _ => List.Subset.refl _,
     laneInstr_writes (exec_scan o' d a s) ha ht ho hc fun _ => List.filter_sublist.subset⟩
  refine ⟨fun hf => ?int, fun hf => ?float⟩
  case int =>
    have hF : ¬ tyF R = true := by simp [R, tyF_intTy]
    have hred : redWord o R m act (s.vw a) = _ := if_neg hF
    have hscan : scanWord o' R m act (s.vw a) = _ := funext fun _ => if_neg hF
    exact hred ▸ hscan ▸ writes (laneDtype_of_not_float hT hf)
  case float =>
    have hF : tyF T = true := by rcases hf with rfl | rfl | rfl <;> rfl
    have hred : redWord o T m act (s.vw a) = _ := if_pos hF
    have hscan : scanWord o' T m act (s.vw a) = _ := funext fun _ => if_pos hF
    exact hred ▸ hscan ▸ writes (laneDtype_of_float hT hf)

end Sys2Proof.Machine

end LaneReductions

/-! The fields of a VVV word, and of its scalar and predicate operands (R29, R33). -/

section VvvFields

namespace Sys2Proof

variable (op : BitVec 6) (sub : BitVec 2) (d a b : BitVec 8)

@[simp] theorem bOf_mkVVV : bOf (mkVVV op sub d a b) = b := BitVec.extractLsb'_append_eq_right

@[simp] theorem aOf_mkVVV : aOf (mkVVV op sub d a b) = a :=
  (BitVec.extractLsb'_append_eq_of_le (by decide)).trans BitVec.extractLsb'_append_eq_right

@[simp] theorem dOf_mkVVV : dOf (mkVVV op sub d a b) = d :=
  calc dOf (mkVVV op sub d a b)
    _ = (op ++ sub ++ d ++ a).extractLsb' 8 8 := BitVec.extractLsb'_append_eq_of_le (by decide)
    _ = (op ++ sub ++ d).extractLsb' 0 8 := BitVec.extractLsb'_append_eq_of_le (by decide)
    _ = d := BitVec.extractLsb'_append_eq_right

@[simp] theorem subOf_mkVVV : subOf (mkVVV op sub d a b) = sub :=
  calc subOf (mkVVV op sub d a b)
    _ = (op ++ sub ++ d ++ a).extractLsb' 16 2 := BitVec.extractLsb'_append_eq_of_le (by decide)
    _ = (op ++ sub ++ d).extractLsb' 8 2 := BitVec.extractLsb'_append_eq_of_le (by decide)
    _ = (op ++ sub).extractLsb' 0 2 := BitVec.extractLsb'_append_eq_of_le (by decide)
    _ = sub := BitVec.extractLsb'_append_eq_right

@[simp] theorem sdstOf_sdstField (d : BitVec 6) : sdstOf (sdstField d) = some d := by revert d; decide

@[simp] theorem nibOf_nibField (a : BitVec 4) : nibOf (nibField a) = some a := by revert a; decide

theorem append_sdstField (x : BitVec 8) (d : BitVec 6) : x ++ (0 : BitVec 2) ++ d = x ++ sdstField d := BitVec.append_assoc

theorem append_nibField (x : BitVec 16) (a : BitVec 4) : x ++ (0 : BitVec 4) ++ a = x ++ nibField a := BitVec.append_assoc

end Sys2Proof

end VvvFields

/-! `LEA` (R88). -/

section Lea

namespace Sys2Proof.Machine

open Sys2Proof

theorem decode_lea (sh : BitVec 2) (d a b : BitVec 8) : decode (mkVVV 0x0A sh d a b) = some (.lea sh d a b) := by
  simp [decode, decodeInteger]

theorem add_shiftLeft_eq_ofNat (x y : Word) (n : Nat) :
    x + y <<< n = BitVec.ofNat 32 ((x.toNat + y.toNat * 2 ^ n) % 2 ^ 32) := by
  refine BitVec.eq_of_toNat_eq ?_
  simp [Nat.shiftLeft_eq]

/-- Settles O53: the shift by the minor code is the product with the scale, modulo 2^32. -/
theorem leaScalesAndAdds : Obligations.LeaScalesAndAdds := by
  refine ⟨decode_lea, fun s act sh d a b ha ho hc => ?_⟩
  have hscale : (if sh = 0 then 1 else if sh = 1 then 2 else if sh = 2 then 4 else 8) = 2 ^ sh.toNat := by
    revert sh; decide
  refine vec2_writes _ s act d a b _ _ rfl ha ho hc rfl _ fun l => ?_
  rw [hscale, ← add_shiftLeft_eq_ofNat]

end Sys2Proof.Machine

end Lea

/-! `PCNT` (R106). -/

section Pcnt

namespace Sys2Proof.Machine

open Sys2Proof

/-! The word. -/

theorem pcntWord_eq_mkVVV (d : BitVec 6) (a : BitVec 4) :
    (0x1D : BitVec 6) ++ (1 : BitVec 2) ++ (0 : BitVec 2) ++ d ++ (0 : BitVec 4) ++ a ++ (0 : BitVec 8) =
      mkVVV 0x1D 1 (sdstField d) (nibField a) 0 :=
  have hd := congrArg (fun x : BitVec 16 => x ++ (0 : BitVec 4) ++ a) (append_sdstField (0x1D#6 ++ 1#2) d)
  congrArg (· ++ (0 : BitVec 8)) (hd.trans (append_nibField _ a))

theorem decode_pcnt (d : BitVec 6) (a : BitVec 4) :
    decode (mkVVV 0x1D 1 (sdstField d) (nibField a) 0) = some (.pcnt d a) := by
  simp [decode, decodePredicate, zeroThen]

theorem decode_pcnt_of_not_scalar {d : BitVec 8} (hd : sdstOf d = none) (a b : BitVec 8) :
    decode (mkVVV 0x1D 1 d a b) = none := by
  simp [decode, decodePredicate, hd]

/-! The count. -/

theorem popcount_and (x y : Word) :
    popcount (x &&& y) = ((List.range 32).filter fun l => x.getLsbD l && y.getLsbD l).length := by
  simp only [popcount, lanesOf, BitVec.getLsbD_and]

theorem popcount_le (x : Word) : popcount x ≤ 32 := Nat.le_trans (List.length_filter_le ..) (Nat.le_of_eq List.length_range)

theorem condZero_ofNat {n : Nat} (hn : n < 2 ^ 64) : condZero (BitVec.ofNat 64 n) = { z := n == 0 } := by
  have h : (BitVec.ofNat 64 n = 0) ↔ n = 0 := by bv_omega
  simp only [condZero, h]
  rfl

/-- A predicate that is not poisoned reads as its bits in the lanes that use it, also where no lane does. -/
theorem readPFor_clean {g : Group} {n : Nat} (h : (g.getP n).poison = false) (lanes : Word) :
    ∃ x, g.readPFor lanes n = .ok x ∧ lanes &&& x = lanes &&& (g.getP n).val := by
  by_cases h0 : lanes = 0
  · exact ⟨0, h0 ▸ readPFor_none g n, by simp [h0]⟩
  · exact ⟨_, by simp [readPFor_some g lanes n h0, Group.readP, h], rfl⟩

theorem pcnt_writes {s : State} {act : Word} {a : BitVec 4} {n : Nat} (d : BitVec 6) (ha : Lanes s act)
    (hp : (s.g.getP a.toNat).poison = false) (hn : popcount (act &&& (s.g.getP a.toNat).val) = n) :
    WritesScalar (.pcnt d a) s d (BitVec.ofNat 64 n) (condZero (BitVec.ofNat 64 n)) := by
  obtain ⟨x, hx, hand⟩ := readPFor_clean hp act
  change execPcnt d a s = _
  refine issue_ok _ _ _ ?_
  simp only [active_lanes s act ha, hx, hand, hn, Bind.bind, Except.bind]
  unfold State.setScalar State.sl
  cases s.curSlot <;> rfl

/-- Settles O54: a d of 0x40 or above names no scalar register, and the count of at most 32 lanes is zero where its 64-bit
word is. -/
theorem pcntCountsActiveLanes : Obligations.PcntCountsActiveLanes := by
  refine ⟨fun d a => ?word, fun d a b hd => ?refused, ?count⟩
  case word => exact (congrArg decode (pcntWord_eq_mkVVV d a)).trans (decode_pcnt d a)
  case refused => exact decode_pcnt_of_not_scalar (if_neg (Nat.not_lt.2 hd)) a b
  case count =>
    intro s act d a ha hp n
    have hn : popcount (act &&& (s.g.getP a.toNat).val) = n := popcount_and _ _
    have hlt : n < 2 ^ 64 := Nat.lt_of_le_of_lt (hn ▸ popcount_le _) (by decide)
    exact condZero_ofNat hlt ▸ pcnt_writes d ha hp hn

end Sys2Proof.Machine

end Pcnt
